-- ==== Sys2Proof/Word.lean ====
section
/-! DEFINITION. The word types of the machine and their plainest arithmetic. -/

namespace Sys2Proof

abbrev Byte := BitVec 8
/-- A 64-bit pattern: a register of any width up to 64 holds its pattern in the low bits. -/
abbrev Word := BitVec 64
/-- One bit per lane, bit l for lane l (R35). -/
abbrev Mask := BitVec 32
/-- The 32 lane values of a lane register, lane 0 first. -/
abbrev Lanes := List Word

/-- The two core kinds (R18). -/
inductive CoreKind where
  | lcore
  | dcore
deriving DecidableEq, Repr

/-- A core, by its global number within its kind (R26). -/
structure CoreId where
  kind : CoreKind
  num : Nat
deriving DecidableEq, Repr

/-- The 32 values of a function of the lane number. -/
def tab32 {α : Type} (f : Nat → α) : List α := (List.range 32).map f

/-- The mask of the lanes on which p holds. -/
def maskOf (p : Nat → Bool) : Mask :=
  (List.range 32).foldl (fun m l => if p l then m ||| (1#32 <<< l) else m) 0#32

/-- The lanes of a mask, lowest first. -/
def lanesOf (m : Mask) : List Nat := (List.range 32).filter (fun l => m.getLsbD l)

/-- The value of lane l; lanes beyond the list read 0. -/
def laneOf (v : Lanes) (l : Nat) : Word := v.getD l 0

/-- zext(x, 64) of the low w bits (R12). -/
def lowBits (w : Nat) (x : Word) : Word := BitVec.ofNat 64 (x.toNat % 2 ^ w)

/-- The unsigned number in the low w bits. -/
def uval (w : Nat) (x : Word) : Nat := x.toNat % 2 ^ w

/-- The two's-complement number in the low w bits (R11, R98). -/
def sval (w : Nat) (x : Word) : Int :=
  let n := x.toNat % 2 ^ w
  if n < 2 ^ (w - 1) then (n : Int) else (n : Int) - (2 ^ w : Nat)

/-- The low w bits of the two's-complement form of v (the slice of R12). -/
def ofInt (w : Nat) (v : Int) : Word := BitVec.ofNat 64 (v % (2 ^ w : Nat)).toNat

/-- sat(v, lo, hi) of R12. -/
def satInt (v lo hi : Int) : Int := if v < lo then lo else if hi < v then hi else v

/-- The bits [lo+n-1:lo] of x as a number (R8). -/
def field (x : Word) (lo n : Nat) : Nat := x.toNat / 2 ^ lo % 2 ^ n

/-- The word of a little-endian list of bytes (R8). -/
def ofBytesLE : List Byte → Nat
  | [] => 0
  | b :: bs => b.toNat + 256 * ofBytesLE bs

/-- The n little-endian bytes of a number (R8). -/
def toBytesLE : Nat → Nat → List Byte
  | 0, _ => []
  | n + 1, v => BitVec.ofNat 8 v :: toBytesLE n (v / 256)

end Sys2Proof
end

