-- ==== Sys2Proof/Syntax.lean ====
section
/-! DEFINITION. The instructions: one constructor per row of the opcode table, with the fields of R127 to R135 (JV words)
or of R278 (native slot words). -/

namespace Sys2Proof

/-- One operand, JV (R129 to R132) or native (R283). -/
inductive Operand where
  /-- 0xFE0, `%none`. -/
  | none
  /-- A JV virtual register; esc when it stands in an escape word (0xFF0). -/
  | reg (n : Nat) (esc : Bool)
  /-- A literal selector 0xF00 to 0xF3F. -/
  | lit (v : BitVec 6)
  /-- An immediate escape 0xFF1 (k = 1), 0xFF2 (k = 2) or 0xFF3 (k = 3) with its 64-bit pattern (R130). -/
  | imm (k : Nat) (v : Word)
  /-- A system selector 0xF80 + sel. -/
  | sys (sel : Nat)
  /-- `%true` and `%false`. -/
  | pconst (b : Bool)
  /-- Native vector registers of cluster X, cluster Y and of the L-core. -/
  | vx (n : Nat) | vy (n : Nat) | vl (n : Nat)
  /-- Native scalar and predicate registers, LR and RRB. -/
  | sreg (n : Nat) | preg (n : Nat) | lr | rrb
  /-- Native tile code (R283). -/
  | tile (n : Nat)
  /-- Native immediate, read as a literal under R132 (R288). -/
  | nimm (v : Int)
deriving DecidableEq, Repr

/-- The guard of an instruction (R135, R280). -/
inductive Guard where
  | always
  /-- GD 0 to 125. -/
  | direct (n : Nat)
  /-- GD 126, the number in the modifier word's C field. -/
  | wide (n : Nat)
deriving DecidableEq, Repr

/-- The fields of a JV instruction (R127, R133). -/
structure JvForm where
  gneg : Bool
  guard : Guard
  ty : Nat
  d : Operand
  a : Operand
  b : Operand
  c : Operand
  off : BitVec 32
  pol : Nat
  spc : Nat
  ord : Nat
  scp : Nat
  rm : Nat
  sub : Nat
  /-- The modifier word is present (R134). -/
  hasMod : Bool
deriving DecidableEq, Repr

/-- The fields of a native slot word (R278), with the core kind and slot index (R275 to R277) it is issued in. -/
structure NatForm where
  kind : CoreKind
  slot : Nat
  g : BitVec 4
  gn : Bool
  d : BitVec 7
  a : BitVec 7
  b : BitVec 7
  c : BitVec 7
  x : BitVec 21
deriving DecidableEq, Repr

/-- The fields of an encoded row, in either encoding. -/
inductive Form where
  | jv (f : JvForm)
  | nat (f : NatForm)
deriving DecidableEq, Repr

/-- The operands and fields of an operation, whichever encoding carried them: what a meaning reads. -/
structure Args where
  ty : Nat
  d : Operand
  a : Operand
  b : Operand
  c : Operand
  /-- Byte offset, or the value an instruction's description places in off. -/
  off : Int
  pol : Nat
  spc : Nat
  ord : Nat
  scp : Nat
  rm : Nat
  sub : Nat
  /-- The register that holds k, where the native form has one (R289). -/
  kreg : Operand
  /-- Hoist count of a native spec load (R308). -/
  spec : Option Nat
deriving DecidableEq, Repr

/-- A class 1 condition: its cause, the word and the lowest bit of the offending field (R449, R450). -/
structure Problem where
  cause : Nat
  word : Nat
  bit : Nat
deriving DecidableEq, Repr

/-- An error of a matrix pipe: in the named group step, limb pair and channel, the residue of row and column is off by delta (R116,
R489) [76, DESIGN CHOICE]. -/
structure PipeErr where
  grp : Nat
  row : Nat
  col : Nat
  chan : Nat
  limb : Nat
  delta : Nat
deriving DecidableEq, Repr

/-- Where an ECC error lies (R471, R472) [76, DESIGN CHOICE]. -/
inductive EccSite where
  /-- A granule of die memory, HBM or host memory, by its flat physical address over 8 (see Machine/Ops). -/
  | mem (granule : Nat)
  /-- A granule of a team's scratch. -/
  | scratch (rid granule : Nat)
  /-- A granule of a gang's spill area. -/
  | spill (rid gang granule : Nat)
  /-- A granule, 0 to 15, of a line of a core's L1. -/
  | line (core : CoreId) (asid vline granule : Nat)
  /-- A granule of a register of a gang, or of its saved image: the location code of R317 on the native machine, 1024 and the register's number
  in JV code; the granule counts from 0 within the register. -/
  | regs (rid gang reg granule : Nat)
  /-- The SIG register of a context, off by a value: an error that no ECC sees and the signatures are there to find (R488)
  [76, DESIGN CHOICE]. -/
  | sig (rid gang split : Nat) (x : Word)
  /-- A tile of a team. -/
  | tile (rid tile : Nat)
  /-- A preload copy (R480). -/
  | preload (core : CoreId)
  /-- A core's matrix pipe, for its next mma: an error that no ECC sees and the tile assay is there to find (R489) [76, DESIGN CHOICE]. -/
  | pipe (core : CoreId) (err : PipeErr)
  /-- An assay sum that a tile carries, by its line, off by delta: likewise silent (R490) [76, DESIGN CHOICE]. -/
  | sums (rid tile line : Nat) (col : Bool) (delta : Nat)
deriving DecidableEq, Repr

/-- What a PTP message does to the package clock (R395). -/
inductive PtpAction where
  /-- A message that changes nothing yet. -/
  | hear
  /-- The clock locks, stepping forward by this many ns. -/
  | lock (forward : Nat)
  /-- Slew by parts per million, at most 500. -/
  | slew (ppm : Int)
deriving DecidableEq, Repr

/-- The rows of the opcode table that have an encoding: JV instructions (R137) and native-only operations (R286).
A row that is one form of an instruction (hcopy.ck, htens.st, ckpack.unpk, mma.ra, asst.st, asst.tol, asst.clr) stands for that form. -/
inductive Op where
  | add | sub | mul | mulhi | mad | div | rem | min | max | abs
  | neg | dp4 | lea | and | or | xor | not | shl | shr | sar
  | rotl | popc | clz | brev | bfx | bfi | mov | movi | sel | setp
  | pand | por | pxor | pnot | fadd | fsub | fmul | ffma | fmin | fmax
  | fabs | fneg | fdiv | fsqrt | frcp | frsq | fex2 | flg2 | fscale | fsetp
  | fclass | frnd | fcvt | f2i | i2f | fadd2 | fmul2 | ffma2 | fdot2 | rdsr
  | elect | vote | matchLanes | shfl | redux | scan | bra | brx | call | callx
  | ret | join | exit | yield | nsleep | waita | bar | barar | barwt | setfmt
  | getfmt | ld | st | ldu | atom | cas | aqadd | fence | pref | fgath
  | codeload | hcopy | hcopyCk | htens | htensSt | hgath | hscat | hred | hmcast | hfill
  | hwait | htest | ckpack | ckpackUnpk | ckver | ckinfo | mma | mmaRa | accz | accld
  | accst | accmax | accanc | tri | xcut | asstSt | asstTol | asstClr | trap | tvec
  | tret | mig | query | qkind | chksig | sigset | launch | ptime | prfrd | brkpt
  | loop | rrbset | cmt | eqp | movx | sigadv | nop
deriving DecidableEq, Repr

/-- One constructor per row of spec/opcode_table.json. The encoded rows carry their fields; an event row carries what
the event is about, and has no encoding: it stands in State.agenda, or the step finds that it is due. -/
inductive Instr where
  /-- R162: Integer addition, wrapping or saturating under .sat, in each executing lane. -/
  | add (f : Form)
  /-- R162: Integer subtraction, wrapping or saturating under .sat. -/
  | sub (f : Form)
  /-- R162: Integer multiply that keeps the low half of the product. -/
  | mul (f : Form)
  /-- R162: Integer multiply that keeps the high half of the 2w-bit product. -/
  | mulhi (f : Form)
  /-- R162: Integer multiply-add as one exact sum, then wrap or saturate. -/
  | mad (f : Form)
  /-- R162: Integer divide truncating toward zero, with defined results for a zero divisor and for minimum by -1. -/
  | div (f : Form)
  /-- R162: Integer remainder with the sign of the dividend, with defined borderline results. -/
  | rem (f : Form)
  /-- R162: Integer minimum in TY. -/
  | min (f : Form)
  /-- R162: Integer maximum in TY. -/
  | max (f : Form)
  /-- R162: Integer absolute value, wrapped. -/
  | abs (f : Form)
  /-- R162: Integer negation, wrapped. -/
  | neg (f : Form)
  /-- R162: Four-way 8-bit dot product added to c, wrapped or saturated. -/
  | dp4 (f : Form)
  /-- R162: Computes a + b x 2^s, wrapped. -/
  | lea (f : Form)
  /-- R163: Bitwise AND. -/
  | and (f : Form)
  /-- R163: Bitwise OR. -/
  | or (f : Form)
  /-- R163: Bitwise XOR. -/
  | xor (f : Form)
  /-- R163: Bitwise complement. -/
  | not (f : Form)
  /-- R163: Shift left, giving 0 when the count is at or above the width. -/
  | shl (f : Form)
  /-- R163: Logical shift right, giving 0 when the count is at or above the width. -/
  | shr (f : Form)
  /-- R163: Arithmetic shift right by min(b, w-1). -/
  | sar (f : Form)
  /-- R163: Rotate left by b mod w. -/
  | rotl (f : Form)
  /-- R163: Counts the ones in the operand. -/
  | popc (f : Form)
  /-- R163: Counts the leading zeros, giving w for zero. -/
  | clz (f : Form)
  /-- R163: Reverses the bits of the operand. -/
  | brev (f : Form)
  /-- R164: Extracts a bit field given by a position and length descriptor. -/
  | bfx (f : Form)
  /-- R164: Inserts a bit field given by a position and length descriptor. -/
  | bfi (f : Form)
  /-- R165: Copies a bit pattern; it is the only instruction that can write FLG. -/
  | mov (f : Form)
  /-- R166: Reads the member of a tile selected by a per-lane index modulo the tile size. -/
  | movi (f : Form)
  /-- R167: Selects a or b in each lane by a predicate. -/
  | sel (f : Form)
  /-- R168: Integer compare that writes a predicate. -/
  | setp (f : Form)
  /-- R169: Predicate AND. -/
  | pand (f : Form)
  /-- R169: Predicate OR. -/
  | por (f : Form)
  /-- R169: Predicate XOR. -/
  | pxor (f : Form)
  /-- R169: Predicate NOT. -/
  | pnot (f : Form)
  /-- R170: Floating add, correctly rounded. -/
  | fadd (f : Form)
  /-- R170: Floating subtract, correctly rounded. -/
  | fsub (f : Form)
  /-- R170: Floating multiply, correctly rounded. -/
  | fmul (f : Form)
  /-- R170: Fused multiply-add, rounded once. -/
  | ffma (f : Form)
  /-- R171: Floating minimum, with NaN and signed-zero handling. -/
  | fmin (f : Form)
  /-- R171: Floating maximum, with NaN and signed-zero handling. -/
  | fmax (f : Form)
  /-- R170: Clears the sign bit; changes bits only and raises no flag. -/
  | fabs (f : Form)
  /-- R170: Inverts the sign bit; changes bits only and raises no flag. -/
  | fneg (f : Form)
  /-- R171: Floating divide, correctly rounded. -/
  | fdiv (f : Form)
  /-- R171: Floating square root, correctly rounded. -/
  | fsqrt (f : Form)
  /-- R171: Floating reciprocal, correctly rounded. -/
  | frcp (f : Form)
  /-- R171: Floating reciprocal square root, correctly rounded. -/
  | frsq (f : Form)
  /-- R171: Floating 2^a, correctly rounded. -/
  | fex2 (f : Form)
  /-- R171: Floating log2 a, correctly rounded. -/
  | flg2 (f : Form)
  /-- R171: Computes a x 2^b with an integer b. -/
  | fscale (f : Form)
  /-- R172: Floating compare, ordered or unordered, that writes a predicate. -/
  | fsetp (f : Form)
  /-- R172: Writes a one-hot class mask of the operand. -/
  | fclass (f : Form)
  /-- R172: Rounds to an integral value in the floating type. -/
  | frnd (f : Form)
  /-- R172: Converts between floating formats. -/
  | fcvt (f : Form)
  /-- R172: Converts a floating value to an integer under cvti. -/
  | f2i (f : Form)
  /-- R172: Converts an integer to a floating format. -/
  | i2f (f : Form)
  /-- R173: Packed two-element floating add. -/
  | fadd2 (f : Form)
  /-- R173: Packed two-element floating multiply. -/
  | fmul2 (f : Form)
  /-- R173: Packed two-element fused multiply-add. -/
  | ffma2 (f : Form)
  /-- R173: Two-element dot product added into FP32 and rounded once. -/
  | fdot2 (f : Form)
  /-- R179: Copies a system value or special operand into a register. -/
  | rdsr (f : Form)
  /-- R178: Chooses one executing lane in cyclic order from s. -/
  | elect (f : Form)
  /-- R175: Combines a predicate over the executing lanes by mode. -/
  | vote (f : Form)
  /-- R176: Finds the lanes with equal values, as a peer mask or a lead lane. -/
  | matchLanes (f : Form)
  /-- R174: Moves lane values within aligned segments by mode. -/
  | shfl (f : Form)
  /-- R177: Reduces across lanes in the fixed tree. -/
  | redux (f : Form)
  /-- R177: Inclusive scan across lanes in the fixed tree. -/
  | scan (f : Form)
  /-- R182: Branch that moves the PC or diverges the split. -/
  | bra (f : Form)
  /-- R183: Indirect branch with per-lane targets that can diverge into several groups. -/
  | brx (f : Form)
  /-- R184: Pushes the fall-through onto the return stack and jumps. -/
  | call (f : Form)
  /-- R184: Indirect call through a uniform register. -/
  | callx (f : Form)
  /-- R184: Pops the return stack into the PC. -/
  | ret (f : Form)
  /-- R44: Closes a divergent region: runs held lanes, parks, merges, or does nothing. -/
  | join (f : Form)
  /-- R185: Removes the executing lanes from their split for good. -/
  | exit (f : Form)
  /-- R187: Yield point that restamps the context and switches if another context is ready. -/
  | yield (f : Form)
  /-- R188: Puts the split to sleep for a clamped number of ns. -/
  | nsleep (f : Form)
  /-- R189: Parks the split until a watched word satisfies a comparison. -/
  | waita (f : Form)
  /-- R57: Arrives at a team barrier and parks until its phase completes. -/
  | bar (f : Form)
  /-- R57: Arrives at a team barrier and continues. -/
  | barar (f : Form)
  /-- R57: Waits for the phase in which the gang last arrived to complete. -/
  | barwt (f : Form)
  /-- R180: Writes the split's FMT under a mask. -/
  | setfmt (f : Form)
  /-- R180: Reads the split's FMT. -/
  | getfmt (f : Form)
  /-- R195: Load from the spill stack, team scratch or die memory. -/
  | ld (f : Form)
  /-- R195: Store to the spill stack, team scratch or die memory. -/
  | st (f : Form)
  /-- R195: Uniform load, read once for the split. -/
  | ldu (f : Form)
  /-- R197: Atomic read-modify-write at the home slice or the scratch bank. -/
  | atom (f : Form)
  /-- R199: Atomic compare-and-swap. -/
  | cas (f : Form)
  /-- R200: Anchored saturating add to an AQ64 word. -/
  | aqadd (f : Form)
  /-- R201: Orders accesses to the named spaces, writing back or invalidating L1 at die scope or wider. -/
  | fence (f : Form)
  /-- R202: Prefetches lines into L1, or is dropped with no effect. -/
  | pref (f : Form)
  /-- R203: Gathers up to 32 words from one slice in one face-unit operation. -/
  | fgath (f : Form)
  /-- R204: Translates a region of JV code at run time for the team. -/
  | codeload (f : Form)
  /-- R210: Issues a bytewise checksummed copy job. -/
  | hcopy (f : Form)
  /-- R211: Issues a copy job of stored chunks, verified at each hop. -/
  | hcopyCk (f : Form)
  /-- R213: Issues a job that reads a tensor-map window into a dense block with conversion. -/
  | htens (f : Form)
  /-- R213: Issues a job that writes a dense block into a tensor-map window. -/
  | htensSt (f : Form)
  /-- R215: Issues a job that gathers indexed rows of a tensor. -/
  | hgath (f : Form)
  /-- R215: Issues a job that scatters rows into indexed rows of a tensor. -/
  | hscat (f : Form)
  /-- R216: Issues a job that reduces stored chunks into chunks at their home face units. -/
  | hred (f : Form)
  /-- R212: Issues a job that copies bytes to up to 64 team scratch handles. -/
  | hmcast (f : Form)
  /-- R212: Issues a job that fills bytes with a granule-aligned 64-bit pattern. -/
  | hfill (f : Form)
  /-- R217: Parks the split until the masked haul tokens are complete. -/
  | hwait (f : Form)
  /-- R217: Reports which masked tokens are complete, without parking. -/
  | htest (f : Form)
  /-- R218: Issues a job that packs elements into checksummed chunks. -/
  | ckpack (f : Form)
  /-- R219: Issues a job that verifies chunks and unpacks them into elements. -/
  | ckpackUnpk (f : Form)
  /-- R220: Checks stored chunks and returns the number that fail. -/
  | ckver (f : Form)
  /-- R221: Reads one header field of a stored chunk. -/
  | ckinfo (f : Form)
  /-- R240: Exact matrix multiply-accumulate of A and B blocks into a tile, latching A. -/
  | mma (f : Form)
  /-- R241: Matrix multiply-accumulate that reuses the latched A operand. -/
  | mmaRa (f : Form)
  /-- R245: Zeroes a tile and sets its anchor from FMT. -/
  | accz (f : Form)
  /-- R246: Loads a tile from scratch or die memory. -/
  | accld (f : Form)
  /-- R247: Converts and stores rows of a tile. -/
  | accst (f : Form)
  /-- R249: Writes the largest element magnitude of a tile. -/
  | accmax (f : Form)
  /-- R250: Re-anchors every element of a tile. -/
  | accanc (f : Form)
  /-- R251: Writes a constant triangular, identity, ones or zero operand into scratch. -/
  | tri (f : Form)
  /-- R253: Transposes a 32 x 32 block of lane values through the crosscut. -/
  | xcut (f : Form)
  /-- R256: Reads a tile's assay status word. -/
  | asstSt (f : Form)
  /-- R256: Sets a tile's conversion-check tolerance. -/
  | asstTol (f : Form)
  /-- R256: Clears a tile's assay status word. -/
  | asstClr (f : Form)
  /-- R224: Raises cause 576 + n and enters the gang's handler. -/
  | trap (f : Form)
  /-- R223: Sets the gang's handler address and frame area. -/
  | tvec (f : Form)
  /-- R435: Ends a handler, restores state from the frame and unmasks traps. -/
  | tret (f : Form)
  /-- R228: Collective request to move the team to another core kind, with a status. -/
  | mig (f : Form)
  /-- R229: Reads feature words, architecture version or package number. -/
  | query (f : Form)
  /-- R229: Reads the team's current placement. -/
  | qkind (f : Form)
  /-- R227: Compares SIG with a value and faults on a mismatch. -/
  | chksig (f : Form)
  /-- R227: Sets the split's SIG. -/
  | sigset (f : Form)
  /-- R230: Enqueues a launch packet in a device queue. -/
  | launch (f : Form)
  /-- R231: Reads the package PTP clock. -/
  | ptime (f : Form)
  /-- R232: Reads a profile counter. -/
  | prfrd (f : Form)
  /-- R225: Stops the team for the host when debugging is enabled, otherwise changes only SIG. -/
  | brkpt (f : Form)
  /-- R300: Native loop close: counts LR down, rotates RRB and the stage predicates, and branches. -/
  | loop (f : Form)
  /-- R298: Native: sets the rotating register base. -/
  | rrbset (f : Form)
  /-- R305: Native commit point with an indexed record. -/
  | cmt (f : Form)
  /-- R307: Native commit point that is also an equivalence point. -/
  | eqp (f : Form)
  /-- R301: Native copy of 32 bits per lane from the other register cluster. -/
  | movx (f : Form)
  /-- R533: Native: advances SIG by n combined instruction steps. -/
  | sigadv (f : Form)
  /-- R279: Native all-zero slot word that does nothing. -/
  | nop (f : Form)
  /-- R290: An exposed result is written to its register at its latency. -/
  | exposedResultLand (rid gang split : Nat)
  /-- R293: An interlocked load or atomic result arrives and releases held bundles. -/
  | loadResultArrive (rid gang split : Nat)
  /-- R313: A tailings entry lands in its register after its remaining count on resumption. -/
  | tailingLand (rid gang split : Nat)
  /-- R188: A sleeping context becomes ready when its time has passed. -/
  | nsleepWake (rid gang split : Nat)
  /-- R189: A write to a watched word re-tests a parked waita and may make it ready. -/
  | waitaWake (rid gang split : Nat)
  /-- R204: Translation of a codeload region completes and d is written. -/
  | codeloadDone (rid gang split : Nat)
  /-- R220: The agents finish a ckver check and write the count. -/
  | ckverDone (rid gang split : Nat)
  /-- R21: A haul agent takes a 4 KiB chunk from a die chunk queue and performs it. -/
  | haulChunk (die agent : Nat)
  /-- R376: A chunk arrives at a hop, is checked and has its hops and trail updated. -/
  | chunkHop (flight : Nat)
  /-- R378: A face unit adds an arriving chunk into its destination chunk and updates the header. -/
  | chunkReduction (flight : Nat)
  /-- R78: A scratch write held during a team move lands on the new core. -/
  | heldWriteRelease (rid : Nat)
  /-- R90: The last chunk of a job finishes and the job completes. -/
  | haulJobComplete (job : Nat)
  /-- R87: A face unit performs an atomic, cas, aqadd or gather request on its words. -/
  | faceUnitOperation (unit : Nat)
  /-- R261: An L1 line is evicted and written back, at any time. -/
  | l1Eviction (core : CoreId) (asid line : Nat)
  /-- R81: Firmware moves a die-memory page to HBM. -/
  | pageMoveToHbm (asid vbase stack : Nat)
  /-- R464: A page arrives in die memory and the gangs parked on it are made ready. -/
  | pageMigrationComplete (asid vbase : Nat)
  /-- R465: No frame frees within 10 ms, the migration fails and the parked teams are terminated. -/
  | migrationTimeout (asid vbase : Nat)
  /-- R471: An ECC error is corrected and logged, or poisons its granule. -/
  | eccError (site : EccSite) (corrected : Bool)
  /-- R52: A team whose gangs have exited and whose jobs are complete frees its resources. -/
  | teamRetire (rid : Nat)
  /-- R437: A handler is still masked at the limit and the team is terminated with 960. -/
  | maskWatchdogExpiry (rid gang : Nat)
  /-- R482: A wait passes its configured limit and the team is terminated with 962. -/
  | waitWatchdogExpiry (rid gang split : Nat)
  /-- R479: A team reaches its resident-time budget and is suspended, or terminated at the eighth overrun. -/
  | budgetOverrun (rid : Nat)
  /-- R344: A no-op packet is consumed. -/
  | noopPacket (queue : Nat)
  /-- R345: A launch packet is issued toward admission. -/
  | launchPacket (queue : Nat)
  /-- R346: A call packet processes a command buffer before the rest of the queue. -/
  | callPacket (queue : Nat)
  /-- R347: A join packet stops look-ahead, optionally until earlier tasks retire. -/
  | joinPacket (queue : Nat)
  /-- R348: A signal packet writes a value as a system release after earlier tasks retire. -/
  | signalPacket (queue : Nat)
  /-- R513: A packet breaking the rules halts its queue with a reason. -/
  | unassignedPacket (queue : Nat)
  /-- R350: A launch meeting its conditions is admitted, and its arguments are copied. -/
  | taskAdmit (queue : Nat)
  /-- R329: Tiarlo completes a missing translation into the lode. -/
  | tiarloTranslate (handle : Nat) (kind : CoreKind)
  /-- R332: A peer package's request for a translation key is answered. -/
  | lodePeerQuery (package : Nat) (key : BitVec 256)
  /-- R332: A peer reply with a matching digest supplies the translation. -/
  | lodePeerReply (package : Nat) (key : BitVec 256) (digestOk : Bool)
  /-- R332: No peer reply within 50 us, so translation proceeds locally. -/
  | lodePeerTimeout (key : BitVec 256)
  /-- R335: A translation reaches the hot threshold and Tiarlo re-optimises it. -/
  | reoptimise (key : BitVec 256)
  /-- R356: A die dispatcher places the next fitting team on a core. -/
  | teamPlace (die : Nat)
  /-- R359: A dispatcher preloads code and saved scratch for the next team on a core. -/
  | preload (core : CoreId)
  /-- R361: The preloaded team becomes resident. -/
  | preloadSwitch (core : CoreId)
  /-- R363: A team is suspended natively with tailings and saved to its save area. -/
  | nativeSuspend (rid : Nat)
  /-- R364: Each context runs on to a commit or equivalence point and the team is saved. -/
  | virtualPreciseStop (rid : Nat)
  /-- R363: A suspended team's saved state is placed back on a core. -/
  | teamResume (rid : Nat)
  /-- R339: The dispatcher asks a team to park at equivalence points for a move. -/
  | dispatcherMoveRequest (rid : Nat)
  /-- R339: The move request lapses 100 us after it was posted. -/
  | dispatcherMoveLapse (rid : Nat)
  /-- R342: A host write of a queue's write index to its BAR0 doorbell. -/
  | doorbell (offset : Nat) (value : BitVec 32)
  /-- R385: A host read through a device memory aperture. -/
  | bar2Read (offset bytes : Nat)
  /-- R385: A host write through a device memory aperture. -/
  | bar2Write (offset : Nat) (bytes : List Byte)
  /-- R386: A read of PTPSEC latches PTPNS. -/
  | ptpsec
  /-- R391: A host write of EVHEAD frees event slots and releases held events. -/
  | evhead (value : Word)
  /-- R524: A write to the injector control arms it or clears fired. -/
  | injctl (value : Word)
  /-- R386: A write to any other BAR4 register, stored or dropped under R514. -/
  | bar4RegisterWrite (offset : Nat) (value : Word)
  /-- R388: Command that creates a command queue. -/
  | qcreate
  /-- R388: Command that destroys a queue, ending any halt. -/
  | qdestroy
  /-- R388: Command that maps pages in die memory, HBM or host memory. -/
  | mapPages
  /-- R512: Command that removes the pages wholly inside a range. -/
  | unmap
  /-- R388: Command that loads and relocates a code object. -/
  | coload
  /-- R388: Command that unloads a code object. -/
  | counload
  /-- R388: Command that resumes a stopped team. -/
  | tresume
  /-- R388: Command that stops a team for the host. -/
  | tstop
  /-- R515: Command that writes a snapshot summary and the fault log to a buffer. -/
  | resync
  /-- R403: Command that updates the firmware live through a standby handover. -/
  | fwupdate
  /-- R396: Command that defines an Ethernet ingress area. -/
  | ingset
  /-- R510: A command with an unassigned code completes with st = 1. -/
  | unassignedCommand
  /-- R398: An Ethernet frame is stored in an ingress slot with a time stamp and released. -/
  | frameReceive (port : Nat) (stamp : Nat) (frame : List Byte)
  /-- R395: A PTP message is received and the package clock is slewed or stepped. -/
  | ptpMessage (action : PtpAction)
  /-- R392: A peer link trains, its peer answers as expected and it reserves buffers. -/
  | linkReady (link peerPackage peerLink : Nat)
  /-- R485: A peer stops answering without a notice and its links are lost. -/
  | linkDown (link : Nat)
  /-- R485: After 100 ms, outstanding requests to a silent peer are treated as reset. -/
  | peerSilentTimeout (package : Nat)
  /-- R483: A peer's recovery notice stops the clocks of dependent waits and holds accesses. -/
  | recoveryNotice (package : Nat)
  /-- R484: A peer's done notice releases or fails the held accesses. -/
  | doneNotice (package : Nat) (kept : Bool)
  /-- R484: No done notice within 60 s, so the peer counts as reset. -/
  | doneNoticeTimeout (package : Nat)
  /-- R29: The average power is above the limit and the D-clock is lowered by 50 MHz. -/
  | powerClockDown (milliwatts : Nat)
  /-- R29: The average power is below 2,700 W and the D-clock is raised by 50 MHz. -/
  | powerClockUp (milliwatts : Nat)
  /-- R399: Both complexes boot from ROM, verify the images and take their roles. -/
  | packageReset
  /-- R400: A unit finishes start-up and sets its readiness bit. -/
  | unitReady (bit : Nat)
  /-- R508: A readiness bit is still clear at its deadline and a record is written. -/
  | readyDeadline (bit : Nat)
  /-- R501: Three heartbeats in a row go missing and the standby starts a takeover. -/
  | heartbeatLoss
  /-- R501: The active complex reports its own failure. -/
  | activeFailureReport
  /-- R506: The failed complex is rebooted, self-checked and made standby. -/
  | standbyReboot
  /-- R509: A MAP that has waited 10 s on a die, stack or package that is not ready completes with st = 5. -/
  | mapWaitTimeout
  /-- R467: A device read of a host page that the host does not complete within the PCIe completion timeout makes its chunk unreachable under cause 332. -/
  | pcieCompletionTimeout (job chunk : Nat)
  /-- R506: A complex that is not active fails, for example within 60 s of its reboot, and stays in reset. -/
  | standbyComplexFailure
  /-- R360: A preload is dropped at any time without effect. -/
  | preloadDropped (core : CoreId)
deriving DecidableEq, Repr

/-- The instruction of an operation with its fields. -/
def Instr.ofOp (o : Op) (f : Form) : Instr :=
  match o with
  | .add => .add f
  | .sub => .sub f
  | .mul => .mul f
  | .mulhi => .mulhi f
  | .mad => .mad f
  | .div => .div f
  | .rem => .rem f
  | .min => .min f
  | .max => .max f
  | .abs => .abs f
  | .neg => .neg f
  | .dp4 => .dp4 f
  | .lea => .lea f
  | .and => .and f
  | .or => .or f
  | .xor => .xor f
  | .not => .not f
  | .shl => .shl f
  | .shr => .shr f
  | .sar => .sar f
  | .rotl => .rotl f
  | .popc => .popc f
  | .clz => .clz f
  | .brev => .brev f
  | .bfx => .bfx f
  | .bfi => .bfi f
  | .mov => .mov f
  | .movi => .movi f
  | .sel => .sel f
  | .setp => .setp f
  | .pand => .pand f
  | .por => .por f
  | .pxor => .pxor f
  | .pnot => .pnot f
  | .fadd => .fadd f
  | .fsub => .fsub f
  | .fmul => .fmul f
  | .ffma => .ffma f
  | .fmin => .fmin f
  | .fmax => .fmax f
  | .fabs => .fabs f
  | .fneg => .fneg f
  | .fdiv => .fdiv f
  | .fsqrt => .fsqrt f
  | .frcp => .frcp f
  | .frsq => .frsq f
  | .fex2 => .fex2 f
  | .flg2 => .flg2 f
  | .fscale => .fscale f
  | .fsetp => .fsetp f
  | .fclass => .fclass f
  | .frnd => .frnd f
  | .fcvt => .fcvt f
  | .f2i => .f2i f
  | .i2f => .i2f f
  | .fadd2 => .fadd2 f
  | .fmul2 => .fmul2 f
  | .ffma2 => .ffma2 f
  | .fdot2 => .fdot2 f
  | .rdsr => .rdsr f
  | .elect => .elect f
  | .vote => .vote f
  | .matchLanes => .matchLanes f
  | .shfl => .shfl f
  | .redux => .redux f
  | .scan => .scan f
  | .bra => .bra f
  | .brx => .brx f
  | .call => .call f
  | .callx => .callx f
  | .ret => .ret f
  | .join => .join f
  | .exit => .exit f
  | .yield => .yield f
  | .nsleep => .nsleep f
  | .waita => .waita f
  | .bar => .bar f
  | .barar => .barar f
  | .barwt => .barwt f
  | .setfmt => .setfmt f
  | .getfmt => .getfmt f
  | .ld => .ld f
  | .st => .st f
  | .ldu => .ldu f
  | .atom => .atom f
  | .cas => .cas f
  | .aqadd => .aqadd f
  | .fence => .fence f
  | .pref => .pref f
  | .fgath => .fgath f
  | .codeload => .codeload f
  | .hcopy => .hcopy f
  | .hcopyCk => .hcopyCk f
  | .htens => .htens f
  | .htensSt => .htensSt f
  | .hgath => .hgath f
  | .hscat => .hscat f
  | .hred => .hred f
  | .hmcast => .hmcast f
  | .hfill => .hfill f
  | .hwait => .hwait f
  | .htest => .htest f
  | .ckpack => .ckpack f
  | .ckpackUnpk => .ckpackUnpk f
  | .ckver => .ckver f
  | .ckinfo => .ckinfo f
  | .mma => .mma f
  | .mmaRa => .mmaRa f
  | .accz => .accz f
  | .accld => .accld f
  | .accst => .accst f
  | .accmax => .accmax f
  | .accanc => .accanc f
  | .tri => .tri f
  | .xcut => .xcut f
  | .asstSt => .asstSt f
  | .asstTol => .asstTol f
  | .asstClr => .asstClr f
  | .trap => .trap f
  | .tvec => .tvec f
  | .tret => .tret f
  | .mig => .mig f
  | .query => .query f
  | .qkind => .qkind f
  | .chksig => .chksig f
  | .sigset => .sigset f
  | .launch => .launch f
  | .ptime => .ptime f
  | .prfrd => .prfrd f
  | .brkpt => .brkpt f
  | .loop => .loop f
  | .rrbset => .rrbset f
  | .cmt => .cmt f
  | .eqp => .eqp f
  | .movx => .movx f
  | .sigadv => .sigadv f
  | .nop => .nop f

/-- The operation and fields of an encoded row; none for an event. -/
def Instr.parts (i : Instr) : Option (Op × Form) :=
  match i with
  | .add f => some (.add, f)
  | .sub f => some (.sub, f)
  | .mul f => some (.mul, f)
  | .mulhi f => some (.mulhi, f)
  | .mad f => some (.mad, f)
  | .div f => some (.div, f)
  | .rem f => some (.rem, f)
  | .min f => some (.min, f)
  | .max f => some (.max, f)
  | .abs f => some (.abs, f)
  | .neg f => some (.neg, f)
  | .dp4 f => some (.dp4, f)
  | .lea f => some (.lea, f)
  | .and f => some (.and, f)
  | .or f => some (.or, f)
  | .xor f => some (.xor, f)
  | .not f => some (.not, f)
  | .shl f => some (.shl, f)
  | .shr f => some (.shr, f)
  | .sar f => some (.sar, f)
  | .rotl f => some (.rotl, f)
  | .popc f => some (.popc, f)
  | .clz f => some (.clz, f)
  | .brev f => some (.brev, f)
  | .bfx f => some (.bfx, f)
  | .bfi f => some (.bfi, f)
  | .mov f => some (.mov, f)
  | .movi f => some (.movi, f)
  | .sel f => some (.sel, f)
  | .setp f => some (.setp, f)
  | .pand f => some (.pand, f)
  | .por f => some (.por, f)
  | .pxor f => some (.pxor, f)
  | .pnot f => some (.pnot, f)
  | .fadd f => some (.fadd, f)
  | .fsub f => some (.fsub, f)
  | .fmul f => some (.fmul, f)
  | .ffma f => some (.ffma, f)
  | .fmin f => some (.fmin, f)
  | .fmax f => some (.fmax, f)
  | .fabs f => some (.fabs, f)
  | .fneg f => some (.fneg, f)
  | .fdiv f => some (.fdiv, f)
  | .fsqrt f => some (.fsqrt, f)
  | .frcp f => some (.frcp, f)
  | .frsq f => some (.frsq, f)
  | .fex2 f => some (.fex2, f)
  | .flg2 f => some (.flg2, f)
  | .fscale f => some (.fscale, f)
  | .fsetp f => some (.fsetp, f)
  | .fclass f => some (.fclass, f)
  | .frnd f => some (.frnd, f)
  | .fcvt f => some (.fcvt, f)
  | .f2i f => some (.f2i, f)
  | .i2f f => some (.i2f, f)
  | .fadd2 f => some (.fadd2, f)
  | .fmul2 f => some (.fmul2, f)
  | .ffma2 f => some (.ffma2, f)
  | .fdot2 f => some (.fdot2, f)
  | .rdsr f => some (.rdsr, f)
  | .elect f => some (.elect, f)
  | .vote f => some (.vote, f)
  | .matchLanes f => some (.matchLanes, f)
  | .shfl f => some (.shfl, f)
  | .redux f => some (.redux, f)
  | .scan f => some (.scan, f)
  | .bra f => some (.bra, f)
  | .brx f => some (.brx, f)
  | .call f => some (.call, f)
  | .callx f => some (.callx, f)
  | .ret f => some (.ret, f)
  | .join f => some (.join, f)
  | .exit f => some (.exit, f)
  | .yield f => some (.yield, f)
  | .nsleep f => some (.nsleep, f)
  | .waita f => some (.waita, f)
  | .bar f => some (.bar, f)
  | .barar f => some (.barar, f)
  | .barwt f => some (.barwt, f)
  | .setfmt f => some (.setfmt, f)
  | .getfmt f => some (.getfmt, f)
  | .ld f => some (.ld, f)
  | .st f => some (.st, f)
  | .ldu f => some (.ldu, f)
  | .atom f => some (.atom, f)
  | .cas f => some (.cas, f)
  | .aqadd f => some (.aqadd, f)
  | .fence f => some (.fence, f)
  | .pref f => some (.pref, f)
  | .fgath f => some (.fgath, f)
  | .codeload f => some (.codeload, f)
  | .hcopy f => some (.hcopy, f)
  | .hcopyCk f => some (.hcopyCk, f)
  | .htens f => some (.htens, f)
  | .htensSt f => some (.htensSt, f)
  | .hgath f => some (.hgath, f)
  | .hscat f => some (.hscat, f)
  | .hred f => some (.hred, f)
  | .hmcast f => some (.hmcast, f)
  | .hfill f => some (.hfill, f)
  | .hwait f => some (.hwait, f)
  | .htest f => some (.htest, f)
  | .ckpack f => some (.ckpack, f)
  | .ckpackUnpk f => some (.ckpackUnpk, f)
  | .ckver f => some (.ckver, f)
  | .ckinfo f => some (.ckinfo, f)
  | .mma f => some (.mma, f)
  | .mmaRa f => some (.mmaRa, f)
  | .accz f => some (.accz, f)
  | .accld f => some (.accld, f)
  | .accst f => some (.accst, f)
  | .accmax f => some (.accmax, f)
  | .accanc f => some (.accanc, f)
  | .tri f => some (.tri, f)
  | .xcut f => some (.xcut, f)
  | .asstSt f => some (.asstSt, f)
  | .asstTol f => some (.asstTol, f)
  | .asstClr f => some (.asstClr, f)
  | .trap f => some (.trap, f)
  | .tvec f => some (.tvec, f)
  | .tret f => some (.tret, f)
  | .mig f => some (.mig, f)
  | .query f => some (.query, f)
  | .qkind f => some (.qkind, f)
  | .chksig f => some (.chksig, f)
  | .sigset f => some (.sigset, f)
  | .launch f => some (.launch, f)
  | .ptime f => some (.ptime, f)
  | .prfrd f => some (.prfrd, f)
  | .brkpt f => some (.brkpt, f)
  | .loop f => some (.loop, f)
  | .rrbset f => some (.rrbset, f)
  | .cmt f => some (.cmt, f)
  | .eqp f => some (.eqp, f)
  | .movx f => some (.movx, f)
  | .sigadv f => some (.sigadv, f)
  | .nop f => some (.nop, f)
  | .exposedResultLand _ _ _ => none
  | .loadResultArrive _ _ _ => none
  | .tailingLand _ _ _ => none
  | .nsleepWake _ _ _ => none
  | .waitaWake _ _ _ => none
  | .codeloadDone _ _ _ => none
  | .ckverDone _ _ _ => none
  | .haulChunk _ _ => none
  | .chunkHop _ => none
  | .chunkReduction _ => none
  | .heldWriteRelease _ => none
  | .haulJobComplete _ => none
  | .faceUnitOperation _ => none
  | .l1Eviction _ _ _ => none
  | .pageMoveToHbm _ _ _ => none
  | .pageMigrationComplete _ _ => none
  | .migrationTimeout _ _ => none
  | .eccError _ _ => none
  | .teamRetire _ => none
  | .maskWatchdogExpiry _ _ => none
  | .waitWatchdogExpiry _ _ _ => none
  | .budgetOverrun _ => none
  | .noopPacket _ => none
  | .launchPacket _ => none
  | .callPacket _ => none
  | .joinPacket _ => none
  | .signalPacket _ => none
  | .unassignedPacket _ => none
  | .taskAdmit _ => none
  | .tiarloTranslate _ _ => none
  | .lodePeerQuery _ _ => none
  | .lodePeerReply _ _ _ => none
  | .lodePeerTimeout _ => none
  | .reoptimise _ => none
  | .teamPlace _ => none
  | .preload _ => none
  | .preloadSwitch _ => none
  | .nativeSuspend _ => none
  | .virtualPreciseStop _ => none
  | .teamResume _ => none
  | .dispatcherMoveRequest _ => none
  | .dispatcherMoveLapse _ => none
  | .doorbell _ _ => none
  | .bar2Read _ _ => none
  | .bar2Write _ _ => none
  | .ptpsec => none
  | .evhead _ => none
  | .injctl _ => none
  | .bar4RegisterWrite _ _ => none
  | .qcreate => none
  | .qdestroy => none
  | .mapPages => none
  | .unmap => none
  | .coload => none
  | .counload => none
  | .tresume => none
  | .tstop => none
  | .resync => none
  | .fwupdate => none
  | .ingset => none
  | .unassignedCommand => none
  | .frameReceive _ _ _ => none
  | .ptpMessage _ => none
  | .linkReady _ _ _ => none
  | .linkDown _ => none
  | .peerSilentTimeout _ => none
  | .recoveryNotice _ => none
  | .doneNotice _ _ => none
  | .doneNoticeTimeout _ => none
  | .powerClockDown _ => none
  | .powerClockUp _ => none
  | .packageReset => none
  | .unitReady _ => none
  | .readyDeadline _ => none
  | .heartbeatLoss => none
  | .activeFailureReport => none
  | .standbyReboot => none
  | .mapWaitTimeout => none
  | .pcieCompletionTimeout _ _ => none
  | .standbyComplexFailure => none
  | .preloadDropped _ => none

end Sys2Proof
end

