-- ==== Sys2Proof/Machine/OpTable.lean ====
section
/-! DEFINITION. The encoding table: opcodes (R137, R286), types, operand roles and modifier fields of every operation
(R139 to R141, R161 to R256, R450). One description serves the decoder, the well-formedness check and the issue checks. -/

namespace Sys2Proof

/-- The width in bits of a TY code (R98, R99, R136); 0xF names a predicate or no type and has width 1. -/
def tyWidth (ty : Nat) : Nat :=
  match ty with
  | 0 | 1 | 13 | 14 => 8
  | 2 | 3 | 8 | 9 => 16
  | 4 | 5 | 10 | 11 | 12 => 32
  | 6 | 7 => 64
  | _ => 1

/-- The access width in bytes (R191). -/
def tyBytes (ty : Nat) : Nat := tyWidth ty / 8

/-- I8, I16, I32 and I64 are signed (R98). -/
def tySigned (ty : Nat) : Bool := ty == 0 || ty == 2 || ty == 4 || ty == 6

def tyIsInt (ty : Nat) : Bool := ty < 8
/-- FP16, BF16 and FP32. -/
def tyIsFloat (ty : Nat) : Bool := ty == 8 || ty == 9 || ty == 10
/-- The scalar floating formats, the 8-bit ones included. -/
def tyIsFmt (ty : Nat) : Bool := tyIsFloat ty || ty == 13 || ty == 14
def tyIsPacked (ty : Nat) : Bool := ty == 11 || ty == 12
/-- A type of width 8 to 64. -/
def tyIsValue (ty : Nat) : Bool := ty < 15

/-- What an operand field is used for (R140 and each instruction's table). -/
inductive Role where
  /-- The instruction does not use the field. -/
  | unused
  /-- A value result of this width; uniform only where every source is uniform (R156). -/
  | dst (w : Nat)
  /-- A value result that may be uniform whatever the sources (R156). -/
  | dstAny (w : Nat)
  /-- A result that only a lane register takes (R452). -/
  | dstLane (w : Nat)
  /-- A result that only a uniform register takes. -/
  | dstUni (w : Nat)
  | dstPred
  /-- The destination of mov: a value result, or FLG (R158). -/
  | dstMov (w : Nat)
  | src (w : Nat)
  /-- A source that may not be a lane register (cause 133). -/
  | srcUni (w : Nat)
  /-- As srcUni, and `%none` may stand. -/
  | optUni (w : Nat)
  | srcPred
  /-- An address base (R191), lane or uniform, or `%none`. -/
  | base
  /-- An address base that may not be a lane register. -/
  | baseUni
  /-- A tile operand (R233). -/
  | acc
  /-- A tile the instruction only reads: `%none` is no source (cause 69). -/
  | accSrc
  /-- The first member of a tile of lane registers, of this width. -/
  | member (w : Nat)
  /-- As member, for a result: with `%none` nothing is written (R131). -/
  | memberDst (w : Nat)
  /-- A label: a 0xFF1 immediate (R141). -/
  | label
  | optLabel
  /-- A label or a uniform register or literal (tvec). -/
  | labelOrUni
  /-- A literal or an immediate. -/
  | number
  /-- A system selector (rdsr). -/
  | selector
  /-- The notify register pair of a haul job, or `%none` (R207). -/
  | notify
  /-- The first of the origin registers of htens (R213). -/
  | origin
  /-- The element count of ckpack, a uniform register in D (R218). -/
  | count
deriving DecidableEq, Repr

/-- The roles of D, A, B and C. -/
structure Roles where
  d : Role := .unused
  a : Role := .unused
  b : Role := .unused
  c : Role := .unused
deriving DecidableEq, Repr

/-- OP and FN of an operation (R137); the native-only operations have OP 0x3F (R286), nop has OP 0. -/
def Op.code (o : Op) : Nat × Nat :=
  match o with
  | .add => (1, 0) | .sub => (1, 1) | .mul => (1, 2) | .mulhi => (1, 3) | .mad => (1, 4) | .div => (1, 5)
  | .rem => (1, 6) | .min => (1, 7) | .max => (1, 8) | .abs => (1, 9) | .neg => (1, 10) | .dp4 => (1, 11)
  | .lea => (1, 12)
  | .and => (2, 0) | .or => (2, 1) | .xor => (2, 2) | .not => (2, 3) | .shl => (2, 4) | .shr => (2, 5)
  | .sar => (2, 6) | .rotl => (2, 7) | .popc => (2, 8) | .clz => (2, 9) | .brev => (2, 10) | .bfx => (2, 11)
  | .bfi => (2, 12)
  | .mov => (3, 0) | .movi => (3, 1) | .sel => (3, 2) | .setp => (3, 3)
  | .pand => (4, 0) | .por => (4, 1) | .pxor => (4, 2) | .pnot => (4, 3)
  | .fadd => (5, 0) | .fsub => (5, 1) | .fmul => (5, 2) | .ffma => (5, 3) | .fmin => (5, 4) | .fmax => (5, 5)
  | .fabs => (5, 6) | .fneg => (5, 7) | .fdiv => (5, 8) | .fsqrt => (5, 9) | .frcp => (5, 10) | .frsq => (5, 11)
  | .fex2 => (5, 12) | .flg2 => (5, 13) | .fscale => (5, 14)
  | .fsetp => (6, 0) | .fclass => (6, 1) | .frnd => (6, 2) | .fcvt => (6, 3) | .f2i => (6, 4) | .i2f => (6, 5)
  | .fadd2 => (7, 0) | .fmul2 => (7, 1) | .ffma2 => (7, 2) | .fdot2 => (7, 3)
  | .rdsr => (8, 0) | .elect => (8, 1) | .vote => (8, 2) | .matchLanes => (8, 3) | .shfl => (8, 4)
  | .redux => (8, 5) | .scan => (8, 6)
  | .bra => (9, 0) | .brx => (9, 1) | .call => (9, 2) | .callx => (9, 3) | .ret => (9, 4) | .join => (9, 5)
  | .exit => (9, 6)
  | .yield => (10, 0) | .nsleep => (10, 1) | .waita => (10, 2) | .bar => (10, 3) | .barar => (10, 4)
  | .barwt => (10, 5)
  | .setfmt => (11, 0) | .getfmt => (11, 1)
  | .ld => (12, 0) | .st => (12, 1) | .ldu => (12, 2) | .atom => (12, 3) | .cas => (12, 4) | .aqadd => (12, 5)
  | .fence => (12, 6) | .pref => (12, 7) | .fgath => (12, 8) | .codeload => (12, 9)
  | .hcopy => (13, 0) | .hcopyCk => (13, 0) | .htens => (13, 1) | .htensSt => (13, 1) | .hgath => (13, 2)
  | .hscat => (13, 3) | .hred => (13, 4) | .hmcast => (13, 5) | .hfill => (13, 6) | .hwait => (13, 7)
  | .htest => (13, 8)
  | .ckpack => (14, 0) | .ckpackUnpk => (14, 0) | .ckver => (14, 1) | .ckinfo => (14, 2)
  | .mma => (15, 0) | .mmaRa => (15, 0) | .accz => (15, 1) | .accld => (15, 2) | .accst => (15, 3)
  | .accmax => (15, 4) | .accanc => (15, 5) | .tri => (15, 6) | .xcut => (15, 7) | .asstSt => (15, 8)
  | .asstTol => (15, 8) | .asstClr => (15, 8)
  | .trap => (16, 0) | .tvec => (16, 1) | .tret => (16, 2) | .mig => (16, 3) | .query => (16, 4)
  | .qkind => (16, 5) | .chksig => (16, 6) | .sigset => (16, 7) | .launch => (16, 8) | .ptime => (16, 9)
  | .prfrd => (16, 10) | .brkpt => (16, 11)
  | .loop => (63, 0) | .rrbset => (63, 1) | .cmt => (63, 2) | .eqp => (63, 3) | .movx => (63, 4)
  | .sigadv => (63, 5)
  | .nop => (0, 0)

/-- The operation that OP, FN and, for the rows that are one form of an instruction, sub name (R137, R138). -/
def Op.ofCode (op fn sub : Nat) : Option Op :=
  match op with
  | 1 => [Op.add, .sub, .mul, .mulhi, .mad, .div, .rem, .min, .max, .abs, .neg, .dp4, .lea][fn]?
  | 2 => [Op.and, .or, .xor, .not, .shl, .shr, .sar, .rotl, .popc, .clz, .brev, .bfx, .bfi][fn]?
  | 3 => [Op.mov, .movi, .sel, .setp][fn]?
  | 4 => [Op.pand, .por, .pxor, .pnot][fn]?
  | 5 => [Op.fadd, .fsub, .fmul, .ffma, .fmin, .fmax, .fabs, .fneg, .fdiv, .fsqrt, .frcp, .frsq, .fex2, .flg2,
          .fscale][fn]?
  | 6 => [Op.fsetp, .fclass, .frnd, .fcvt, .f2i, .i2f][fn]?
  | 7 => [Op.fadd2, .fmul2, .ffma2, .fdot2][fn]?
  | 8 => [Op.rdsr, .elect, .vote, .matchLanes, .shfl, .redux, .scan][fn]?
  | 9 => [Op.bra, .brx, .call, .callx, .ret, .join, .exit][fn]?
  | 10 => [Op.yield, .nsleep, .waita, .bar, .barar, .barwt][fn]?
  | 11 => [Op.setfmt, .getfmt][fn]?
  | 12 => [Op.ld, .st, .ldu, .atom, .cas, .aqadd, .fence, .pref, .fgath, .codeload][fn]?
  | 13 =>
    match fn with
    | 0 => some (if sub / 8 % 2 = 1 then .hcopyCk else .hcopy)
    | 1 => some (if sub / 8 % 2 = 1 then .htensSt else .htens)
    | _ => [Op.hgath, .hscat, .hred, .hmcast, .hfill, .hwait, .htest][fn - 2]?
  | 14 =>
    match fn with
    | 0 => some (if sub / 8 % 2 = 1 then .ckpackUnpk else .ckpack)
    | 1 => some .ckver
    | 2 => some .ckinfo
    | _ => none
  | 15 =>
    match fn with
    | 0 => some (if sub = 1 then .mmaRa else .mma)
    | 8 => some (if sub = 1 then .asstTol else if sub = 2 then .asstClr else .asstSt)
    | _ => [Op.mma, .accz, .accld, .accst, .accmax, .accanc, .tri, .xcut][fn]?
  | 16 => [Op.trap, .tvec, .tret, .mig, .query, .qkind, .chksig, .sigset, .launch, .ptime, .prfrd, .brkpt][fn]?
  | _ => none

/-- The native-only operation of opc[9:4] = 0x3F (R286). -/
def Op.ofNative (fn : Nat) : Option Op := [Op.loop, .rrbset, .cmt, .eqp, .movx, .sigadv][fn]?

/-- The TY codes an operation accepts (R161 to R256), given its sub field. -/
def Op.tyOk (o : Op) (ty sub : Nat) : Bool :=
  match o with
  | .add | .sub | .mul | .mulhi | .mad | .div | .rem | .min | .max | .abs | .neg => tyIsInt ty
  | .dp4 => ty == 4 || ty == 5
  | .lea => ty == 6 || ty == 7
  | .and | .or | .xor | .not | .shl | .shr | .sar | .rotl | .popc | .clz | .brev | .bfx | .bfi => tyIsInt ty
  | .mov | .sel => ty < 16
  | .movi | .matchLanes | .shfl | .ld | .st | .ldu | .xcut => tyIsValue ty
  | .setp => tyIsInt ty
  | .pand | .por | .pxor | .pnot | .elect => ty == 15
  | .fadd | .fsub | .fmul | .ffma | .fmin | .fmax | .fabs | .fneg | .fdiv | .fsqrt | .frcp | .frsq | .fex2
  | .flg2 | .fscale | .fsetp | .fclass | .frnd => tyIsFloat ty
  | .fcvt => tyIsFmt ty
  | .f2i => tyIsInt ty
  | .i2f => tyIsFloat ty
  | .fadd2 | .fmul2 | .ffma2 | .fdot2 => tyIsPacked ty
  | .rdsr => ty == 5 || ty == 7
  | .vote => if sub < 3 then ty == 5 else if sub < 6 then ty == 15 else ty == 5 || ty == 15
  | .redux | .scan => if sub < 3 || 5 < sub then tyIsInt ty || tyIsFloat ty else tyIsInt ty
  | .bra | .brx | .call | .callx | .ret | .join | .exit | .yield | .bar | .barar | .barwt | .fence | .pref => ty == 15
  | .nsleep | .setfmt | .getfmt => ty == 7
  | .waita | .cas => 4 ≤ ty && ty ≤ 7
  | .atom =>
    if sub < 6 then 4 ≤ ty && ty ≤ 7
    else if sub = 7 || sub = 8 then ty == 10
    else (4 ≤ ty && ty ≤ 7) || ty == 10
  | .aqadd => ty == 6 || ty == 10
  | .fgath => (4 ≤ ty && ty ≤ 7) || ty == 10
  | .codeload | .ckver => ty == 5
  | .hcopy | .hcopyCk | .htens | .htensSt | .hgath | .hscat | .hred | .hmcast | .hfill | .hwait | .htest => ty == 15
  | .ckpack | .ckpackUnpk => ty == 4 || ty == 9 || ty == 10
  | .ckinfo => ty == 7
  | .mma | .mmaRa | .accz => ty == 15
  | .accld => ty == 4 || ty == 6 || ty == 10 || ty == 15
  | .accst => ty ≤ 10 || ty == 13 || ty == 14 || ty == 15
  | .accmax => ty == 6 || ty == 10
  | .accanc => ty == 4
  | .tri => ty == 0 || ty == 1 || ty == 8 || ty == 9 || ty == 13 || ty == 14
  | .asstSt => ty == 7 || (decide (2 < sub) && (ty == 10 || ty == 15))
  | .asstTol => ty == 10
  | .asstClr => ty == 15
  | .trap | .tret | .brkpt => ty == 15
  | .tvec | .query | .chksig | .sigset | .ptime | .prfrd => ty == 7
  | .mig | .qkind | .launch => ty == 5
  | .loop | .rrbset | .cmt | .eqp | .sigadv | .nop => true
  | .movx => ty == 15

/-- Source types of the two-type conversions, in sub[3:0] (R136, R172). -/
def Op.srcTyOk (o : Op) (ty s : Nat) : Bool :=
  match o with
  | .fcvt => tyIsFmt s && s != ty
  | .f2i => tyIsFmt s
  | .i2f => tyIsInt s
  | _ => true

/-- sub values listed in R139 or in the operation's description. -/
def Op.subOk (o : Op) (sub : Nat) : Bool :=
  match o with
  | .add | .sub | .mad | .dp4 => sub < 2
  | .lea => sub < 8
  | .setp | .waita | .redux | .scan | .vote => sub < 6
  | .fsetp => sub < 14
  | .fcvt | .f2i | .i2f => sub < 16
  | .matchLanes => sub < 2
  | .shfl => sub / 4 < 6
  | .atom => sub < 10
  | .fence => 0 < sub && sub < 4
  | .hcopy | .hcopyCk => sub < 64
  | .htens | .htensSt => sub < 32
  | .hgath | .hscat => sub < 32 && sub / 8 % 2 == 0
  | .hred | .hmcast | .hfill => sub < 64 && sub / 8 % 4 == 0
  | .ckpack | .ckpackUnpk => sub < 32
  | .ckinfo => sub < 10
  | .mma => sub == 0
  | .mmaRa => sub == 1
  | .accld | .accst => sub < 64
  | .tri => sub < 7
  | .asstSt => sub == 0
  | .asstTol => sub == 1
  | .asstClr => sub == 2
  | .ptime => sub < 3
  | _ => sub == 0

/-- The operation rounds and so takes rm 1 to 4 (R158, R170 to R173, R177, R247). -/
def Op.usesRm (o : Op) (ty sub : Nat) : Bool :=
  match o with
  | .fadd | .fsub | .fmul | .ffma | .fdiv | .fsqrt | .frcp | .frsq | .fex2 | .flg2 | .fscale | .frnd | .fcvt | .f2i
  | .i2f | .fadd2 | .fmul2 | .ffma2 | .fdot2 => true
  | .redux | .scan => sub == 0 && tyIsFloat ty
  | .accst => ty != 15
  | _ => false

/-- The operation uses off. -/
def Op.usesOff (o : Op) : Bool :=
  match o with
  | .movi | .waita | .ld | .st | .ldu | .atom | .cas | .aqadd | .pref | .fgath | .hgath | .hscat | .hmcast | .hwait
  | .htest | .mma | .accld | .accst | .tri => true
  | _ => false

/-- The operation has sub values (R139). -/
def Op.usesSub (o : Op) : Bool :=
  match o with
  | .add | .sub | .mad | .dp4 | .lea | .setp | .waita | .redux | .scan | .vote | .fsetp | .fcvt | .f2i | .i2f | .matchLanes | .shfl | .atom | .fence
  | .hcopy | .hcopyCk | .htens | .htensSt | .hgath | .hscat | .hred | .hmcast | .hfill | .ckpack | .ckpackUnpk | .ckinfo | .mma | .mmaRa
  | .accld | .accst | .tri | .asstSt | .asstTol | .asstClr | .ptime => true
  | _ => false

/-- spc values accepted (R189, R192, R207, R246, R247). -/
def Op.spcOk (o : Op) (spc : Nat) : Bool :=
  match o with
  | .ld | .st => spc == 1 || spc == 2 || spc == 3
  | .ldu | .atom | .cas | .aqadd | .waita | .accld | .accst => spc == 2 || spc == 3
  | .pref | .fgath => spc == 3
  | .hcopy | .hcopyCk | .htens | .htensSt | .hgath | .hscat | .hred | .hmcast | .hfill => spc == 0 || spc == 2 || spc == 3
  | _ => spc == 0

/-- The operation uses spc, so that a value it does not accept is cause 71 and not 72. -/
def Op.usesSpc (o : Op) : Bool :=
  match o with
  | .ld | .st | .ldu | .atom | .cas | .aqadd | .waita | .accld | .accst | .pref | .fgath | .hcopy | .hcopyCk | .htens
  | .htensSt | .hgath | .hscat | .hred | .hmcast | .hfill | .fence | .codeload => true
  | _ => false

/-- pol values accepted with a space (R192): 0 but for die memory. -/
def Op.polOk (o : Op) (spc pol : Nat) : Bool :=
  match o with
  | .ld | .st | .ldu | .accld | .accst => pol == 0 || (spc == 3 && pol < 3)
  | .pref => pol == 0 || pol == 2
  | _ => pol == 0

def Op.usesPol (o : Op) : Bool :=
  match o with
  | .ld | .st | .ldu | .accld | .accst | .pref | .atom | .cas | .aqadd | .fgath | .fence | .codeload | .waita => true
  | _ => false

/-- ord values accepted (R189, R192, R201). -/
def Op.ordOk (o : Op) (ord : Nat) : Bool :=
  match o with
  | .ld | .ldu | .waita | .fgath | .accld => ord < 2
  | .st | .accst => ord == 0 || ord == 2
  | .atom | .cas | .aqadd => ord < 4
  | .fence => 0 < ord && ord < 4
  | _ => ord == 0

def Op.usesOrd (o : Op) : Bool :=
  match o with
  | .ld | .ldu | .waita | .fgath | .accld | .st | .accst | .atom | .cas | .aqadd | .fence | .pref | .codeload => true
  | _ => false

/-- pol and ord are listed among the fields of the job instructions, with the one value 0 (R207) [62, DEDUCED]. -/
def Op.zeroPolOrd (o : Op) : Bool :=
  match o with
  | .hcopy | .hcopyCk | .htens | .htensSt | .hgath | .hscat | .hred | .hmcast | .hfill => true
  | _ => false

/-- The operation uses scp, values 0 to 5 (R189, R192, R207, R217). -/
def Op.usesScp (o : Op) : Bool :=
  match o with
  | .ld | .ldu | .waita | .fgath | .accld | .st | .accst | .atom | .cas | .aqadd | .fence | .hcopy | .hcopyCk | .htens
  | .htensSt | .hgath | .hscat | .hred | .hmcast | .hfill | .hwait | .htest | .ckpack | .ckpackUnpk | .pref | .codeload => true
  | _ => false

/-- scp values accepted (R192). -/
def Op.scpOk (o : Op) (scp : Nat) : Bool :=
  match o with
  | .pref | .codeload => scp == 0
  | _ => scp < 6

/-- The operation may not carry a guard (R181, R186, R222, R450). -/
def Op.unguarded (o : Op) : Bool :=
  match o with
  | .call | .callx | .ret | .join | .tret | .mig | .yield | .bar | .barar | .barwt
  | .loop | .rrbset | .cmt | .eqp | .sigadv => true
  | _ => false

/-- The roles of the operand fields, given TY and sub. -/
def Op.roles (o : Op) (ty sub : Nat) : Roles :=
  let w := tyWidth ty
  match o with
  | .add | .sub | .mul | .mulhi | .div | .rem | .min | .max | .lea
  | .and | .or | .xor | .shl | .shr | .sar | .rotl | .bfx => { d := .dst w, a := .src w, b := .src w }
  | .mad | .dp4 | .bfi => { d := .dst w, a := .src w, b := .src w, c := .src w }
  | .abs | .neg | .not | .popc | .clz | .brev => { d := .dst w, a := .src w }
  | .mov => if ty = 15 then { d := .dstPred, a := .srcPred } else { d := .dstMov w, a := .src w }
  | .movi => { d := .dst w, a := .member w, b := .src 32 }
  | .sel =>
    if ty = 15 then { d := .dstPred, a := .srcPred, b := .srcPred, c := .srcPred }
    else { d := .dst w, a := .src w, b := .src w, c := .srcPred }
  | .setp | .fsetp => { d := .dstPred, a := .src w, b := .src w }
  | .pand | .por | .pxor => { d := .dstPred, a := .srcPred, b := .srcPred }
  | .pnot => { d := .dstPred, a := .srcPred }
  | .fadd | .fsub | .fmul | .fmin | .fmax | .fdiv | .fadd2 | .fmul2 => { d := .dst w, a := .src w, b := .src w }
  | .ffma | .ffma2 | .fdot2 => { d := .dst w, a := .src w, b := .src w, c := .src w }
  | .fabs | .fneg | .fsqrt | .frcp | .frsq | .fex2 | .flg2 | .frnd => { d := .dst w, a := .src w }
  | .fscale => { d := .dst w, a := .src w, b := .src 32 }
  | .fclass => { d := .dst 32, a := .src w }
  | .fcvt | .f2i | .i2f => { d := .dst w, a := .src (tyWidth sub) }
  | .rdsr => { d := .dstAny w, a := .selector }
  | .elect => { d := .dstPred, a := .optUni 32 }
  | .vote => if sub < 3 then { d := .dstAny 32, a := .srcPred } else { d := .dstPred, a := .srcPred }
  | .matchLanes => { d := .dstLane 32, a := .src w }
  | .shfl => { d := .dstLane w, a := .src w, b := .src 32 }
  | .redux => { d := .dstAny w, a := .src w }
  | .scan => { d := .dstLane w, a := .src w }
  | .bra => { a := .label, b := .optLabel }
  | .brx => { a := .src 64, b := .label }
  | .call => { a := .label }
  | .callx => { a := .srcUni 64 }
  | .ret | .join | .exit | .yield | .fence | .hwait | .tret => {}
  | .nsleep => { a := .srcUni 64 }
  | .waita => { d := .dstAny w, a := .baseUni, b := .srcUni w }
  | .bar | .barar => { a := .srcUni 32, b := .optUni 32 }
  | .barwt => { a := .srcUni 32 }
  | .setfmt => { a := .srcUni 64, b := .optUni 64 }
  | .getfmt => { d := .dstAny 64 }
  | .ld => { d := .dst w, a := .base }
  | .st => { a := .base, b := .src w }
  | .ldu => { d := .dstUni w, a := .baseUni }
  | .atom => { d := .dst w, a := .base, b := if sub = 9 then .unused else .src w }
  | .cas => { d := .dst w, a := .base, b := .src w, c := .src w }
  | .aqadd => { d := .dst 64, a := .base, b := .src w }
  | .pref => { a := .base }
  | .fgath => { d := .dst w, a := .baseUni, b := .src 32 }
  | .codeload => { d := .dstUni 32, a := .srcUni 64, b := .srcUni 32 }
  | .hcopy | .hcopyCk | .hgath | .hscat | .hred | .hmcast | .hfill =>
    { d := .notify, a := .srcUni 64, b := .srcUni 64, c := .srcUni 64 }
  | .htens | .htensSt => { d := .notify, a := .srcUni 64, b := .srcUni 64, c := .origin }
  | .htest => { d := .dstUni 32 }
  | .ckpack | .ckpackUnpk => { d := .count, a := .srcUni 64, b := .srcUni 64, c := .srcUni 64 }
  | .ckver => { d := .dstUni 32, a := .srcUni 64, b := .srcUni 32, c := .srcUni 64 }
  | .ckinfo => { d := .dstUni 64, a := .srcUni 64 }
  | .mma => { d := .acc, a := .srcUni 64, b := .srcUni 64 }
  | .mmaRa => { d := .acc, b := .srcUni 64 }
  | .accz | .asstClr => { d := .acc }
  | .accld => { d := .acc, a := .baseUni }
  | .accst => { a := .baseUni, b := .accSrc, c := .optUni 64 }
  | .accmax => { d := .dstUni w, a := .accSrc }
  | .accanc => { d := .acc, a := .srcUni 32 }
  | .tri => { a := .baseUni }
  | .xcut => { d := .memberDst w, a := .member w }
  | .asstSt => if 2 < sub then { d := .dstAny w, a := .accSrc } else { d := .dstUni 64, a := .accSrc }
  | .asstTol => { d := .acc, a := .srcUni 32 }
  | .trap | .brkpt => { a := .number }
  | .tvec => { a := .labelOrUni, b := .srcUni 64 }
  | .mig => { d := .dstUni 32, a := .number }
  | .query | .prfrd => { d := .dstUni 64, a := .number }
  | .qkind => { d := .dstUni 32 }
  | .chksig | .sigset => { a := .srcUni 64 }
  | .launch => { d := .dstUni 32, a := .srcUni 64, b := .srcUni 32 }
  | .ptime => { d := .dstUni 64 }
  | .loop | .rrbset | .cmt | .eqp | .nop => {}
  | .movx => { d := .dstLane 32, a := .src 32 }
  | .sigadv => { a := .srcUni 64 }

/-- The cause an operand has in a JV field of this role, if any (R129, R131, R140, R450). fieldC tells the C field [59, DEDUCED] [60, DEDUCED]. -/
def Role.problem (r : Role) (fieldC : Bool) (o : Operand) : Option Nat :=
  match r, o with
  | .unused, .none => none
  | .unused, _ => some (if fieldC then 72 else 68)
  | .dst _, .reg _ _ | .dstAny _, .reg _ _ | .dstLane _, .reg _ _ | .dstUni _, .reg _ _ | .dstPred, .reg _ _
  | .dstMov _, .reg _ _ => none
  | .dst _, .none | .dstAny _, .none | .dstLane _, .none | .dstUni _, .none | .dstPred, .none | .dstMov _, .none => none
  | .dstMov _, .sys 9 => none
  | .dst _, .imm _ _ | .dstAny _, .imm _ _ | .dstLane _, .imm _ _ | .dstUni _, .imm _ _ | .dstPred, .imm _ _
  | .dstMov _, .imm _ _ => some 68
  | .dst _, _ | .dstAny _, _ | .dstLane _, _ | .dstUni _, _ | .dstPred, _ | .dstMov _, _ => some 69
  | .src _, .reg _ _ | .src _, .lit _ | .src _, .imm _ _ => none
  | .srcUni _, .reg _ _ | .srcUni _, .lit _ | .srcUni _, .imm _ _ => none
  | .src _, _ | .srcUni _, _ => some 69
  | .optUni _, .reg _ _ | .optUni _, .lit _ | .optUni _, .imm _ _ | .optUni _, .none => none
  | .base, .reg _ _ | .base, .lit _ | .base, .imm _ _ | .base, .none => none
  | .baseUni, .reg _ _ | .baseUni, .lit _ | .baseUni, .imm _ _ | .baseUni, .none => none
  | .optUni _, _ | .base, _ | .baseUni, _ => some 69
  | .srcPred, .reg _ _ | .srcPred, .lit _ | .srcPred, .imm _ _ | .srcPred, .pconst _ => none
  | .srcPred, _ => some 69
  | .acc, .reg _ _ | .acc, .none => none
  | .acc, .imm _ _ => some 68
  | .acc, _ => some 69
  | .accSrc, .reg _ _ | .accSrc, .lit _ | .accSrc, .imm _ _ => none
  | .accSrc, _ => some 69
  | .member _, .reg _ _ => none
  | .member _, .lit _ | .member _, .imm _ _ => some 68
  | .member _, _ => some 69
  | .memberDst _, .reg _ _ | .memberDst _, .none => none
  | .memberDst _, .imm _ _ => some 68
  | .memberDst _, _ => some 69
  | .label, .imm 1 _ | .optLabel, .imm 1 _ | .optLabel, .none => none
  | .label, .reg _ _ | .label, .lit _ | .label, .imm _ _ => some 68
  | .optLabel, .reg _ _ | .optLabel, .lit _ | .optLabel, .imm _ _ => some 68
  | .label, _ | .optLabel, _ => some 69
  | .labelOrUni, .reg _ _ | .labelOrUni, .lit _ | .labelOrUni, .imm _ _ => none
  | .labelOrUni, _ => some 69
  | .number, .lit _ | .number, .imm _ _ => none
  | .number, .reg _ _ => some 68
  | .number, _ => some 69
  | .selector, .sys _ => none
  | .selector, _ => some 69
  | .notify, .reg _ _ | .notify, .none => none
  | .notify, .imm _ _ => some 68
  | .notify, _ => some 69
  | .origin, .reg _ _ => none
  | .origin, .none | .origin, .sys _ | .origin, .pconst _ => some 69
  | .origin, _ => some 68
  | .count, .reg _ _ => none
  | .count, .imm _ _ => some 68
  | .count, _ => some 69

end Sys2Proof
end

