-- ==== Sys2Proof/WellFormed.lean ====
section
/-! DEFINITION. Which JV forms are well formed: the class 1 conditions of R450 and the ranges an encoding admits. -/

namespace Sys2Proof

/-- The value fits the encoding field: what the words can carry at all. -/
def Operand.encodable (fieldC : Bool) (o : Operand) : Bool :=
  match o with
  | .none | .lit _ | .pconst _ => true
  | .reg n esc => if esc then !fieldC && n < 2 ^ 32 else n < 0xF00
  | .imm 1 v => !fieldC && v == BitVec.signExtend 64 (v.truncate 32)
  | .imm 2 v => !fieldC && v.toNat < 2 ^ 32
  | .imm 3 _ => !fieldC
  | .imm _ _ => false
  | .sys n => n < 10
  | _ => false

/-- The field calls for an extension word (R128). -/
def Operand.escapes (o : Operand) : Nat :=
  match o with
  | .reg _ true | .imm _ _ => 1
  | _ => 0

/-- The operation reads or names something in C. -/
def Op.usesC (o : Op) (ty sub : Nat) : Bool := (o.roles ty sub).c != .unused

/-- The condition of one operand field, at its word and bit. -/
def Role.problems (role : Role) (x : Operand) (fieldC : Bool) (w b : Nat) : List Problem :=
  match role.problem fieldC x with
  | some c => [⟨c, w, b⟩]
  | none => []

/-- The guard names its predicate in C (R135). -/
def Guard.isWide (g : Guard) : Bool := match g with | .wide _ => true | _ => false

/-- The class 1 conditions of the fields other than the operands (R450), each with its place (R449). m is the index of
the modifier word; without one, a field of it is reported in the base word. -/
def JvForm.fieldProblems (o : Op) (f : JvForm) (m : Nat) : List Problem :=
  let bad (c : Bool) (cause w b : Nat) : List Problem := if c then [⟨cause, w, b⟩] else []
  bad (!o.tyOk f.ty f.sub) 66 0 46
  ++ bad (!o.srcTyOk f.ty (f.sub % 16)) 66 m (if f.hasMod then 0 else 46)
  ++ bad (f.d == .sys 9 && o == .mov && f.ty != 7) 66 0 46
  ++ bad (o == .rdsr && (match f.a with
      | .sys n => f.ty != (if n == 4 || n == 5 || n == 6 || n == 9 then 7 else 5)
      | _ => false)) 66 0 46
  ++ bad (o.usesPol && !o.polOk f.spc f.pol) 71 m 18
  ++ bad (o.usesSpc && !o.spcOk f.spc) 71 m 15
  ++ bad (o.usesOrd && !o.ordOk f.ord) 71 m 12
  ++ bad (3 ≤ f.pol && !o.usesPol) 71 m 18
  ++ bad (4 ≤ f.spc && !o.usesSpc) 71 m 15
  ++ bad (4 ≤ f.ord && !o.usesOrd) 71 m 12
  ++ bad ((o == .ckpack || o == .ckpackUnpk) && (f.spc == 2 || f.spc == 3)) 71 m 15
  ++ bad (o.zeroPolOrd && f.pol != 0) 71 m 18
  ++ bad (o.zeroPolOrd && f.ord != 0) 71 m 12
  ++ bad (!o.scpOk f.scp) 71 m 9
  ++ bad (5 ≤ f.rm) 71 m 6
  ++ bad ((o.roles f.ty f.sub).d == .notify && ((f.d == .none) != (f.spc == 0))) 71 m 15
  ++ bad (f.off != 0 && !o.usesOff) 72 m 32
  ++ bad (f.pol != 0 && f.pol < 3 && !o.usesPol) 72 m 18
  ++ bad (f.spc != 0 && f.spc < 4 && !o.usesSpc) 72 m 15
  ++ bad (f.ord != 0 && f.ord < 4 && !o.usesOrd) 72 m 12
  ++ bad (f.scp != 0 && f.scp < 6 && !o.usesScp) 72 m 9
  ++ bad (f.rm != 0 && f.rm < 5 && !o.usesRm f.ty f.sub) 72 m 6
  ++ bad (f.sub != 0 && !o.usesSub) 72 m 0
  ++ bad (!o.subOk f.sub) 73 m 0
  ++ bad (f.guard == .always && f.gneg) 74 0 43
  ++ bad (f.guard.isWide && o.usesC f.ty f.sub) 74 0 36
  ++ bad (f.guard != .always && o.unguarded) 74 0 36

/-- The class 1 conditions a form meets (R450). -/
def JvForm.problems (o : Op) (f : JvForm) : List Problem :=
  let m := if f.hasMod then f.d.escapes + f.a.escapes + f.b.escapes + 1 else 0
  let r := o.roles f.ty f.sub
  r.d.problems f.d false 0 24 ++ r.a.problems f.a false 0 12 ++ r.b.problems f.b false 0 0
  ++ (if f.guard.isWide then [] else r.c.problems f.c true m 20) ++ f.fieldProblems o m

/-- The first condition by R448: the lowest detail, then the first word and bit [58, DEDUCED]. -/
def Problem.first : List Problem → Option Problem
  | [] => none
  | p :: ps =>
    match Problem.first ps with
    | none => some p
    | some q =>
      if p.cause < q.cause || (p.cause == q.cause && (p.word < q.word || (p.word == q.word && p.bit ≤ q.bit)))
      then some p else some q

/-- Fields in the range of their encoding field (R127, R133) and extension words in number (R128). -/
def JvForm.encodable (f : JvForm) : Bool :=
  f.ty < 16 && f.d.encodable false && f.a.encodable false && f.b.encodable false && f.c.encodable true
  && (match f.guard with
      | .always => true
      | .direct n => n < 126
      | .wide n => n < 0xF00 && f.hasMod && f.c == .none)
  && f.pol < 4 && f.spc < 8 && f.ord < 8 && f.scp < 8 && f.rm < 8 && f.sub < 64
  && (f.hasMod || (f.off == 0 && f.c == .none && f.pol == 0 && f.spc == 0 && f.ord == 0 && f.scp == 0 && f.rm == 0
      && f.sub == 0))
  && f.d.escapes + f.a.escapes + f.b.escapes + (if f.hasMod then 1 else 0) ≤ 3
  && (match f.d with | .imm _ _ => false | _ => true)

/-- A JV form of an operation that decodes to itself and reaches no class 1 condition. -/
def JvForm.wf (o : Op) (f : JvForm) : Bool :=
  f.encodable && Op.ofCode o.code.1 o.code.2 f.sub == some o && (f.problems o).isEmpty

end Sys2Proof
end

