-- ==== Sys2Proof/Decode.lean ====
section
/-! DEFINITION. The decoders and encoders of JV instructions (R126 to R135) and native slot words (R278 to R289). -/

namespace Sys2Proof

/-- What a decoder answers: an operation with its fields and its length in words, or the class 1 condition found, with
the length when it is known (R446). -/
inductive JvDecoded where
  | ok (o : Op) (f : JvForm) (len : Nat)
  | bad (p : Problem) (len : Option Nat)
deriving DecidableEq, Repr

/-- Operand field codes (R129, R131) with their extension word; the second part is a cause. -/
def decodeOperand (code : Nat) (ext : Word) : Operand × Option Nat :=
  if code < 0xF00 then (.reg code false, none)
  else if code < 0xF40 then (.lit (BitVec.ofNat 6 code), none)
  else if code < 0xF80 then (.none, some 69)
  else if code < 0xF8A then (.sys (code - 0xF80), none)
  else if code < 0xFE0 then (.none, some 69)
  else if code = 0xFE0 then (.none, none)
  else if code = 0xFE1 then (.pconst true, none)
  else if code = 0xFE2 then (.pconst false, none)
  else if code < 0xFF0 then (.none, some 69)
  else if code = 0xFF0 then (.reg (field ext 0 32) true, if field ext 32 32 = 0 then none else some 70)
  else if code = 0xFF1 then
    (.imm 1 (BitVec.signExtend 64 (ext.truncate 32)), if field ext 32 32 = 0 then none else some 70)
  else if code = 0xFF2 then (.imm 2 (BitVec.ofNat 64 (field ext 0 32)), if field ext 32 32 = 0 then none else some 70)
  else if code = 0xFF3 then (.imm 3 ext, none)
  else (.none, some 68)

/-- The field code of an operand (R129). -/
def encodeOperand (o : Operand) : Nat :=
  match o with
  | .reg n esc => if esc then 0xFF0 else n
  | .lit v => 0xF00 + v.toNat
  | .imm k _ => 0xFF0 + k
  | .sys n => 0xF80 + n
  | .pconst true => 0xFE1
  | .pconst false => 0xFE2
  | _ => 0xFE0

/-- The extension words of an operand (R130). -/
def encodeExt (o : Operand) : List Word :=
  match o with
  | .reg n true => [BitVec.ofNat 64 n]
  | .imm 3 v => [v]
  | .imm _ v => [BitVec.ofNat 64 (v.toNat % 2 ^ 32)]
  | _ => []

/-- The extension words that D, or A or B, calls for (R128). -/
def escD (code : Nat) : Nat := if code = 0xFF0 then 1 else 0
def escS (code : Nat) : Nat := if 0xFF0 ≤ code ∧ code ≤ 0xFF3 then 1 else 0

/-- The JV instruction at the head of a list of words: R127 to R135, with the class 1 conditions of R450 in the order
of R448 [62, DEDUCED] [81, DEDUCED]. -/
def decodeJv (ws : List Word) : JvDecoded :=
  let w0 := ws.getD 0 0
  let op := field w0 56 8
  let fn := field w0 50 6
  let ty := field w0 46 4
  let xc := field w0 44 2
  let dc := field w0 24 12
  let ac := field w0 12 12
  let bc := field w0 0 12
  let e := escD dc + escS ac + escS bc
  let xcOk := xc == e || xc == e + 1
  let len := if xcOk then some (1 + xc) else none
  let hasMod := xc == e + 1
  let wm := if hasMod && xcOk then ws.getD (1 + e) 0 else 0xFE000000
  let sub := field wm 0 6
  match Op.ofCode op fn sub with
  | none => if op = 0 ∨ 0x10 < op then .bad ⟨64, 0, 56⟩ len else .bad ⟨65, 0, 50⟩ len
  | some o =>
    if !xcOk then
      if (List.range 64).all (fun s => !o.tyOk ty s) then .bad ⟨66, 0, 46⟩ none else .bad ⟨67, 0, 44⟩ none
    else if ws.length < 1 + xc then .bad ⟨67, 0, 44⟩ none
    else
      let d := if dc = 0xFF1 ∨ dc = 0xFF2 ∨ dc = 0xFF3 then (Operand.none, some 68)
               else decodeOperand dc (ws.getD 1 0)
      let a := decodeOperand ac (ws.getD (1 + escD dc) 0)
      let b := decodeOperand bc (ws.getD (1 + escD dc + escS ac) 0)
      let cc := field wm 20 12
      let gd := field w0 36 7
      let c := if gd = 126 then (Operand.none, if cc < 0xF00 then none else some 68)
               else if 0xFF0 ≤ cc then (Operand.none, some 68)
               else decodeOperand cc 0
      let f : JvForm :=
        { gneg := field w0 43 1 == 1
          guard := if gd = 127 then .always else if gd = 126 then .wide cc else .direct gd
          ty := ty, d := d.1, a := a.1, b := b.1, c := c.1
          off := BitVec.ofNat 32 (field wm 32 32)
          pol := field wm 18 2, spc := field wm 15 3, ord := field wm 12 3, scp := field wm 9 3, rm := field wm 6 3
          sub := sub, hasMod := hasMod }
      let m := if hasMod then e + 1 else 0
      let r := o.roles ty sub
      -- a field that fails to parse is judged for that alone
      let judge (role : Role) (x : Operand × Option Nat) (fc : Bool) (w b ew : Nat) : List Problem :=
        match x.2 with
        | some 70 => (if role == .unused && !fc then [⟨68, w, b⟩] else role.problems x.1 fc w b) ++ [⟨70, ew, 32⟩]
        | some cause => [⟨if role == .unused && !fc then 68 else cause, w, b⟩]
        | none => role.problems x.1 fc w b
      let ps := judge r.d d false 0 24 1 ++ judge r.a a false 0 12 (1 + escD dc)
        ++ judge r.b b false 0 0 (1 + escD dc + escS ac)
        ++ (if gd = 126 ∧ c.2 = none then [] else judge r.c c true m 20 m) ++ f.fieldProblems o m
      match Problem.first ps with
      | some p => .bad p len
      | none => .ok o f (1 + xc)

/-- The guard code (R135). -/
def encodeGuard (g : Guard) : Nat :=
  match g with
  | .always => 127
  | .direct n => n
  | .wide _ => 126

/-- The base word of a form (R127). -/
def encodeBase (o : Op) (f : JvForm) : Word :=
  let e := f.d.escapes + f.a.escapes + f.b.escapes
  BitVec.ofNat 64
    (encodeOperand f.b + 2 ^ 12 * (encodeOperand f.a + 2 ^ 12 * (encodeOperand f.d + 2 ^ 12 *
      (encodeGuard f.guard + 2 ^ 7 * ((if f.gneg then 1 else 0) + 2 * ((e + if f.hasMod then 1 else 0) + 4 *
        (f.ty + 16 * (o.code.2 + 64 * o.code.1))))))))

/-- The modifier word of a form (R133). -/
def encodeMod (f : JvForm) : Word :=
  let c := match f.guard with | .wide n => n | _ => encodeOperand f.c
  BitVec.ofNat 64
    (f.sub + 64 * (f.rm + 8 * (f.scp + 8 * (f.ord + 8 * (f.spc + 8 * (f.pol + 4 * (c + 2 ^ 12 * f.off.toNat)))))))

/-- The words of a JV instruction, in the order of R128. -/
def encodeJv (o : Op) (f : JvForm) : List Word :=
  encodeBase o f :: (encodeExt f.d ++ encodeExt f.a ++ encodeExt f.b ++ if f.hasMod then [encodeMod f] else [])

/-! ## Native slot words -/

/-- The slots of R275 and R276. -/
inductive Slot where
  | s | v0 | v1 | m | xc | ld | st | h | v | mx | mem
deriving DecidableEq, Repr

def slotOf (k : CoreKind) (i : Nat) : Slot :=
  match k with
  | .dcore => [Slot.s, .v0, .v1, .m, .xc, .ld, .st, .h].getD i .s
  | .lcore => [Slot.s, .v, .mx, .mem].getD i .s

/-- The number of slots in a bundle of a core kind. -/
def slotCount (k : CoreKind) : Nat :=
  match k with
  | .dcore => 8
  | .lcore => 4

/-- The operations a slot accepts (R287, R535). -/
def Slot.accepts (sl : Slot) (o : Op) : Bool :=
  let op := o.code.1
  let isLd := o == .ld || o == .ldu || o == .atom || o == .cas || o == .aqadd || o == .pref || o == .fgath || o == .waita
  let isH := op == 13 || op == 14
  match sl with
  | .s => (1 ≤ op && op ≤ 4) || o == .rdsr || (9 ≤ op && op ≤ 11 && o != .waita) || o == .fence || o == .codeload
      || op == 16 || (op == 63 && o != .movx)
  | .v0 | .v1 => (1 ≤ op && op ≤ 8 && o != .rdsr) || o == .movx
  | .v => 1 ≤ op && op ≤ 8 && o != .rdsr
  | .m => op == 15 && o != .xcut
  | .xc => o == .xcut
  | .mx => op == 15
  | .ld => isLd
  | .st => o == .st
  | .h => isH
  | .mem => isLd || o == .st || isH

/-- A vector register of the slot's cluster, or an s register (R283). -/
def Slot.vecOperand (sl : Slot) (code : Nat) : Operand :=
  match sl with
  | .v0 | .ld | .xc | .m => if code < 64 then .vx code else .sreg (code - 64)
  | .v1 | .st => if code < 64 then .vy code else .sreg (code - 64)
  | .mx => if code < 64 then .vl code else .sreg (code - 64)
  | _ => if code < 96 then .vl code else .sreg (code - 96)

/-- An operand code of a slot that names a register, or none where R283 leaves it unassigned [63, DEDUCED]. -/
def Slot.operand (sl : Slot) (isDst : Bool) (code : Nat) : Option Operand :=
  match sl with
  | .s => if code < 64 then some (.sreg code) else if code = 64 then some .lr
          else if code = 66 && !isDst then some .rrb else none
  | .h => if code < 64 then some (.sreg code) else none
  | _ => some (sl.vecOperand code)

/-- Sign extension of an n-bit number. -/
def sextInt (n v : Nat) : Int := if v < 2 ^ (n - 1) then (v : Int) else (v : Int) - (2 ^ n : Nat)

/-- The format of an operation's x field (R288). -/
inductive NatFormat where
  | compute | memory | matrix | haul | control
deriving DecidableEq, Repr

def Op.natFormat (o : Op) : NatFormat :=
  match o with
  | .bra | .brx | .call | .callx | .loop | .cmt | .eqp | .rrbset | .sigadv => .control
  | .waita | .fence | .codeload => .memory
  | .xcut => .control
  | _ =>
    let op := o.code.1
    if op = 12 then .memory else if op = 15 then .matrix else if op = 13 ∨ op = 14 then .haul else .compute

/-- The operation of a slot word's opc, with the form its sub, ra or cnt field names; none for cause 75. -/
def natOp (f : NatForm) (opc : Nat) : Option Op :=
  let op := opc / 16
  let fn := opc % 16
  if op = 63 then Op.ofNative fn
  else
    let x := f.x.toNat
    let sub := if op = 15 then (if fn = 0 then x / 128 % 2 else x % 64 % 4) else if op = 13 ∨ op = 14 then x / 2 ^ 11 % 64
               else 0
    Op.ofCode op fn sub

/-- One operand of the compute format, by its role. -/
def natRole (sl : Slot) (r : Role) (code bit : Nat) : Operand × List Problem :=
  let orBad (o : Option Operand) : Operand × List Problem :=
    match o with
    | some x => (x, [])
    | none => (.none, [⟨68, 0, bit⟩])
  match r with
  | .unused => (.none, if code = 0 then [] else [⟨77, 0, bit⟩])
  | .dstPred | .srcPred => if code < 16 then (.preg code, []) else (.none, [⟨68, 0, bit⟩])
  | .dst _ | .dstAny _ | .dstLane _ | .dstUni _ | .dstMov _ => orBad (sl.operand true code)
  | .acc => (.tile code, [])
  | _ => orBad (sl.operand false code)

/-- The operation writes a value register, as opposed to a predicate or a tile, in this role [63, DEDUCED]. -/
def Role.isValueDst (r : Role) : Bool :=
  match r with
  | .dst _ | .dstAny _ | .dstLane _ | .dstUni _ | .dstMov _ => true
  | _ => false

/-- A field of fixed codes: 71 where the operation uses it and does not accept its value, or where no code has the value;
77 where the operation does not use it (R451) [57, DEDUCED]. -/
def memField (uses ok : Bool) (v lim bit : Nat) : List Problem :=
  if uses then (if ok then [] else [⟨71, 0, bit⟩])
  else if v = 0 then [] else if v < lim then [⟨77, 0, bit⟩] else [⟨71, 0, bit⟩]

/-- The operands and fields of a slot word, with the conditions of R451 it meets; on an L-core, which has no clusters X and Y, the cluster bits of an xcut
are bits it does not use [57, DEDUCED] [63, DEDUCED] [93, DESIGN CHOICE]. -/
def natArgs (f : NatForm) (o : Op) : Args × List Problem :=
  let sl := slotOf f.kind f.slot
  let x := f.x.toNat
  let d := f.d.toNat
  let a := f.a.toNat
  let b := f.b.toNat
  let c := f.c.toNat
  let base : Args := { ty := 15, d := .none, a := .none, b := .none, c := .none, off := 0, pol := 0, spc := 0, ord := 0
                       scp := 0, rm := 0, sub := 0, kreg := .none, spec := none }
  let zero (v bit : Nat) : List Problem := if v = 0 then [] else [⟨77, 0, bit⟩]
  let ck (c : Bool) (cause bit : Nat) : List Problem := if c then [] else [⟨cause, 0, bit⟩]
  let sreg (code bit : Nat) : Operand × List Problem :=
    if 64 ≤ code then (.sreg (code - 64), []) else (.none, [⟨68, 0, bit⟩])
  let tile (code bit : Nat) : Operand × List Problem :=
    if code < (if f.kind = .dcore then 12 else 4) then (.tile code, []) else (.none, [⟨68, 0, bit⟩])
  let hreg (code bit : Nat) : Operand × List Problem :=
    if code < 64 then (.sreg code, []) else (.none, [⟨68, 0, bit⟩])
  match o.natFormat with
  | .compute =>
    let ty := x / 2 ^ 17
    let sub := x / 2 ^ 11 % 64
    let rm := x / 2 ^ 8 % 8
    let bi := x / 2 ^ 7 % 2
    let ilo := x % 128
    let r := o.roles ty sub
    let tyP := ck (o.tyOk ty sub && o.srcTyOk ty (sub % 16)) 66 17
      ++ ck (!(sl == .s && d == 64 && r.d.isValueDst && ty != 5)) 66 17
    let subP := ck (o.subOk sub) 73 11
    let rmP := memField (o.usesRm ty sub) (rm < 5) rm 5 8
    if o = .nop then (base, [])
    else if o = .rdsr then
      ({ base with ty := if a = 4 ∨ a = 5 ∨ a = 6 ∨ a = 9 then 7 else 5, d := (natRole sl r.d d 42).1, a := .sys a },
        ck (if a < 10 then ty == (if a = 4 ∨ a = 5 ∨ a = 6 ∨ a = 9 then 7 else 5) else o.tyOk ty sub) 66 17
        ++ ck (!(sl == .s && d == 64 && ty != 5)) 66 17 ++ subP ++ rmP ++ zero b 28 ++ zero c 21
        ++ zero (x % 256) 0 ++ (natRole sl r.d d 42).2 ++ ck (a < 10) 68 35
        ++ ck (!(a = 0 || a = 7)) 76 54)
    else if o = .bar ∨ o = .barar ∨ o = .barwt then
      let k := if bi = 1 then (if b = 0 ∧ ilo = 0 then Operand.none else .nimm (sextInt 14 (b * 128 + ilo)))
               else (sl.operand false b).getD .none
      let kP := if o = .barwt then zero b 28 ++ zero (x % 256) 0
                else if bi = 1 then [] else ck (sl.operand false b).isSome 68 28 ++ zero ilo 0
      ({ base with ty := 15, a := .nimm a, b := if o = .barwt then .none else k },
        tyP ++ subP ++ rmP ++ zero d 42 ++ zero (a / 16) 39 ++ kP ++ zero c 21)
    else if o = .movi then
      let dd := natRole sl r.d d 42
      let aa := natRole sl (.src 32) a 35
      let bb := natRole sl r.b b 28
      ({ base with ty := ty, d := dd.1, a := aa.1, b := bb.1, off := (ilo % 64 : Nat) + 1 },
        tyP ++ subP ++ rmP ++ zero c 21 ++ zero (x / 64 % 4) 6 ++ dd.2 ++ aa.2 ++ bb.2)
    else if o = .movx then
      let src : Operand := if a < 64 then (if sl = .v0 then .vy a else .vx a) else .sreg (a - 64)
      let dst : Operand := if d < 64 then (if sl = .v0 then .vx d else .vy d) else .none
      ({ base with ty := ty, d := dst, a := src },
        ck (ty == 15) 66 17 ++ subP ++ rmP ++ zero b 28 ++ zero c 21 ++ zero (x % 256) 0
        ++ ck (d < 64) 68 42)
    else
      let dRole := if r.d == .dstMov (tyWidth ty) then Role.dst (tyWidth ty) else r.d
      let dd := natRole sl dRole d 42
      let noB := r.b == .unused
      let mov28 := o == .mov && sl == .s && bi == 1 && ty != 15
      let aa : Operand × List Problem :=
        if mov28 then (.nimm (sextInt 28 (((a * 128 + b) * 128 + c) * 128 + ilo)), [])
        else if noB && bi == 1 then
          (if r.a == .unused || r.a == .srcPred then (.none, [⟨77, 0, 7⟩]) else (.nimm (sextInt 14 (b * 128 + ilo)), zero a 35))
        else natRole sl r.a a 35
      let bb : Operand × List Problem :=
        if mov28 then (.none, [])
        else if noB then (.none, if bi = 1 then [] else zero b 28)
        else if bi = 1 then
          (if r.b == .srcPred then (.none, [⟨77, 0, 7⟩]) else (.nimm (sextInt 14 (b * 128 + ilo)), []))
        else natRole sl r.b b 28
      let cc : Operand × List Problem := if mov28 then (.none, []) else natRole sl r.c c 21
      let iloP := if bi = 1 then [] else zero ilo 0
      ({ base with ty := ty, d := dd.1, a := aa.1, b := bb.1, c := cc.1, rm := rm, sub := sub },
        tyP ++ subP ++ rmP ++ dd.2 ++ aa.2 ++ bb.2 ++ cc.2 ++ iloP)
  | .memory =>
    let ty := x / 2 ^ 17
    let pol := x / 2 ^ 15 % 4
    let spc := x / 2 ^ 13 % 4
    let ord := x / 2 ^ 11 % 4
    let scp := x / 2 ^ 8 % 8
    let aux := x % 256
    let sl' := if o = .fence ∨ o = .codeload then Slot.s else sl
    let sub := match o with
      | .waita => aux % 8
      | .atom | .aqadd => aux % 16
      | .fence => aux % 4
      | _ => 0
    let auxP := match o with
      | .ld | .ldu => []
      | .waita => zero (aux / 8) 3
      | .atom | .aqadd => zero (aux / 16) 4
      | .pref => zero (aux / 2) 1
      | .fence => zero (aux / 4) 2
      | _ => zero aux 0
    let pol' := if o = .pref then (if aux % 2 = 1 then 2 else 0) else pol
    let r := o.roles ty sub
    let dd := natRole sl' r.d d 42
    let aa := if r.a == .unused then natRole sl' .unused a 35 else natRole sl' (.src 64) a 35
    let bb := natRole sl' r.b b 28
    let hasOff := o != .cas && o.usesOff && o != .pref
    let cc : Operand × List Problem :=
      if o = .cas then natRole sl' r.c c 21 else if hasOff then (.none, []) else (.none, zero c 21)
    ({ base with ty := ty, d := dd.1, a := aa.1, b := bb.1, c := cc.1
                 off := if hasOff then sextInt 7 c * tyBytes ty else 0
                 pol := pol', spc := spc, ord := ord, scp := scp, sub := sub
                 spec := if (o = .ld ∨ o = .ldu) ∧ aux / 128 = 1 then some (aux % 128) else none },
      ck (o.tyOk ty sub) 66 17 ++ (if o = .pref then (if pol = 0 then [] else [⟨if pol = 2 then 77 else 71, 0, 15⟩]) else memField o.usesPol (o.polOk spc pol) pol 3 15)
      ++ memField o.usesSpc (o.spcOk spc) spc 4 13 ++ memField o.usesOrd (o.ordOk ord) ord 4 11
      ++ memField o.usesScp (o.scpOk scp) scp 6 8 ++ ck (o.subOk sub) 73 0 ++ auxP ++ dd.2 ++ aa.2 ++ bb.2 ++ cc.2)
  | .matrix =>
    let ty := x / 2 ^ 17
    let pol := x / 2 ^ 15 % 4
    let spc := x / 2 ^ 13 % 4
    let ord := x / 2 ^ 11 % 4
    let scp := x / 2 ^ 8 % 8
    let ra := x / 2 ^ 7 % 2
    let cnt := x % 64
    let sub := match o with
      | .mmaRa => 1
      | .accld | .accst => 63 - cnt
      | .tri => cnt % 8
      | .asstSt | .asstTol | .asstClr => cnt % 4
      | _ => 0
    let rows := o == .accld || o == .accst
    let memP := memField o.usesPol (o.polOk spc pol) pol 3 15 ++ memField o.usesSpc (o.spcOk spc) spc 4 13
      ++ memField o.usesOrd (o.ordOk ord) ord 4 11 ++ memField o.usesScp (o.scpOk scp) scp 6 8
    let tyP := ck (o.tyOk ty sub) 66 17 ++ zero (x / 64 % 2) 6 ++ memP
    let m : Args := { base with ty := ty, pol := pol, spc := spc, ord := ord, scp := scp, sub := sub }
    match o with
    | .mma => ({ m with d := (tile d 42).1, a := sl.vecOperand a, b := (sreg b 28).1, off := (cnt + 1) * 16 },
        tyP ++ (tile d 42).2 ++ (sreg b 28).2 ++ zero c 21)
    | .mmaRa => ({ m with d := (tile d 42).1, b := (sreg b 28).1 },
        tyP ++ (tile d 42).2 ++ zero a 35 ++ (sreg b 28).2 ++ zero c 21 ++ zero cnt 0)
    | .accz | .asstClr => ({ m with d := (tile d 42).1 },
        tyP ++ (tile d 42).2 ++ zero a 35 ++ zero b 28 ++ zero c 21 ++ zero ra 7
        ++ (if o = .accz then zero cnt 0 else zero (cnt / 4) 2))
    | .accld => ({ m with d := (tile d 42).1, a := sl.vecOperand a },
        tyP ++ (tile d 42).2 ++ zero b 28 ++ zero c 21 ++ zero ra 7)
    | .accst => ({ m with a := sl.vecOperand a, b := (tile d 42).1, c := if ra = 1 then .none else (sreg b 28).1
                          rm := c % 8 },
        tyP ++ (tile d 42).2 ++ (if ra = 1 then zero b 28 else (sreg b 28).2) ++ zero (c / 8) 24
        ++ memField (ty != 15) (c % 8 < 5) (c % 8) 5 21)
    | .accmax | .asstSt =>
      if 2 < sub then (m, tyP ++ [⟨73, 0, 0⟩])
      else ({ m with d := (sreg d 42).1, a := (tile a 35).1 },
        tyP ++ (sreg d 42).2 ++ (tile a 35).2 ++ zero b 28 ++ zero c 21 ++ zero ra 7
        ++ (if o = .accmax then zero cnt 0 else ck (cnt / 4 = 0) 77 2 ++ ck (cnt % 4 = 0) 73 0))
    | .accanc | .asstTol => ({ m with d := (tile d 42).1, a := sl.vecOperand a },
        tyP ++ (tile d 42).2 ++ zero b 28 ++ zero c 21 ++ zero ra 7
        ++ (if o = .accanc then zero cnt 0 else zero (cnt / 4) 2))
    | _ => ({ m with a := sl.vecOperand a },
        tyP ++ zero d 42 ++ zero b 28 ++ zero c 21 ++ zero ra 7 ++ zero (cnt / 8) 3
        ++ ck (o.subOk sub) 73 0 ++ (if rows then [] else []))
  | .haul =>
    let ty := x / 2 ^ 17
    let sub := x / 2 ^ 11 % 64
    let scp := x / 2 ^ 8 % 8
    let nk := x / 64 % 4
    let kr := x % 64
    let isPack := o == .ckpack || o == .ckpackUnpk
    let ty' := if isPack then ty else match o with | .ckver => 5 | .ckinfo => 7 | _ => 15
    let tyP := ck (if isPack then o.tyOk ty sub else ty == 15) 66 17
    let subP := ck (o.subOk sub) 73 11
    let scpP := memField o.usesScp (o.scpOk scp) scp 6 8
    let usesK := o == .hgath || o == .hscat || o == .hmcast
    let m : Args := { base with ty := ty', sub := sub, scp := scp }
    match o with
    | .hwait => ({ m with off := (x % 256 : Nat) }, tyP ++ subP ++ scpP ++ zero d 42 ++ zero a 35 ++ zero b 28 ++ zero c 21)
    | .htest => ({ m with off := (x % 256 : Nat), d := (hreg d 42).1 },
        tyP ++ subP ++ scpP ++ (hreg d 42).2 ++ zero a 35 ++ zero b 28 ++ zero c 21)
    | .ckinfo => ({ m with d := (hreg d 42).1, a := (hreg a 35).1 },
        tyP ++ subP ++ scpP ++ (hreg d 42).2 ++ (hreg a 35).2 ++ zero b 28 ++ zero c 21 ++ zero (x % 256) 0)
    | .ckver | .ckpack | .ckpackUnpk =>
      ({ m with d := (hreg d 42).1, a := (hreg a 35).1, b := (hreg b 28).1, c := (hreg c 21).1 },
        tyP ++ subP ++ scpP ++ (hreg d 42).2 ++ (hreg a 35).2 ++ (hreg b 28).2 ++ (hreg c 21).2 ++ zero (x % 256) 0
        ++ ck (!(isPack && 2 ≤ nk)) 71 6)
    | _ =>
      ({ m with d := if d = 127 then .none else (hreg d 42).1, a := (hreg a 35).1, b := (hreg b 28).1, c := (hreg c 21).1
                spc := nk, kreg := if usesK then .sreg kr else .none },
        tyP ++ subP ++ scpP ++ (if d = 127 then [] else (hreg d 42).2) ++ (hreg a 35).2 ++ (hreg b 28).2 ++ (hreg c 21).2
        ++ ck (nk != 1 && ((nk == 0) == (d == 127))) 71 6 ++ (if usesK then [] else zero kr 0))
  | .control =>
    match o with
    | .bra =>
      let j := sextInt 21 ((a * 128 + b) * 128 + c)
      ({ base with a := .nimm (sextInt 21 x), b := if j = 0 then .none else .nimm j }, zero (d / 2) 43)
    | .call => ({ base with a := .nimm (sextInt 21 x) }, zero (d / 2) 43 ++ zero a 35 ++ zero b 28 ++ zero c 21)
    | .brx =>
      let av := if f.kind = .dcore then Slot.vecOperand .v0 a else Slot.vecOperand .v a
      ({ base with a := av, b := .nimm (sextInt 21 x) }, zero d 42 ++ zero b 28 ++ zero c 21)
    | .callx =>
      ({ base with a := (sl.operand false a).getD .none },
        ck (a < 64) 68 35 ++ zero d 42 ++ zero b 28 ++ zero c 21 ++ zero x 0)
    | .loop => ({ base with a := .nimm (sextInt 21 x), off := (d : Nat) }, zero a 35 ++ zero b 28 ++ zero c 21)
    | .cmt | .eqp => ({ base with off := (x % 2 ^ 20 : Nat) }, zero (x / 2 ^ 20) 20 ++ zero d 42 ++ zero a 35 ++ zero b 28 ++ zero c 21)
    | .rrbset => ({ base with off := (x % 64 : Nat) }, zero (x / 64) 6 ++ zero d 42 ++ zero a 35 ++ zero b 28 ++ zero c 21)
    | .sigadv =>
      ({ base with a := (sl.operand false a).getD .none, off := (d : Nat) },
        ck (a < 64) 68 35 ++ zero b 28 ++ zero c 21 ++ zero x 0)
    | _ =>
      -- xcut
      let reg (cl code : Nat) : Operand :=
        if f.kind = .lcore then .vl code else if cl = 0 then .vx code else .vy code
      let lim := if f.kind = .lcore then 96 else 64
      ({ base with ty := 5, a := reg (x % 2) a, d := reg (x / 2 % 2) d },
        zero (x / (if f.kind = .lcore then 1 else 4)) 2 ++ zero b 28 ++ zero c 21 ++ ck (a < lim) 68 35 ++ ck (d < lim) 68 42)

/-- The fields of a slot word (R278) [57, DEDUCED]. -/
def natFields (k : CoreKind) (slot : Nat) (w : Word) : NatForm :=
  { kind := k, slot := slot
    g := BitVec.ofNat 4 (field w 50 4), gn := field w 49 1 == 1
    d := BitVec.ofNat 7 (field w 42 7), a := BitVec.ofNat 7 (field w 35 7), b := BitVec.ofNat 7 (field w 28 7)
    c := BitVec.ofNat 7 (field w 21 7), x := BitVec.ofNat 21 (field w 0 21) }

/-- The conditions of R451 that a slot form meets [57, DEDUCED]. -/
def NatForm.problems (f : NatForm) (o : Op) : List Problem :=
  if o = .nop then (if f.g = 0 ∧ f.gn = false ∧ f.d = 0 ∧ f.a = 0 ∧ f.b = 0 ∧ f.c = 0 ∧ f.x = 0 then [] else [⟨75, 0, 54⟩])
  else
    (if (slotOf f.kind f.slot).accepts o then [] else [⟨76, 0, 54⟩])
    ++ (if o.unguarded && f.gn then [⟨74, 0, 49⟩] else if o.unguarded && f.g != 0 then [⟨74, 0, 50⟩] else [])
    ++ (natArgs f o).2

/-- The operation of a slot word, or the class 1 condition it raises (R279, R286, R451). -/
def decodeSlot (k : CoreKind) (slot : Nat) (w : Word) : Except Problem (Op × NatForm) :=
  let f := natFields k slot w
  let opc := field w 54 10
  if opc = 0 then (if w = 0 then .ok (.nop, f) else .error ⟨75, 0, 0⟩)
  else
    match natOp f opc with
    | none => .error ⟨75, 0, 54⟩
    | some o =>
      match Problem.first (f.problems o) with
      | some p => .error p
      | none => .ok (o, f)

/-- opc of an operation (R286). -/
def Op.opc (o : Op) : Nat := o.code.1 * 16 + o.code.2

/-- The slot word of a form (R278). -/
def encodeSlot (o : Op) (f : NatForm) : Word :=
  BitVec.ofNat 64
    (f.x.toNat + 2 ^ 21 * (f.c.toNat + 128 * (f.b.toNat + 128 * (f.a.toNat + 128 * (f.d.toNat + 128 *
      ((if f.gn then 1 else 0) + 2 * (f.g.toNat + 16 * o.opc)))))))

/-- A slot form that decodes to itself. -/
def NatForm.wf (o : Op) (f : NatForm) : Bool :=
  f.slot < slotCount f.kind && (if o = .nop then true else natOp f o.opc == some o) && (f.problems o).isEmpty

/-- An instruction with an encoding that is well formed; an event has no encoding and is well formed. -/
def Instr.wf (i : Instr) : Bool :=
  match i.parts with
  | some (o, .jv f) => f.wf o
  | some (o, .nat f) => f.wf o
  | none => true

/-- The words of an instruction: the JV words, or the native slot word. -/
def encode (i : Instr) : List Word :=
  match i.parts with
  | some (o, .jv f) => encodeJv o f
  | some (o, .nat f) => [encodeSlot o f]
  | none => []

/-- The fields of a JV form as a meaning reads them. -/
def jvArgs (f : JvForm) : Args :=
  { ty := f.ty, d := f.d, a := f.a, b := f.b, c := f.c, off := f.off.toInt, pol := f.pol, spc := f.spc, ord := f.ord
    scp := f.scp, rm := f.rm, sub := f.sub, kreg := .none, spec := none }

/-- The operands and fields of either encoding. -/
def Form.args (o : Op) (f : Form) : Args :=
  match f with
  | .jv g => jvArgs g
  | .nat g => (natArgs g o).1

/-- The words of a list of bytes, the last one filled with zeros (R8). -/
def wordsOf : Nat → List Byte → List Word
  | 0, _ => []
  | n + 1, bs => BitVec.ofNat 64 (ofBytesLE (bs.take 8)) :: wordsOf n (bs.drop 8)

/-- The JV instruction at the head of a list of bytes; missing bytes make it shorter than its words call for. -/
def decodeBytes (bs : List Byte) : JvDecoded := decodeJv (wordsOf (Nat.min 4 (bs.length / 8)) bs)

/-- The slot a native-only operation is tried in: S, but V0 for movx (R287). -/
def tableSlot (w : Word) : Nat := if field w 54 10 = 0x3F4 then 1 else 0

/-- The instruction of a table word: JV words first; a word that is no JV instruction is read as a native slot word of a
D-core. -/
def decodeTableWord (_nbits w : Nat) : Option Instr :=
  let ws := [BitVec.ofNat 64 w, BitVec.ofNat 64 (w / 2 ^ 64), BitVec.ofNat 64 (w / 2 ^ 128), BitVec.ofNat 64 (w / 2 ^ 192)]
  match decodeJv ws with
  | .ok o f _ => some (Instr.ofOp o (.jv f))
  | .bad _ _ =>
    match decodeSlot .dcore (tableSlot (ws.getD 0 0)) (ws.getD 0 0) with
    | .ok (o, f) => some (Instr.ofOp o (.nat f))
    | .error _ => none

end Sys2Proof
end

