-- ==== Sys2Proof/Machine/Float.lean ====
section
/-! DEFINITION. Floating formats and exact arithmetic: R99 to R101, R109 to R112, R118 to R121. A real is held exactly, or,
where it is irrational or not dyadic, to more than 200 bits with its last bit set (rounded to odd), which every rounding
below reads as it would read the real [9, DEDUCED]. -/

namespace Sys2Proof

/-- A floating format: mantissa bits, bias, the largest finite magnitude as an encoding, whether it has infinities. -/
structure FFmt where
  t : Nat
  bias : Nat
  maxBits : Nat
  hasInf : Bool
deriving DecidableEq, Repr

/-- The code the model gives E2M1, which no TY names (R99). -/
def tyE2M1 : Nat := 16

/-- The formats of R99 by TY code. -/
def ffmt (ty : Nat) : FFmt :=
  match ty with
  | 8 => { t := 10, bias := 15, maxBits := 0x7BFF, hasInf := true }
  | 9 => { t := 7, bias := 127, maxBits := 0x7F7F, hasInf := true }
  | 10 => { t := 23, bias := 127, maxBits := 0x7F7FFFFF, hasInf := true }
  | 13 => { t := 3, bias := 7, maxBits := 0x7E, hasInf := false }
  | 14 => { t := 2, bias := 15, maxBits := 0x7B, hasInf := true }
  | _ => { t := 1, bias := 1, maxBits := 0x7, hasInf := false }

/-- The sign bit's weight in a format. -/
def signBit (ty : Nat) : Nat :=
  match ty with
  | 8 | 9 => 2 ^ 15
  | 10 => 2 ^ 31
  | 13 | 14 => 2 ^ 7
  | _ => 8

/-- The positive default NaN (R101). -/
def defaultNaN (ty : Nat) : Nat :=
  match ty with
  | 8 => 0x7E00
  | 9 => 0x7FC0
  | 10 => 0x7FC00000
  | 13 => 0x7F
  | 14 => 0x7E
  | _ => 0

/-- An exact value: NaN (signalling or not), an infinity, or (-1)^neg m 2^e. -/
inductive Ex where
  | nan (sig : Bool)
  | inf (neg : Bool)
  | num (neg : Bool) (m : Nat) (e : Int)
deriving DecidableEq, Repr

/-- Sticky flags as a number (R113): 1 inv, 2 dz, 4 ovf, 8 unf, 16 inx, 32 aqs. -/
abbrev Flags := Nat

def Flags.join (a b : Flags) : Flags := Nat.lor a b

def Ex.zero (neg : Bool) : Ex := .num neg 0 0

/-- The value of an encoding (R99, R100). -/
def decodeF (ty bits : Nat) : Ex :=
  let f := ffmt ty
  let s := signBit ty
  let neg := bits / s % 2 == 1
  let mag := bits % s
  let man := mag % 2 ^ f.t
  let ex := mag / 2 ^ f.t
  if f.maxBits < mag then
    if f.hasInf && man == 0 then .inf neg
    else if ty = 13 then .nan false
    else .nan (ty != 14 && man < 2 ^ (f.t - 1))
  else if ex = 0 then .num neg man (1 - (f.bias : Int) - f.t)
  else .num neg (2 ^ f.t + man) ((ex : Int) - f.bias - f.t)

def Ex.isZero (x : Ex) : Bool := match x with | .num _ 0 _ => true | _ => false
def Ex.isNaN (x : Ex) : Bool := match x with | .nan _ => true | _ => false
def Ex.isSig (x : Ex) : Bool := match x with | .nan b => b | _ => false
def Ex.neg? (x : Ex) : Bool := match x with | .nan _ => false | .inf n => n | .num n _ _ => n

/-- A subnormal encoding of FP32, FP16 or BF16. -/
def isSubnormal (ty bits : Nat) : Bool :=
  let mag := bits % signBit ty
  (ty == 8 || ty == 9 || ty == 10) && 0 < mag && mag < 2 ^ (ffmt ty).t

/-- An operand as a vector floating instruction reads it under FMT.ftz (R111). -/
def readF (ftz : Bool) (ty bits : Nat) : Ex :=
  if ftz && isSubnormal ty bits then .zero (bits / signBit ty % 2 == 1) else decodeF ty bits

/-- m 2^-sh rounded to an integer under rm (0 RNE, 1 RZ, 2 RU, 3 RD) with the sign given; the second part says inexact
(R109). -/
def roundNat (rm : Nat) (neg : Bool) (m : Nat) (sh : Int) : Nat × Bool :=
  if sh ≤ 0 then (m * 2 ^ (-sh).toNat, false)
  else
    let d := 2 ^ sh.toNat
    let q := m / d
    let r := m % d
    if r = 0 then (q, false)
    else
      let up := match rm with
        | 0 => d < 2 * r || (d == 2 * r && q % 2 == 1)
        | 2 => !neg
        | 3 => neg
        | _ => false
      (if up then q + 1 else q, true)

def satBit (ty : Nat) (sat : Bool) : Bool := sat && (ty == 13 || ty == 14 || ty == 8)

/-- What an overflow or an infinity becomes under "sat applies" and for E4M3 and E2M1 (R110). -/
def cvtInf (ty : Nat) (sat : Bool) (neg : Bool) : Nat × Flags :=
  let f := ffmt ty
  let s := if neg then signBit ty else 0
  if satBit ty sat || ty = tyE2M1 then (s + f.maxBits, 20)
  else if ty = 13 then (0x7F, 1)
  else (s + f.maxBits + 1, 0)

/-- cvt(v, F, rm) of R110, with the flags it raises. -/
def cvtF (ty rm : Nat) (sat : Bool) (v : Ex) : Nat × Flags :=
  let f := ffmt ty
  match v with
  | .nan _ => (defaultNaN ty, if ty = tyE2M1 then 1 else 0)
  | .inf neg => cvtInf ty sat neg
  | .num neg m e =>
    let s := if neg then signBit ty else 0
    if m = 0 then (s, 0)
    else
      let emin : Int := 1 - f.bias
      let p := e + Nat.log2 m
      let q := max (p - f.t) (emin - f.t)
      let n := roundNat rm neg m (q - e)
      let n' := roundNat rm neg m (p - f.t - e)
      -- below the smallest normal when rounded without a lower limit (R110 step 5)
      let tiny := p < emin && (p + 1 < emin || n'.1 < 2 ^ (f.t + 1))
      let bits := (q - (emin - f.t)).toNat * 2 ^ f.t + n.1
      if f.maxBits < bits then
        if satBit ty sat || ty = tyE2M1 then (s + f.maxBits, 20)
        else
          let away := match rm with
            | 0 => true
            | 2 => !neg
            | 3 => neg
            | _ => false
          if away then (if ty = 13 then 0x7F else s + f.maxBits + 1, 20) else (s + f.maxBits, 20)
      else (s + bits, (if n.2 then 16 else 0) + (if n.2 && tiny then 8 else 0))

/-- The result of a vector floating instruction: cvt, then FMT.ftz (R111). -/
def roundF (ty rm : Nat) (sat ftz : Bool) (v : Ex) : Nat × Flags :=
  let r := cvtF ty rm sat v
  if ftz && isSubnormal ty r.1 then (if r.1 / signBit ty % 2 == 1 then signBit ty else 0, Flags.join r.2 24) else r

/-- v rounded to an integer under rm; the second part says inexact. -/
def Ex.roundInt (rm : Nat) (v : Ex) : Int × Bool :=
  match v with
  | .num neg m e =>
    let n := roundNat rm neg m (-e)
    (if neg then -(n.1 : Int) else n.1, n.2)
  | _ => (0, false)

/-- cvti(v, T, rm) of R112 into the range lo to hi. -/
def cvtI (lo hi : Int) (rm : Nat) (v : Ex) : Int × Flags :=
  match v with
  | .nan _ => (0, 1)
  | .inf neg => (if neg then lo else hi, 1)
  | .num _ _ _ =>
    let r := v.roundInt rm
    if r.1 < lo then (lo, 1) else if hi < r.1 then (hi, 1) else (r.1, if r.2 then 16 else 0)

/-- An integer as an exact value. -/
def Ex.ofInt (i : Int) : Ex := .num (i < 0) i.natAbs 0

/-- An integer times 2^e. -/
def Ex.ofScaled (i : Int) (e : Int) : Ex := .num (i < 0) i.natAbs e

/-- The integer of a finite value at exponent e, which is at or below its own. -/
def scaledTo (neg : Bool) (m : Nat) (me e : Int) : Int :=
  let v : Int := (m * 2 ^ (me - e).toNat : Nat)
  if neg then -v else v

/-- x + y (R109, R171). -/
def Ex.add (rm : Nat) (x y : Ex) : Ex × Flags :=
  let inv := if x.isSig || y.isSig then 1 else 0
  match x, y with
  | .nan _, _ | _, .nan _ => (.nan false, inv)
  | .inf a, .inf b => if a = b then (.inf a, 0) else (.nan false, 1)
  | .inf a, _ => (.inf a, 0)
  | _, .inf b => (.inf b, 0)
  | .num a m e, .num b n k =>
    if m = 0 ∧ n = 0 then (.zero (if a = b then a else rm = 3), 0)
    else
      let q := min e k
      let v := scaledTo a m e q + scaledTo b n k q
      if v = 0 then (.zero (rm = 3), 0) else (.ofScaled v q, 0)

/-- x × y. -/
def Ex.mul (x y : Ex) : Ex × Flags :=
  let inv := if x.isSig || y.isSig then 1 else 0
  match x, y with
  | .nan _, _ | _, .nan _ => (.nan false, inv)
  | .inf a, .inf b => (.inf (a != b), 0)
  | .inf a, .num b n _ => if n = 0 then (.nan false, 1) else (.inf (a != b), 0)
  | .num a m _, .inf b => if m = 0 then (.nan false, 1) else (.inf (a != b), 0)
  | .num a m e, .num b n k => (.num (a != b) (m * n) (e + k), 0)

/-- -x. -/
def Ex.negate (x : Ex) : Ex :=
  match x with
  | .nan s => .nan s
  | .inf a => .inf (!a)
  | .num a m e => .num (!a) m e

/-- x × y + z with one rounding left to do; ∞ × 0 is invalid whatever z is (R171). -/
def Ex.fma (rm : Nat) (x y z : Ex) : Ex × Flags :=
  let p := x.mul y
  let r := p.1.add rm z
  (r.1, Flags.join p.2 (Flags.join r.2 (if z.isSig then 1 else 0)))

/-- n / d to 256 bits, rounded to odd. -/
def oddDiv (n d : Nat) : Nat × Int :=
  let sh := 256 + Nat.log2 d
  let q := n * 2 ^ sh / d
  let r := n * 2 ^ sh % d
  (2 * q + (if r = 0 then 0 else 1), -(sh : Int) - 1)

/-- x / y (R171). -/
def Ex.div (x y : Ex) : Ex × Flags :=
  let inv := if x.isSig || y.isSig then 1 else 0
  match x, y with
  | .nan _, _ | _, .nan _ => (.nan false, inv)
  | .inf _, .inf _ => (.nan false, 1)
  | .inf a, .num b _ _ => (.inf (a != b), 0)
  | .num a _ _, .inf b => (.zero (a != b), 0)
  | .num a m e, .num b n k =>
    if n = 0 then (if m = 0 then (.nan false, 1) else (.inf (a != b), 2))
    else if m = 0 then (.zero (a != b), 0)
    else
      let q := oddDiv m n
      (.num (a != b) q.1 (q.2 + e - k), 0)

/-- ⌊√n⌋ by bits: fuel many, from bit k down. -/
def isqrtGo : Nat → Nat → Nat → Nat
  | 0, _, r => r
  | k + 1, n, r => if (r + 2 ^ k) * (r + 2 ^ k) ≤ n then isqrtGo k n (r + 2 ^ k) else isqrtGo k n r

def isqrt (n : Nat) : Nat := isqrtGo (Nat.log2 n / 2 + 1) n 0

/-- √x (R171). -/
def Ex.sqrt (x : Ex) : Ex × Flags :=
  match x with
  | .nan s => (.nan false, if s then 1 else 0)
  | .inf neg => if neg then (.nan false, 1) else (.inf false, 0)
  | .num neg m e =>
    if m = 0 then (.num neg 0 0, 0)
    else if neg then (.nan false, 1)
    else
      let odd := e % 2 = 1
      let m' := (if odd then 2 * m else m) * 2 ^ 512
      let e' := ((if odd then e - 1 else e) - 512) / 2
      let r := isqrt m'
      (.num false (2 * r + (if r * r = m' then 0 else 1)) (e' - 1), 0)

/-- 1 / √x (R171). -/
def Ex.rsqrt (x : Ex) : Ex × Flags :=
  match x with
  | .nan s => (.nan false, if s then 1 else 0)
  | .inf neg => if neg then (.nan false, 1) else (.zero false, 0)
  | .num neg m e =>
    if m = 0 then (.inf neg, 2)
    else if neg then (.nan false, 1)
    else
      let odd := e % 2 = 1
      let m' := if odd then 2 * m else m
      let e' := (if odd then e - 1 else e) / 2
      -- ⌊2^k / √m'⌋
      let k := 300 + Nat.log2 m'
      let r := isqrt (2 ^ (2 * k) / m')
      (.num false (2 * r + (if r * r * m' = 2 ^ (2 * k) then 0 else 1)) (-(k : Int) - 1 - e'), 0)

/-- Fixed-point places used for 2^x and log2 x [9, DEDUCED]. -/
def fixP : Nat := 512

/-- ln 2 = Σ 1 / (n 2^n), in units of 2^-512. -/
def ln2Fix : Nat := (List.range 540).foldl (fun s n => s + 2 ^ fixP / ((n + 1) * 2 ^ (n + 1))) 0

/-- e^x - 1 for 0 ≤ x < 1, in units of 2^-512: the terms x^n / n!. -/
def expTerms : Nat → Nat → Nat → Nat → Nat
  | 0, _, _, _ => 0
  | k + 1, x, n, term =>
    let next := term * x / 2 ^ fixP / n
    next + expTerms k x (n + 1) next

/-- 2^x (R171); a value that is not a power of two is irrational [9, DEDUCED]. -/
def Ex.exp2 (x : Ex) : Ex × Flags :=
  match x with
  | .nan s => (.nan false, if s then 1 else 0)
  | .inf neg => (if neg then .zero false else .inf false, 0)
  | .num neg m e =>
    if m = 0 then (.num false 1 0, 0)
    else
      -- beyond 2^12 the result is beyond every format, whichever way
      let big := 12 < e + Nat.log2 m
      if big then (.num false 3 (if neg then -8192 else 8192), 0)
      else
        let n := scaledTo neg m e (min e 0)
        let d : Int := (2 ^ (-(min e 0)).toNat : Nat)
        let i := n / d
        let f := (n % d).toNat
        if f = 0 then (.num false 1 i, 0)
        else
          let fx := f * 2 ^ fixP / d.toNat
          let y := fx * ln2Fix / 2 ^ fixP
          let s := 2 ^ fixP + expTerms 130 y 1 (2 ^ fixP)
          (.num false (2 * (s / 2 ^ 200) + 1) (i - ((fixP : Int) - 200) - 1), 0)

/-- z + z^3/3 + z^5/5 + … in units of 2^-512. -/
def atanhTerms : Nat → Nat → Nat → Nat → Nat
  | 0, _, _, _ => 0
  | k + 1, z2, n, p => p / n + atanhTerms k z2 (n + 2) (p * z2 / 2 ^ fixP)

/-- log2 x (R171); where it is not an integer it is irrational [9, DEDUCED]. -/
def Ex.log2 (x : Ex) : Ex × Flags :=
  match x with
  | .nan s => (.nan false, if s then 1 else 0)
  | .inf neg => if neg then (.nan false, 1) else (.inf false, 0)
  | .num neg m e =>
    if m = 0 then (.inf true, 2)
    else if neg then (.nan false, 1)
    else
      let l := Nat.log2 m
      let p := e + l
      if m = 2 ^ l then (if p = 0 then (.zero false, 0) else (.ofInt p, 0))
      else
        let z := (m - 2 ^ l) * 2 ^ fixP / (m + 2 ^ l)
        let ln := 2 * atanhTerms 170 (z * z / 2 ^ fixP) 1 z
        let frac := ln * 2 ^ fixP / ln2Fix
        let v : Int := (p * (2 ^ fixP : Nat) + frac) / (2 ^ 200 : Nat)
        (.num (v < 0) (2 * v.natAbs + 1) (-((fixP : Int) - 200) - 1), 0)

/-- to_aq(v, a) of R120. -/
def toAq (v : Ex) (a : Int) : Int × Flags :=
  let top : Int := 2 ^ 63 - 1
  match v with
  | .nan _ => (0, 1)
  | .inf neg => (if neg then -top else top, 32)
  | .num neg m e =>
    let r := roundNat (if neg then 2 else 1) false m (a - e)
    -- ⌊v 2^-a⌋: away from zero for a negative v
    let i : Int := if neg then -(r.1 : Int) else r.1
    if i < -top then (-top, 32) else if top < i then (top, 32) else (i, 0)

/-- aq_add of R120. -/
def aqAdd (x y : Int) : Int × Flags :=
  let top : Int := 2 ^ 63 - 1
  let s := x + y
  if s < -top then (-top, 32) else if top < s then (top, 32) else (s, 0)

end Sys2Proof
end

