-- ==== Sys2Proof/Config.lean ====
section
/-! DEFINITION. What the spec leaves to the implementation or leaves open: opaque constants, of which nothing can be proved
but that they are the same constant wherever they stand [3, DESIGN CHOICE]. -/

namespace Sys2Proof.Config

/-- The n-th free 64-bit value of a run; n is State.free [3, DESIGN CHOICE]. -/
opaque freeWord : Nat → Word

/-- The JV instructions that native code stands for between two points of its kernel, where its JV code does not say by itself: the code, the resume
JV PC of the last commit point, that of the next one (2^64 + n for the n-th prfrd between the two), and SIG at both, which tells the paths apart
(R226, R232, R333): one number for the same inputs, whatever the run and the encoding [3, DESIGN CHOICE] [70, DESIGN CHOICE]. -/
opaque jvSteps : List Word → Nat → Nat → Word → Word → Nat

/-- The JV PC of the instruction for which an operation of a native bundle stands: kernel handle, core kind, native PC, slot (R487). -/
opaque jvPcOf : Nat → CoreKind → Nat → Nat → Nat

/-- The JV register number of the tile at a tile code that no map entry names: kernel handle, core kind, code (R487). -/
opaque tileReg : Nat → CoreKind → Nat → Nat

/-- The n-th free choice of a run. -/
opaque freeBit : Nat → Bool

/-- The native PC that a translation made by Tiarlo gives a JV PC: kernel handle, core kind, JV PC (R430, R431). -/
opaque nativePc : Nat → CoreKind → Nat → Word

/-- SHA-256 (R330). -/
opaque sha256 : List Byte → BitVec 256

/-- The native code and the side-table section of the n-th translation that Tiarlo makes, under a key (R331, R333)
[3, DESIGN CHOICE]. -/
opaque tiarloCode : BitVec 256 → Nat → List Word
opaque tiarloSide : BitVec 256 → Nat → List Byte

/-- The number of the record whose commit point the n-th issued JV instruction of a translation made by Tiarlo ends an interval at, if it
ends one (R334) [3, DESIGN CHOICE]. -/
opaque tiarloEnds : Nat → Option Nat

/-- SHA-384 (R401). -/
opaque sha384 : List Byte → BitVec 384

/-- RSASSA-PSS verification under a modulus: modulus, message, signature (R401). -/
opaque rsaVerify : List Byte → List Byte → List Byte → Bool

/-- SLH-DSA verification under a public key: key, message, signature (R401). -/
opaque slhVerify : List Byte → List Byte → List Byte → Bool

/-- The fused digests of the two public keys and the fused minimum security version (R401). -/
opaque fusedRsa : BitVec 384
opaque fusedSlh : BitVec 384
opaque fusedSvn : Nat

/-- The state-table versions a firmware image accepts: offered, current (R403). -/
opaque acceptsStateTable : Nat → Nat → Bool

end Sys2Proof.Config
end

