-- ==== Sys2Proof/Machine/State.lean ====
section
/-! DEFINITION. The state of the machine as plain data: every piece of state that the spec names (INVENTORY.md lists each
with its rule), the stops of a step, and the state after reset. -/

namespace Sys2Proof.Machine

/-- Why a step stops with a fault. The spec gives no such stop: it names a use of exec that no step makes [6, DESIGN CHOICE]. -/
inductive Fault where
  /-- Raised by every encoded instruction executed while no context is selected. Safe: no next state is claimed. -/
  | noContext
deriving DecidableEq, Repr

/-- Why a step is refused. -/
inductive Refusal where
  /-- The instruction has no meaning in this model yet. Safe: no next state is claimed. -/
  | notModelled (mnemonic : String)
deriving DecidableEq, Repr

/-- Values by number, numbers rising, no entry equal to the default: the canonical form of a sparse register file. -/
abbrev Tab (α : Type) := List (Nat × α)

/-- Bytes by address, addresses rising, no byte 0 listed: an unlisted byte reads 0 [2, DESIGN CHOICE]. -/
abbrev Memory := List Host.Cell

/-! ## Causes -/

/-- A fault raised by an instruction: cause (R421), info (R449) and addr (R430). -/
structure Raise where
  cause : Nat
  info : Nat
  addr : Nat
deriving DecidableEq, Repr

/-- A commit point's record (R315) as the machine uses it. -/
structure Record where
  jvpc : Nat
  eq : Bool
  keyed : Bool
  npc : Nat
  xpc : Nat
  safe : Nat
  nmap : Nat
  rrb : Nat
  first : Nat
deriving DecidableEq, Repr

/-- What the delivery of a fault needs beyond the cause: the faulting split, whether the resume point follows the
instruction, the native PC of the bundle and its slot, and the gated entries discarded (R430). -/
structure FaultAt where
  rid : Nat
  gang : Nat
  split : Nat
  after : Bool := false
  npc : Word := BitVec.allOnes 64
  slot : Nat := 0
  gcnt : Nat := 0
  /-- The record of the commit point of the bundle itself, where it is a commit bundle (R318, R487). -/
  record : Option Record := none
deriving DecidableEq, Repr

/-! ## Counters -/

/-- The interval counters of a side-table record (R334). -/
structure Counters where
  exec : Nat
  adt : Nat
  hstall : Nat
  puse : Nat
  plate : Nat
  pnone : Nat
deriving DecidableEq, Repr

/-- Counters at 0, their value at reset (R334). -/
def Counters.zero : Counters := { exec := 0, adt := 0, hstall := 0, puse := 0, plate := 0, pnone := 0 }

/-! ## Tiles -/

/-- An accumulator tile (R233, R234) with its assay sums (R254). -/
structure Tile where
  /-- n and cls of element 64 i + j; empty stands for all zero. -/
  elems : List (BitVec 64 × Nat)
  anchor : Int
  tol : BitVec 32
  grp : Nat
  rows : Nat
  mis : Nat
  rowSums : List Nat
  colSums : List Nat
  poison : Bool
deriving DecidableEq, Repr

/-! ## Splits and gangs -/

/-- Why a context is not ready (R53, R60). -/
inductive Wait where
  | ready
  /-- Parked at the join of an RCS entry (R44). -/
  | join
  /-- Parked by bar at barrier n until the phase it arrived in has completed (R57). -/
  | bar (n phase : Nat)
  /-- Parked by barwt at barrier n until its phase is last (R57); the instruction then completes. -/
  | barwt (n last : Nat)
  /-- Parked by hwait on a token mask (R217); the instruction then completes. -/
  | haul (mask : Nat)
  /-- Parked by waita (R189): spc, address, TY, comparison and value as read at issue (R13). -/
  | word (spc addr ty cmp : Nat) (v : Word)
  /-- Asleep until this time (R188). -/
  | asleep (time : Nat)
  /-- Parked at mig with this k (R228); status register and its locations on the native machine. -/
  | mig (k : Nat) (d : Operand) (locs : List Nat)
  /-- Held while codeload translates (R204): status register, its locations on the native machine, address and words. -/
  | codeload (d : Operand) (locs : List Nat) (addr : Nat) (code : List Word)
  /-- Held while the agents check chunks (R220): status register, its locations, address, number, identity. -/
  | ckver (d : Operand) (locs : List Nat) (addr n : Nat) (id : Word)
  /-- Held by a full haul reservation (R89); the instruction is executed again. -/
  | full
  /-- Held by a gated store buffer that has not the entries free that the bundle needs, since other contexts fill it (R304); the bundle
  is issued again. -/
  | buffer (need : Nat)
  /-- Parked on a page resident in HBM by an access of this split to an address (R463); the instruction is executed again. -/
  | page (asid vbase split addr : Nat)
  /-- Held by an access to a package in recovery (R483); the instruction is executed again. -/
  | remote (pkg addr : Nat)
  /-- Parked at an equivalence point under a dispatcher's request (R339). -/
  | moveReq
  /-- Held by a long-latency interlock, a load that misses L1 or an access to another package, until this time (R53). -/
  | interlock (time : Nat)
deriving DecidableEq, Repr

/-- An exposed result in flight, or a tailing (R290, R312): loc is a location code of R317; it lands when remain bundles
more have issued. -/
structure Flight where
  loc : Nat
  lanes : Mask
  value : Lanes
  remain : Nat
  seq : Nat
deriving DecidableEq, Repr

/-- An interlocked result that has not arrived (R293, R294): it comes when remain more clocks of the core have passed and,
for one that missed L1 or comes from another package, no earlier than due. -/
structure PendLoad where
  loc : Nat
  lanes : Mask
  value : Lanes
  remain : Nat
  due : Nat
deriving DecidableEq, Repr

/-- An entry of the gated store buffer (R304, R438): line of 128 bytes, its bytes as (byte, value, position of the store in
program order). -/
structure Gated where
  spc : Nat
  pol : Nat
  line : Nat
  bytes : List (Nat × Byte × Nat)
  pos : Nat
  /-- Lane and address of the first store that opened the entry, for the check at the commit point (R424, R449). -/
  lane : Nat
  addr : Nat
deriving DecidableEq, Repr

/-- An alias-detection entry (R308). -/
structure AdtEntry where
  spc : Nat
  line : Nat
  bytes : List Nat
  count : Nat
deriving DecidableEq, Repr

/-- A native register file (R281, R282): vector registers of X, Y and the L-core, scalars, predicates. -/
structure NatRegs where
  vx : Tab Lanes
  vy : Tab Lanes
  vl : Tab Lanes
  sr : Tab Word
  pr : Tab Mask
deriving DecidableEq, Repr

/-- A bundle that has issued and is not complete, because one of its operations waits (R57, R60, R265) or its commit point is under way
(R305): its address, whether its own slots are over, the next slot to perform, whether only its S operation is left, its record, and
the registers that its operations read at issue (R13, R277). -/
structure Stage where
  bundle : Nat
  begun : Bool
  next : Nat
  only : Bool
  /-- When the loads from afar that the commit point waited for have come (R53). -/
  til : Nat
  record : Option Record
  regs : NatRegs
  lr : BitVec 32
  rrb : Nat
deriving DecidableEq, Repr

/-- A snapshot of a context (R305). again: the context stands before the S operation of a mig bundle, and only that is
executed again (R302, R443). -/
structure Snapshot where
  pc : Nat
  mask : Mask
  fmt : Word
  sig : Word
  ret : List (Nat × Nat × Nat)
  lr : BitVec 32
  rrb : Nat
  flight : List Flight
  regs : NatRegs
  record : Option Record
  again : Option Stage
deriving DecidableEq, Repr

/-- A context: one split of a gang (R37, R53, R281). -/
structure Split where
  used : Bool
  /-- JV PC, a 56-bit virtual address, or the native PC, a byte address within the translation (R277). -/
  pc : Nat
  /-- The codeload region the JV PC runs in, by its serial number; 0 is the kernel (R205). -/
  region : Nat
  mask : Mask
  fmt : Word
  sig : Word
  /-- Return stack, newest first: address, its region, and the regions open at the call (R184, R453). -/
  ret : List (Nat × Nat × Nat)
  wait : Wait
  /-- Ready stamp (R55). -/
  stamp : Nat
  /-- Bundles issued since selection (R54) and since the last commit point (R303). -/
  sinceSel : Nat
  sinceCommit : Nat
  lr : BitVec 32
  rrb : Nat
  flight : List Flight
  loads : List PendLoad
  gated : List Gated
  adt : List AdtEntry
  /-- Flags held for the interval (R305). -/
  held : BitVec 6
  /-- Scalar registers the interval wrote. -/
  wrote : List Nat
  snap : Option Snapshot
  /-- Results in flight that wait for the context's first bundle, from which their counts run (R313, R439). -/
  tailings : List Flight
  /-- A commit point that is not complete (R305). -/
  stage : Option Stage
  /-- The wait of the instruction at the PC is over: the address and the value it read at issue (R13, R60). -/
  latched : Option (Nat × Word)
  /-- Tiles as the interval's reading operations found them when first issued, with their numbers, in order, and how many of them the
  interval has read since its start (R236). -/
  tileLog : List (Nat × Tile)
  tilePos : Nat
  /-- Cause found in the bundle that is issuing, with its slot (R448). -/
  raised : Option (Raise × Nat)
  /-- A fault held with the saved state, with the PC and the slot of the bundle it is raised against (R428, R430). -/
  heldFault : Option (Raise × Word × Nat)
  /-- Start of the wait (R482). -/
  waitStart : Nat
  /-- The haul issue that waits for a queue entry has been counted (R89). -/
  stalled : Bool
  /-- What the interval has met and the lode has not yet counted (R334). -/
  tally : Counters
  /-- A long-latency interlock held the context at the end of the last step, so that it takes a new ready stamp when that ends (R55). -/
  away : Bool
  /-- JV instructions that prfrd has counted in the interval, and how many prfrd have counted them (R232). -/
  steps : Nat
  counts : Nat
  /-- The SIG register holds an error that no check has found yet (R488). -/
  sigOff : Bool
  /-- The sources of a bundle whose issue is held, as they stood when it was first to issue (R13). -/
  reissue : Option Stage
  /-- The package whose reset an access of the context was held for, until it is made again and raises 832 (R484, R485). -/
  refused : Option Nat
deriving DecidableEq, Repr

/-- A reconvergence stack entry (R42). -/
structure RcsEntry where
  rpc : Nat
  resume : Nat
  held : Mask
  owner : Nat
  child : Nat
  cv : Bool
  phase : Bool
  oarr : Bool
  carr : Bool
  fmt : Word
  /-- The codeload region of rpc and resume (R205). -/
  region : Nat
  /-- LR and RRB under which the held lanes stand: those of the divergence, and, once they are behind their join, those at it (R300, cause 519). -/
  lr : BitVec 32
  rrb : Nat
deriving DecidableEq, Repr

/-- A value of a JV register: one per lane, one for the gang, or a predicate mask (R37). -/
inductive JvVal where
  | lane (v : Lanes)
  | uni (v : Word)
  | pred (m : Mask)
deriving DecidableEq, Repr

/-- The gang's handler while it runs (R433, R435) [65, DESIGN CHOICE]. -/
structure Handler where
  split : Nat
  saved : List Split
  /-- RCS entries below the handler's own. -/
  rcsBase : Nat
  /-- Where the D-clock stood, in thousandths of a clock, at the start of the masked window (R30, R437). -/
  start : Nat
  frame : Nat
deriving DecidableEq, Repr

/-- The A-operand latch (R241). -/
structure ALatch where
  k : Nat
  afmt : Nat
  w16 : Bool
  bsc : Bool
  desc : Word
  /-- The A bytes, line by line, and the scale bytes. -/
  bytes : List Byte
  scales : List Byte
deriving DecidableEq, Repr

/-- A gang (R37). -/
structure Gang where
  slot : Nat
  exited : Bool
  gone : Mask
  splits : List Split
  jregs : Tab JvVal
  nregs : NatRegs
  flg : BitVec 6
  /-- Haul token counts (R90). -/
  tokens : List Nat
  rcs : List RcsEntry
  spill : Memory
  tspill : Memory
  /-- Handler address, its region, and frame area (R223); handler address 0 is none. -/
  tvec : Nat
  tframe : Nat
  handler : Option Handler
  /-- A fault whose frame page is being migrated (R427). -/
  entering : Option (Raise × FaultAt)
  latch : Option ALatch
  /-- Lanes arrived, the count their arrival names (0: none), and 1 + the phase of the last arrival, per barrier (R57). -/
  arrived : Tab Mask
  arrKind : Tab Nat
  lastPhase : Tab Nat
  /-- prfrd selectors 0 and 6 (R232). -/
  issued : Nat
  conflicts : Nat
  /-- Poisoned granules of the spill area, and of the register file or its saved image (R471): per register the lanes that lie in one, at a
  location code of R317 on the native machine, at 1024 and the register's number in JV code. -/
  spillPoison : List Nat
  regPoison : Tab Mask
  /-- The split that its sequencer had selected when the gang stopped: the save area holds its tailings (R438). -/
  selAt : Nat
deriving DecidableEq, Repr

/-! ## Teams -/

/-- A team barrier (R57). kind: none yet, default, or the named count. -/
structure Barrier where
  phase : Nat
  kind : Option (Option Nat)
  arrived : List Nat
deriving DecidableEq, Repr

/-- A map entry of a side table (R316). -/
structure MapEntry where
  jvreg : Nat
  loc : Nat
  kind : Nat
  hi : Bool
deriving DecidableEq, Repr

/-- A native translation carried by a code object (R314, R324, R327). -/
structure NatCode where
  code : List Word
  indexed : List Record
  keyed : List Record
  maps : List MapEntry
  spillSize : Nat
deriving DecidableEq, Repr

/-- What a register declaration declares (R146). -/
inductive DeclKind where
  | lane (w : Nat)
  | uni (w : Nat)
  | pred
  | acc
deriving DecidableEq, Repr

/-- Consecutive register numbers of one kind (R146, R147). -/
structure Decl where
  kind : DeclKind
  count : Nat
deriving DecidableEq, Repr

/-- A loaded kernel: its descriptor (R325), where its JV code lies, its declarations and pinned code [65, DESIGN CHOICE]. -/
structure Kernel where
  handle : Nat
  asid : Nat
  /-- Virtual address of the entry point. -/
  base : Nat
  code : List Word
  decls : List Decl
  gangs : Nat
  scr : Nat
  hauls : Nat
  kind : Nat
  acc : Nat
  args : Nat
  feat0 : Word
  feat1 : Word
  pinnedL : Option NatCode
  pinnedD : Option NatCode
deriving DecidableEq, Repr

/-- A codeload region (R204, R205) [65, DESIGN CHOICE]. -/
structure Region where
  serial : Nat
  /-- The key of its translation (R330). -/
  key : BitVec 256
  base : Nat
  code : List Word
deriving DecidableEq, Repr

/-- Where a team is (R63, R363, R423). -/
inductive TeamStatus where
  | resident
  /-- Suspended; whether it was stopped at equivalence points (R364). -/
  | suspended (equiv : Bool)
  /-- Suspended natively while a gang has traps masked: the other gangs have stopped, the masked one runs on (R366, R440). -/
  | suspending
  /-- Stopped by a breakpoint or by TSTOP (R391). -/
  | stopped
  /-- Asked to stop virtual-precisely (R364): for a breakpoint (n, gang, JV PC), or for TSTOP. -/
  | stopping (brks : List (Nat × Nat × Nat)) (host : Bool)
  /-- Waits only for its haul jobs after termination (R423): the cause, the address it concerns, and when it was found. -/
  | ending (cause masked gang jvpc addr since : Nat)
deriving DecidableEq, Repr

/-- A change of one tile element: an integer at 2^q added with its class, a value put in its place, or its integer taken from one anchor to
another. -/
inductive ElemChange where
  | add (g q : Int) (cls : Nat)
  | put (n : Int) (cls : Nat)
  | anchor (old new : Int)
deriving DecidableEq, Repr

/-- A change by a gang's matrix instruction of an element of a tile, which other gangs' unordered accesses may still precede (R235). -/
structure TileChange where
  gang : Nat
  tile : Nat
  elem : Nat
  change : ElemChange
deriving DecidableEq, Repr

/-- A checkpoint (R473): what a rollback restores. -/
structure Checkpoint where
  gangs : List Gang
  tiles : List Tile
  tileLate : List TileChange
  bars : List Barrier
  scratch : Memory
  scratchPoison : List Nat
deriving DecidableEq, Repr

/-- A write held for a moving team (R78): scratch offset, bytes, or one nibble (0 low, 1 high; 2 is whole bytes, 3 bytes that are ORed in), the
bytes that carry poison, and the job and the number of the chunk that its landing ends, if it ends one. -/
structure HeldWrite where
  off : Nat
  bytes : List Byte
  nib : Nat
  bad : List Nat
  part : Option (Nat × Nat)
deriving DecidableEq, Repr

/-- What a move keeps of its source until the target has issued its first bundle (R444). -/
structure MoveSource where
  core : CoreId
  gangs : List Gang
  trans : Nat
  chk : Option Checkpoint
deriving DecidableEq, Repr

/-- A team (R49 to R52, R75, R76, R233). -/
structure Team where
  rid : Nat
  gen : Nat
  asid : Nat
  task : Nat
  index : Nat
  count : Nat
  argAddr : Nat
  dbg : Bool
  kern : Kernel
  core : CoreId
  /-- The die it belongs to: that of its index, or the one that stole it (R356, R357). -/
  home : Nat
  /-- Die of its spill stacks (R74), and bytes of a gang's translation spill area (R319). -/
  spillDie : Nat
  transSpill : Nat
  status : TeamStatus
  /-- It runs pinned native code. -/
  native : Bool
  gangs : List Gang
  scratch : Memory
  scratchSize : Nat
  /-- Scratch bank on a D-core, 2 for both (R50), and where its allocation starts in the bank (R75). -/
  bank : Nat
  scratchAt : Nat
  scratchPoison : List Nat
  /-- Inbound scratch writes held while the team moves (R78). -/
  heldWrites : List HeldWrite
  moving : Bool
  /-- The move has begun and its JV state is not rebuilt yet (R340). -/
  rebuild : Bool
  source : Option MoveSource
  tiles : List Tile
  /-- Changes of tile elements that are still to come, oldest first (R235) [97, DESIGN CHOICE]. -/
  tileLate : List TileChange
  bars : List Barrier
  /-- Haul reservation and entries in use (R89). -/
  hauls : Nat
  haulsUsed : Nat
  haulStall : Nat
  /-- Resident ns and prefetch counters (R232). -/
  residentNs : Nat
  placedAt : Nat
  prefUseful : Nat
  prefLate : Nat
  prefUnused : Nat
  /-- Prefetch events since its last interval ended, and the intervals ended in this step: the record's number in the side table, and
  what it counts (R334). -/
  tally : Counters
  ended : List (Nat × Counters)
  /-- Resident-time budget in ns, what it has used of it, and overruns (R345, R479). -/
  budget : Nat
  budgetUsed : Nat
  overruns : Nat
  regions : List Region
  nextRegion : Nat
  /-- Where the D-clock stood, in thousandths of a clock, at a standing move request (R30, R339). -/
  moveReq : Option Nat
  /-- Checkpoint epoch (R473 to R475). -/
  chk : Option Checkpoint
  /-- The number of its epochs, from 0. -/
  epoch : Nat
  idempotent : Bool
  consumed : Nat
  /-- Lines logged in the epoch: 0 scratch, 1 + 2 g spill of gang g, 2 + 2 g its translation spill; tiles logged. -/
  logged : List (Nat × Nat)
  loggedTiles : List Nat
  /-- What the firmware reads of each gang in the team's save area while it is suspended natively; empty at other times (R438). -/
  saveArea : List (List Byte)
deriving DecidableEq, Repr

/-! ## Cores, memory and engines -/

/-- An L1 line (R82) [106, DEDUCED]. -/
structure L1Line where
  asid : Nat
  vline : Nat
  data : List Byte
  dirty : List Nat
  evictFirst : Bool
  prefetched : Bool
  /-- Team that prefetched the line, and when the prefetch brings it (R232). -/
  owner : Nat
  arrive : Nat
  /-- Poisoned granules of the line, 0 to 15 (R471). -/
  poison : List Nat
  /-- The line held an uncorrectable error while dirty: its dirty granules are poisoned at the home slice when it is written back (R471). -/
  sick : Bool
deriving DecidableEq, Repr

/-- A preload (R359): the team, and the idle bank that holds a copy of its saved scratch image. Every write to the image goes to the copy
too (R360), so that the two are the same bytes. Its native code is in the core. -/
structure Preload where
  task : Nat
  index : Nat
  rid : Option Nat
  bank : Option Nat
deriving DecidableEq, Repr

/-- A core: its L1, the times at which its miss registers in use come free (R19), the selected context of each sequencer and
the sequencers' clocks (R55), its preload [76, DESIGN CHOICE]. -/
structure CoreSt where
  id : CoreId
  l1 : List L1Line
  misses : List Nat
  /-- Per sequencer: selected (rid, gang, split), and the clock. -/
  sel : List (Option (Nat × Nat × Nat))
  clock : Nat
  preload : Option Preload
  /-- The errors that the matrix pipe makes in its next mma [76, DESIGN CHOICE]. -/
  pipe : List PipeErr
deriving DecidableEq, Repr

/-- Where a page's frames are (R80, R390). -/
inductive Place where
  | die (pkg die frame : Nat)
  | hbm (pkg stack frame : Nat)
  | host (bus : Nat)
deriving DecidableEq, Repr

/-- A mapped page (R80, R388). -/
structure Page where
  asid : Nat
  vbase : Nat
  size : Nat
  place : Place
  readOnly : Bool
  /-- Kept in die memory for an ingress area (R396). -/
  pinned : Bool
  /-- Time of the first access parked on it (R465). -/
  parked : Option Nat
deriving DecidableEq, Repr

/-- One side of a haul job (R206, R207). -/
inductive Side where
  | va (asid addr : Nat)
  /-- A team scratch handle, and bytes beyond its offset (R77). -/
  | handle (h : Word) (more : Nat)
deriving DecidableEq, Repr

/-- What a haul job does (R206 to R220). -/
inductive JobKind where
  | copy | copyCk | fill (v : Word) | mcast (targets : List Word)
  /-- Tensor transfer: map words, direction (true: writes the tensor side), origin or index list and row count. -/
  | tens (map : List Word) (store : Bool) (origin : List Int)
  | rows (map : List Word) (store : Bool) (index : List Nat)
  | red
  | pack (ty : Nat) (raw : Bool) (c : Nat) (id : Word)
  | unpack (ty : Nat) (raw : Bool) (c : Nat) (id : Word)
deriving DecidableEq, Repr

/-- A haul job that has not completed (R89 to R92, R206). -/
structure Job where
  id : Nat
  rid : Nat
  gen : Nat
  asid : Nat
  task : Nat
  team : Nat
  gang : Nat
  token : Nat
  jvpc : Nat
  die : Nat
  deadline : Bool
  kind : JobKind
  src : Side
  dst : Side
  /-- Bytes, chunks or elements. -/
  n : Nat
  fmt : Word
  notify : Option (Side × Word)
  scope : Nat
  /-- Chunks in all, chunks taken by agents, chunks finished. -/
  chunks : Nat
  taken : Nat
  done : Nat
  degraded : Bool
  /-- Its tensor map, index list or handle list could not be read (R467). -/
  lost : Bool
  /-- A job of another package, which writes here (R525): its records go to that package's log. -/
  foreign : Bool
  /-- Its tensor map was read from a poisoned granule, or such rows of its index list, or targets of its handle list, were (R468). -/
  taintAll : Bool
  taint : List Nat
deriving DecidableEq, Repr

/-- A hop still to pass (R376): its id, the package on which it lies, and this package's link that leads to it, if one does (R392, R394). -/
structure Hop where
  id : Nat
  pkg : Nat
  via : Option Nat
deriving DecidableEq, Repr

/-- A chunk or piece between its read and its write (R376, R377, R493). -/
structure Transit where
  id : Nat
  job : Nat
  chunk : Nat
  /-- The target's number, for a multicast. -/
  target : Nat
  /-- Header words of a stored chunk, and its seal: tid, idx, type, anchor, count. -/
  header : Option (List Word)
  ident : Option (Nat × Nat × Nat × Int × Nat)
  payload : List Byte
  s1 : Nat
  s2 : Nat
  /-- Hops still to pass (R376), and the trail of a plain piece. -/
  path : List Hop
  trail : List Nat
  /-- Payload bytes that came from poisoned granules (R468). -/
  poison : List Nat
  /-- Marked by the injector (R525): INJCTL.elem and INJXOR as they stood when it arrived (R524). -/
  marked : Option (Nat × Word)
  /-- Agent that read it, 0 to 63. -/
  agent : Nat
  /-- The receiving end of a link, by package and hop id, whose buffer it holds (R394). -/
  buffer : Option (Nat × Nat)
  /-- Bytes of the source read so far, until all are; bytes of the destination written so far, once some are (R209, R380). -/
  read : Option Nat
  landed : Option Nat
  /-- The record of the chunk has been written (R468). -/
  noted : Bool
deriving DecidableEq, Repr

/-- What a face unit is asked to do on one word (R87, R196 to R203). -/
inductive FaceOp where
  | atom (sub : Nat) (b : Word)
  | cas (b c : Word)
  | aqadd (t : Int)
  | read
deriving DecidableEq, Repr

/-- What a context of another package does to this package's memory (R268, R271). -/
inductive PeerAct where
  | store (bytes : List Byte)
  | unit (ty : Nat) (op : FaceOp)
deriving DecidableEq, Repr

/-- The injector of another package, as its host has set it, with its count of matches (R524, R525). -/
structure PeerInj where
  pkg : Nat
  ctl : Word
  key : Word
  xor : Word
  count : Nat
deriving DecidableEq, Repr

/-- A request waiting at a face unit (package * 256 + number): the context, the destination (its locations on the native
machine), the TY, an acquire at scope die or wider, and lane, virtual address and operation of each part, in lane order
(R193). -/
structure FaceReq where
  unit : Nat
  /-- The native PC of the instruction (R430), and for JV code its JV PC and SIG step (R226). -/
  npc : Word
  /-- The issue slot of a native operation (R430). -/
  slot : Nat
  pc : Nat
  sigx : Word
  rid : Nat
  gang : Nat
  split : Nat
  d : Operand
  locs : List Nat
  uniform : Bool
  ty : Nat
  acq : Bool
  parts : List (Nat × Nat × FaceOp)
  /-- The checkpoint epoch of its team in which it was issued (R474). -/
  epoch : Nat
deriving DecidableEq, Repr

/-! ## Hub -/

/-- Processing of a called buffer (R346): next packet and packets left. -/
structure CallFrame where
  addr : Nat
  left : Nat
deriving DecidableEq, Repr

/-- A packet that the look-ahead stage has passed (R349): its address, its words as read, none where they cannot be read (R513), whether
it lies in the ring, whether it is a call nested too deep, and the argument values of a launch as read, none where they cannot be
read (R478) [38, DEDUCED]. -/
structure Ahead where
  addr : Nat
  words : Option (List Word)
  ring : Bool
  deep : Bool
  /-- A call whose buffer cannot be read (R513). -/
  lost : Bool
  /-- The called buffers in which it stands, from which a takeover starts the look-ahead again (R503). -/
  frames : List CallFrame
  args : Option (List Byte)
deriving DecidableEq, Repr

/-- A command queue (R341 to R354). -/
structure Queue where
  num : Nat
  ring : Nat
  size : Nat
  asid : Nat
  cls : Nat
  weight : Nat
  rptr : Nat
  device : Bool
  vector : Nat
  wr : BitVec 32
  rd : BitVec 32
  /-- Packets passed by the look-ahead and not yet consumed, oldest first, and the called buffers it stands in (R349). -/
  ahead : List Ahead
  look : List CallFrame
  halted : Option Nat
  /-- The launch at the head has been issued toward admission. -/
  staged : Bool
  credit : Nat
  /-- A fault log entry of reason 24 was written at this time (R534). -/
  lastDrop : Option Nat
deriving DecidableEq, Repr

/-- An admitted task that has not completed (R67, R345, R350, R351). -/
structure Task where
  id : Nat
  queue : Nat
  asid : Nat
  cls : Nat
  prio : Nat
  deadline : Nat
  kern : Kernel
  count : Nat
  coop : Bool
  dbg : Bool
  irq : Bool
  cadr : Nat
  cval : Word
  argAddr : Nat
  budget : Nat
  /-- Team indices started so far, and how many have retired or been terminated. -/
  started : List Nat
  retired : Nat
  /-- It has been terminated: none of its other teams starts (R477). -/
  ended : Bool
  order : Nat
  /-- The translations that it holds: the key per kind (R329). -/
  held : List (CoreKind × BitVec 256)
deriving DecidableEq, Repr

/-- A loaded code object (R322 to R328, R388). -/
structure Object where
  handle : Nat
  asid : Nat
  kernels : List Kernel
  /-- Read-only ranges of the loaded image: constants and code. -/
  ranges : List (Nat × Nat)
deriving DecidableEq, Repr

/-- A lode entry (R329 to R335, R476, R477): native code, side-table section, and a counter record per indexed and keyed record, in
that order. Its digest is a function of the three. The two copies lie in slot slot of the lode's two halves. -/
structure LodeEntry where
  key : BitVec 256
  slot : Nat
  pinned : Bool
  gen : Nat
  code : List Word
  side : List Byte
  counters : List Counters
  defective : Bool
  lastLaunch : Nat
deriving DecidableEq, Repr

/-- A question to the peers for a translation (R332): what is asked for, since when, and whether the time for replies is over. -/
structure PeerAsk where
  want : LodeEntry
  since : Nat
  late : Bool
deriving DecidableEq, Repr

/-- A headframe complex (R24, R399, R403, R501 to R506). -/
structure Complex where
  /-- Runs verified firmware. -/
  up : Bool
  /-- Held in reset until the package is next reset. -/
  dead : Bool
  failed : Bool
  stver : Nat
  svn : Nat
  rebootAt : Option Nat
deriving DecidableEq, Repr

/-- The signed configuration record (R74, R335, R392, R482, R526). -/
structure ConfigRec where
  spillPool : Nat
  hotThreshold : Nat
  watchdogNs : Nat
  testMode : Bool
  packages : Nat
  package : Nat
  expected : List (Nat × Nat)
  routes : List Nat
deriving DecidableEq, Repr

/-- A signed image in flash (R401): how many bytes, and those that are not 0. -/
structure FlashImage where
  size : Nat
  bytes : Memory
deriving DecidableEq, Repr

/-- Flash: two copies of the firmware image and of the configuration record (R507). The spec does not lay out the record's payload: what it
says stands beside its image [12, PRESUMED]. -/
structure Flash where
  fwA : FlashImage
  fwB : FlashImage
  cfgA : FlashImage × ConfigRec
  cfgB : FlashImage × ConfigRec
deriving DecidableEq, Repr

/-- A peer link (R392, R394) [86, DESIGN CHOICE]. -/
structure Link where
  ready : Bool
  peerPkg : Nat
  peerLink : Nat
  chunkBuffers : Nat
  requestBuffers : Nat
deriving DecidableEq, Repr

/-- What the package knows of a peer (R483 to R485). -/
inductive PeerState where
  | normal
  /-- In recovery since this time. -/
  | recovering (since : Nat)
  /-- Stopped answering without a notice at this time. -/
  | silent (since : Nat)
  | reset
deriving DecidableEq, Repr

/-- An ingress area (R396). -/
structure Ingress where
  area : Nat
  ports : Nat
  asid : Nat
  base : Nat
  slotLog : Nat
  countLog : Nat
  interval : Nat
  etherType : Nat
  vlan : Nat
  matchType : Bool
  matchVlan : Bool
  queue : Nat
  offset : Nat
  template : Nat
  frames : Nat
deriving DecidableEq, Repr

/-- An event record (R391). -/
structure EvRec where
  w0 : Word
  w1 : Word
  w2 : Word
  w3 : Word
deriving DecidableEq, Repr

/-- A launch posted by the ingress or reposted with its own argument bytes (R398). -/
structure Posted where
  queue : Nat
  slot : Nat
  /-- The template's address space, and the values; none where they could not be read (R467, R478). -/
  asid : Nat
  args : Option (List Byte)
  dsec : Nat
  dnsec : Nat
deriving DecidableEq, Repr

/-- A write of the command processor that waits for its page to come into die memory, and since when (R534). -/
structure CpWrite where
  queue : Nat
  asid : Nat
  va : Nat
  bytes : List Byte
  since : Nat
  /-- The queue's vector is raised behind it (R351, R534); it is a signal packet's (R348, R352). -/
  irq : Bool
  signal : Bool
deriving DecidableEq, Repr

/-- A host access that waits for a page (R385), or behind one that does (R273): a read, a write, or a doorbell. -/
inductive HostOp where
  | read (offset n : Nat)
  | write (offset : Nat) (bytes : List Byte)
  | bell (offset : Nat) (value : BitVec 32)
deriving DecidableEq, Repr

/-- The headframe's bookkeeping, the host port, the links and the clock. -/
structure Hub where
  ready : Word
  /-- Active complex: false Dawn, true Dusk (R386). -/
  role : Bool
  dawn : Complex
  dusk : Complex
  flash : Flash
  config : ConfigRec
  /-- Boot has started from ROM (R399); boot status (R507). -/
  booted : Bool
  bootStatus : Nat
  resetAt : Nat
  /-- Times at which fw and cmd were set (R508). -/
  fwAt : Option Nat
  cmdAt : Option Nat
  /-- READY bits whose deadlines are done with: set before, or recorded (R508). -/
  deadlinesLogged : List Nat
  /-- PTP time in ns (R395); the clock has locked. -/
  locked : Bool
  slewPpm : Int
  /-- Time step not yet made by the slew, in millionths of a ns. -/
  slewRest : Int
  ptpLatch : Word
  cmdGo : Bool
  cmdSt : Nat
  cmdRes : Word
  cmd : List Word
  cmdSince : Nat
  evHead : Nat
  evTail : Nat
  /-- Records written and not yet read (R391). -/
  evUnread : Nat
  evVec : Nat
  evRing : List EvRec
  evHeld : List EvRec
  win : List Word
  doorbells : Tab (BitVec 32)
  heldBells : List (Nat × BitVec 32)
  injCtl : Word
  injKey : Word
  injXor : Word
  injCount : Nat
  /-- MSI-X vectors raised, oldest first (R384). -/
  msix : List Nat
  /-- Data answered to the last host read (R385). -/
  hostRead : List Byte
  /-- Host accesses that wait, oldest first, and since when the oldest has waited (R385, R465). -/
  hostOps : List HostOp
  hostSince : Nat
  /-- Writes of the command processor that wait, oldest first (R534). -/
  cpHeld : List CpWrite
  queues : List Queue
  tasks : List Task
  nextTask : Nat
  nextOrder : Nat
  objects : List Object
  nextObject : Nat
  lode : List LodeEntry
  asks : List PeerAsk
  faultLog : List (List Word)
  /-- Time of the last record per reason or cause that R471, R514 and R534 limit. -/
  lastLog : Tab Nat
  /-- D-clock in MHz (R28, R29); thousandths of D-clocks up to the last change, and when that was (R30). -/
  dclock : Nat
  dcount : Nat
  clockAt : Nat
  links : List Link
  peers : Tab PeerState
  ingress : List Ingress
  posted : List Posted
  updating : Bool
  /-- Free residency ids, given out in this order after the never used ones (R76). -/
  ridNext : Nat
  ridFree : List Nat
  ridGen : Tab Nat
  /-- Round-robin position per class (R354). -/
  rr : List Nat
  /-- Teams that overran their budget and rank last (R479). -/
  overran : List (Nat × Nat)
  /-- Cores that a pre-emption frees, until a team takes them (R362, R365). -/
  freed : List CoreId
deriving DecidableEq, Repr

/-- The context whose instruction executes. -/
structure Cur where
  rid : Nat
  gang : Nat
  split : Nat
deriving DecidableEq, Repr

/-- The state of the machine [3, DESIGN CHOICE] [8, DESIGN CHOICE] [21, DESIGN CHOICE]. -/
structure State where
  /-- Elapsed time in ns since power-on, and the PTP time (R395). -/
  now : Nat
  ptp : Nat
  teams : List Team
  cores : List CoreSt
  mem : Memory
  poison : List Nat
  pages : List Page
  jobs : List Job
  nextJob : Nat
  transits : List Transit
  nextTransit : Nat
  faceReqs : List FaceReq
  /-- The model's own: operations not performed because their package was reset, until the handler of 832 is left (R194, R484) [72, DEDUCED]. -/
  lostReqs : List FaceReq
  hub : Hub
  /-- The model's own: events still to happen, oldest first [4, DESIGN CHOICE]. -/
  agenda : List Instr
  /-- The model's own: rotates the choice among what is enabled [4, DESIGN CHOICE]. -/
  turn : Nat
  /-- The model's own: what the host will write into its own memory, which the package does not see (R390), oldest first: time, bus
  address, bytes. -/
  hostWrites : List (Nat × Nat × List Byte)
  /-- The model's own: what the other packages will send into this one (R270, R525): when, the job, and its chunks as they come over the links,
  oldest first [21, DESIGN CHOICE]. -/
  peerJobs : List (Nat × Job × List Transit)
  /-- The model's own: what contexts of the other packages will do to this package's memory (R268, R271, R530), oldest first: time, ASID, virtual
  address, act [21, DESIGN CHOICE]. -/
  peerActs : List (Nat × Nat × Nat × PeerAct)
  /-- The injectors of the other packages, which meet this package's chunks there (R525, R531) [21, DESIGN CHOICE]. -/
  peerInj : List PeerInj
  /-- The model's own: the context that executes. -/
  cur : Option Cur
  /-- The model's own: time one step takes [5, DESIGN CHOICE]. -/
  stepNs : Nat
  /-- The model's own: counter for free values [3, DESIGN CHOICE]. -/
  free : Nat
  /-- The model's own: declarations that come with an object, per kernel name order [8, DESIGN CHOICE]. -/
  hostDecls : List (List Decl)
deriving DecidableEq, Repr

/-! ## Reset -/

def Complex.inRom : Complex := { up := false, dead := false, failed := false, stver := 0, svn := 0, rebootAt := none }

/-- The defaults of R74, R335 and R482, one package [12, PRESUMED]. -/
def ConfigRec.initial : ConfigRec :=
  { spillPool := 96 * 2 ^ 20, hotThreshold := 2 ^ 32, watchdogNs := 10000000000, testMode := false, packages := 1
    package := 0, expected := [], routes := [] }

/-- An image with an empty payload, of security version 1: its header; keys and signatures are all 0 [12, PRESUMED]. -/
def FlashImage.initial (type stver : Nat) : FlashImage :=
  { size := 512 + 384 + 16224
    bytes := [(0, 0x48), (1, 0x4E), (2, 0x57), (3, 0x46), (4, BitVec.ofNat 8 type), (8, 1)] ++ (if stver = 0 then [] else [(12, BitVec.ofNat 8 stver)]) }

/-- Flash before the maker writes it [12, PRESUMED]. -/
def Flash.initial : Flash :=
  { fwA := FlashImage.initial 1 1, fwB := FlashImage.initial 1 1
    cfgA := (FlashImage.initial 2 0, ConfigRec.initial), cfgB := (FlashImage.initial 2 0, ConfigRec.initial) }

def EvRec.zero : EvRec := { w0 := 0, w1 := 0, w2 := 0, w3 := 0 }

def Link.down : Link := { ready := false, peerPkg := 0, peerLink := 0, chunkBuffers := 0, requestBuffers := 0 }

/-- The hub at package reset (R386, R387, R395, R399, R400) [1, DESIGN CHOICE] [12, PRESUMED]. -/
def Hub.initial : Hub :=
  { ready := 0, role := false, dawn := Complex.inRom, dusk := Complex.inRom, flash := Flash.initial
    config := ConfigRec.initial, booted := false, bootStatus := 0, resetAt := 0, fwAt := none, cmdAt := none, deadlinesLogged := []
    locked := false, slewPpm := 0, slewRest := 0, ptpLatch := 0
    cmdGo := false, cmdSt := 0, cmdRes := 0, cmd := List.replicate 8 0, cmdSince := 0
    evHead := 0, evTail := 0, evUnread := 0, evVec := 0, evRing := List.replicate 64 EvRec.zero, evHeld := []
    win := List.replicate 16 0, doorbells := [], heldBells := []
    injCtl := 0, injKey := 0, injXor := 0, injCount := 0, msix := [], hostRead := [], hostOps := [], hostSince := 0, cpHeld := []
    queues := [], tasks := [], nextTask := 1, nextOrder := 0, objects := [], nextObject := 1, lode := [], asks := []
    faultLog := [], lastLog := [], dclock := 1200, dcount := 0, clockAt := 0, links := List.replicate 18 Link.down, peers := [], ingress := []
    posted := [], updating := false, ridNext := 0, ridFree := [], ridGen := [], rr := [0, 0, 0, 0], overran := [], freed := [] }

/-- The machine right after package reset: no team, nothing mapped, both complexes in ROM (R399). -/
def State.reset : State :=
  { now := 0, ptp := 0, teams := [], cores := [], mem := [], poison := [], pages := [], jobs := [], nextJob := 0
    transits := [], nextTransit := 0, faceReqs := [], lostReqs := [], hub := Hub.initial
    agenda := [], turn := 0, hostWrites := [], peerJobs := [], peerActs := [], peerInj := [], cur := none, stepNs := 1, free := 0, hostDecls := [] }

end Sys2Proof.Machine
end

