-- ==== Sys2Proof/Machine/Ops.lean ====
section
/-! DEFINITION. The named operations: sparse tables and memory, pages and physical addresses, the L1, teams and their
updates, the fault log, events, taking an exception (R423 to R435) and returning from one. -/

namespace Sys2Proof.Machine

/-! ## Counters (R334) -/

/-- Counters saturate. -/
def satAdd (a b : Nat) : Nat := Nat.min (a + b) (2 ^ 64 - 1)

def Counters.plus (a b : Counters) : Counters :=
  { exec := satAdd a.exec b.exec, adt := satAdd a.adt b.adt, hstall := satAdd a.hstall b.hstall, puse := satAdd a.puse b.puse
    plate := satAdd a.plate b.plate, pnone := satAdd a.pnone b.pnone }

/-- The number of a record among the indexed and keyed ones of a translation. -/
def NatCode.numberOf (c : NatCode) (r : Record) : Option Nat := (c.indexed ++ c.keyed).findIdx? (fun x => { x with jvpc := r.jvpc } == r)

/-- An interval ends at record n with what its context and its team have met (R334). -/
def Team.endInterval (t : Team) (sp : Split) (n : Nat) : Team :=
  { t with ended := t.ended ++ [(n, { sp.tally.plus t.tally with exec := 1 })], tally := Counters.zero }

/-! ## Sparse tables and memory -/

/-- The value at a key, d where none is listed. -/
def Tab.get {α : Type} (d : α) (t : Tab α) (k : Nat) : α :=
  match t with
  | [] => d
  | (k', v) :: r => if k = k' then v else Tab.get d r k

/-- Store a value; the default is not listed. -/
def Tab.set {α : Type} [DecidableEq α] (d : α) (t : Tab α) (k : Nat) (v : α) : Tab α :=
  match t with
  | [] => if v = d then [] else [(k, v)]
  | (k', v') :: r =>
    if k < k' then (if v = d then (k', v') :: r else (k, v) :: (k', v') :: r)
    else if k = k' then (if v = d then r else (k, v) :: r)
    else (k', v') :: Tab.set d r k v

/-- Keys strictly rise from lo on and no value is the default. -/
def Tab.wfFrom {α : Type} [DecidableEq α] (d : α) (lo : Nat) (t : Tab α) : Bool :=
  match t with
  | [] => true
  | (k, v) :: r => decide (lo ≤ k) && decide (v ≠ d) && Tab.wfFrom d (k + 1) r

/-- The canonical form of a table. -/
def Tab.wf {α : Type} [DecidableEq α] (d : α) (t : Tab α) : Bool := Tab.wfFrom d 0 t

/-- What a byte that nothing has written reads as [2, DESIGN CHOICE]. -/
def unlisted : Byte := 0

/-- A choice or a reading of the model: [2, DESIGN CHOICE]. -/
def Memory.read (m : Memory) (a : Nat) : Byte := Tab.get unlisted m a
/-- A choice or a reading of the model: [2, DESIGN CHOICE]. -/
def Memory.write (m : Memory) (a : Nat) (b : Byte) : Memory := Tab.set unlisted m a b
/-- The canonical form of a memory. -/
def Memory.wf (m : Memory) : Bool := Tab.wf unlisted m

/-- n bytes from an address on. -/
def Memory.readN (m : Memory) (a n : Nat) : List Byte := (List.range n).map (fun i => m.read (a + i))

/-- Store bytes from an address on. -/
def Memory.writeN (m : Memory) (a : Nat) (bs : List Byte) : Memory :=
  match bs with
  | [] => m
  | b :: r => Memory.writeN (m.write a b) (a + 1) r

/-- A little-endian number of n bytes (R8). -/
def Memory.readLE (m : Memory) (a n : Nat) : Nat := ofBytesLE (m.readN a n)

/-! ## Lists of records -/

/-- Replace the first element that satisfies p. -/
def updFirst {α : Type} (p : α → Bool) (f : α → α) (l : List α) : List α :=
  match l with
  | [] => []
  | x :: r => if p x then f x :: r else x :: updFirst p f r

def State.team? (s : State) (rid : Nat) : Option Team := s.teams.find? (fun t => t.rid == rid)
def State.updTeam (s : State) (rid : Nat) (f : Team → Team) : State :=
  { s with teams := updFirst (fun t => t.rid == rid) f s.teams }
def Team.updGang (t : Team) (g : Nat) (f : Gang → Gang) : Team :=
  { t with gangs := match t.gangs[g]? with | some x => t.gangs.set g (f x) | none => t.gangs }
def Gang.updSplit (g : Gang) (k : Nat) (f : Split → Split) : Gang :=
  { g with splits := match g.splits[k]? with | some x => g.splits.set k (f x) | none => g.splits }
/-- Change one context. -/
def State.updSplit (s : State) (rid gang k : Nat) (f : Split → Split) : State :=
  s.updTeam rid (fun t => t.updGang gang (fun g => g.updSplit k f))
def State.split? (s : State) (rid gang k : Nat) : Option Split := do
  let t ← s.team? rid
  let g ← t.gangs[gang]?
  g.splits[k]?

/-- A core that has held nothing yet. -/
def CoreSt.fresh (id : CoreId) : CoreSt :=
  { id := id, l1 := [], misses := [], sel := [none, none, none], clock := 0, preload := none, pipe := [] }
def State.coreOf (s : State) (id : CoreId) : CoreSt := (s.cores.find? (fun c => c.id == id)).getD (CoreSt.fresh id)
def State.setCore (s : State) (c : CoreSt) : State :=
  if s.cores.any (fun x => x.id == c.id) then { s with cores := updFirst (fun x => x.id == c.id) (fun _ => c) s.cores }
  else { s with cores := s.cores ++ [c] }

/-- The compute die of a core: 32 D-cores and 8 L-cores a die (R18, R26). -/
def CoreId.die (c : CoreId) : Nat :=
  match c.kind with
  | .dcore => c.num / 32 % 4
  | .lcore => c.num / 8 % 4

/-- A split number not in use. -/
def Split.unused : Split :=
  { used := false, pc := 0, region := 0, mask := 0, fmt := 0, sig := 0, ret := [], wait := .ready, stamp := 0
    sinceSel := 0, sinceCommit := 0, lr := 0, rrb := 0, flight := [], loads := [], gated := [], adt := [], held := 0
    wrote := [], snap := none, tailings := [], stage := none, latched := none, tileLog := [], tilePos := 0, raised := none, heldFault := none, waitStart := 0, stalled := false, tally := Counters.zero, away := false, steps := 0, counts := 0, sigOff := false, reissue := none, refused := none }

/-! ## Pages and physical addresses -/

/-- The physical byte address of a place, unique over die memory, HBM and host memory of the domain. -/
def Place.flat (p : Place) : Nat :=
  match p with
  | .die pkg d frame => (pkg * 4 + d) * 2 ^ 30 + frame
  | .hbm pkg stack frame => 2 ^ 44 + (pkg * 12 + stack) * 2 ^ 36 + frame
  | .host bus => 2 ^ 60 + bus

def Place.pkg (p : Place) : Nat :=
  match p with
  | .die pkg _ _ => pkg
  | .hbm pkg _ _ => pkg
  | .host _ => 0

def State.page? (s : State) (asid va : Nat) : Option Page :=
  s.pages.find? (fun p => p.asid == asid && decide (p.vbase ≤ va) && decide (va < p.vbase + p.size))

def Page.flat (p : Page) (va : Nat) : Nat := p.place.flat + (va - p.vbase)

/-- The slice and die that are home to a physical die-memory address (R84): face unit number, or none outside die
memory of package pkg. -/
def homeUnit (pkg flat : Nat) : Option Nat :=
  let q := flat / 2 ^ 30
  if q / 4 = pkg then
    let pa := flat % 2 ^ 30
    let g := pa / 2 ^ 12
    let slice := Nat.xor (g % 64) (Nat.xor (g / 64 % 64) (g / 4096 % 64))
    some (64 * (q % 4) + slice)
  else none

/-- The number of the face unit at a physical die-memory address on whatever package holds it. -/
def faceUnitOf (flat : Nat) : Nat := (homeUnit (flat / 2 ^ 32) flat).getD 0

/-- A link of the routing mask toward a package is ready (R392, R393). -/
def Hub.reaches (h : Hub) (pkg : Nat) : Bool :=
  let mask := h.config.routes.getD pkg 0
  (List.range 18).any (fun l => mask.testBit l && (h.links.getD l Link.down).ready)

/-- The address lies in a read-only range: constants or code of an object (R455). -/
def State.roRange (s : State) (asid va : Nat) : Bool :=
  s.hub.objects.any (fun o => o.asid == asid && o.ranges.any (fun r => decide (r.1 ≤ va) && decide (va < r.1 + r.2)))

/-- What a plain access to a byte meets (R455, R463, R467, R483, R485). -/
inductive Acc where
  | ok (flat : Nat)
  | raise (cause : Nat)
  | park (w : Wait)
deriving DecidableEq, Repr

/-- The way to a package: this one, or one with a ready link that is not in recovery (R455, R483 to R485) [52, DEDUCED]. -/
def State.route (s : State) (pkg va : Nat) : Option Acc :=
  let held : Bool := (s.cur.bind (fun c => (s.split? c.rid c.gang c.split).bind (fun sp => sp.refused))) == some pkg
  if pkg = s.hub.config.package then none
  else if s.hub.config.packages ≤ pkg then some (.raise 834)
  else
    match Tab.get PeerState.normal s.hub.peers pkg with
    | .recovering _ => some (.park (.remote pkg va))
    | .reset => some (.raise (if held || s.hub.reaches pkg then 832 else 833))
    | _ => if s.hub.reaches pkg then none else some (.raise 833)

/-- Where the lode's part of a stack begins: its 8 GiB stand at the top of stacks 0 and 3, 4 GiB in each (R331) [22, DESIGN CHOICE]. -/
def lodeFloor : Nat := 44 * 2 ^ 30

/-- A page of ASID 0, or one whose frames are the lode's or those of a page of ASID 0, which is the firmware's (R79, R331, R455). -/
def State.firmwares (s : State) (p : Page) : Bool :=
  p.asid == 0
  || (match p.place with
      | .hbm _ stack f => (stack == 0 || stack == 3) && decide (lodeFloor < f + p.size)
      | _ => false)
  || s.pages.any (fun q => q.asid == 0 && decide (q.place.flat < p.place.flat + p.size) && decide (p.place.flat < q.place.flat + q.size))

/-- A plain access of a task to one byte of die memory. -/
def State.access (s : State) (asid va : Nat) (write : Bool) : Acc :=
  match s.page? asid va with
  | none => .raise 193
  | some p =>
    match p.place with
    | .host _ => .raise 193
    | .hbm pkg _ _ =>
      if s.firmwares p then .raise 195
      else
      (match s.route pkg va with
       | some (.raise c) => .raise c
       | _ => .park (.page asid p.vbase 0 va))
    | .die pkg _ _ =>
      if write && (p.readOnly || s.roRange asid va) then .raise 194
      else if s.firmwares p then .raise 195
      else (s.route pkg va).getD (.ok (p.flat va))

/-- Bytes at a physical address. -/
def State.getBytes (s : State) (flat n : Nat) : List Byte := s.mem.readN flat n

/-- Granules wholly covered by n bytes from a on. -/
def wholeGranules (a n : Nat) : List Nat :=
  let lo := (a + 7) / 8
  (List.range ((a + n) / 8 - lo)).map (fun i => lo + i)

/-- Granules touched by n bytes from a on. -/
def granules (a n : Nat) : List Nat :=
  if n = 0 then [] else (List.range ((a + n - 1) / 8 - a / 8 + 1)).map (fun i => a / 8 + i)

/-- Store bytes at a physical address; a write of a whole granule clears its poison (R471). -/
def State.putBytes (s : State) (flat : Nat) (bs : List Byte) : State :=
  { s with mem := s.mem.writeN flat bs
           poison := if s.poison.isEmpty then [] else
             s.poison.filter (fun g => !(wholeGranules flat bs.length).contains g) }

/-- Some granule of the bytes is poisoned. -/
def State.poisoned (s : State) (flat n : Nat) : Bool := (granules flat n).any (fun g => s.poison.contains g)

/-- Bytes at virtual addresses as an engine reads them, page by page; an unmapped byte reads 0. -/
def State.vaByte (s : State) (asid va : Nat) : Byte :=
  match s.page? asid va with
  | some p => s.mem.read (p.flat va)
  | none => 0
def State.vaBytes (s : State) (asid va n : Nat) : List Byte :=
  match s.page? asid va with
  | some p =>
    if va + n ≤ p.vbase + p.size then s.getBytes (p.flat va) n
    else (List.range n).map (fun i => s.vaByte asid (va + i))
  | none => (List.range n).map (fun i => s.vaByte asid (va + i))
/-- Store bytes at virtual addresses, at home slices or frames, page by page; bytes with no page are dropped. -/
def State.putVa (s : State) (asid va : Nat) (bs : List Byte) : State :=
  match s.page? asid va with
  | some p =>
    if va + bs.length ≤ p.vbase + p.size then s.putBytes (p.flat va) bs
    else
      ((List.range (bs.length / 65536 + 2)).map (fun i => Nat.max va ((va / 65536 + i) * 65536))).foldl (fun s a =>
        match s.page? asid a with
        | some q => s.putBytes (q.flat a) ((bs.drop (a - va)).take (65536 - a % 65536))
        | none => s) s
  | none => s
def State.vaLE (s : State) (asid va n : Nat) : Nat := ofBytesLE (s.vaBytes asid va n)

/-! ## Cores' L1 caches (R82, R83, R85, R261) -/

/-- The address lies in a host page (R390). -/
def State.inHost (s : State) (asid va : Nat) : Bool :=
  match s.page? asid va with
  | some p => (match p.place with | .host _ => true | _ => false)
  | none => false

/-- Store bytes that a party inside the package writes, which no host page takes (R390, R467) [75, DESIGN CHOICE]. -/
def State.putPkg (s : State) (asid va : Nat) (bs : List Byte) : State :=
  if s.inHost asid va || s.inHost asid (va + bs.length - 1) then s else s.putVa asid va bs

/-- Runs of dirty bytes of a line are written back to the home slice; bytes with no page, or with a host page in its place (R390), are lost [106, DEDUCED]. -/
def State.writeBackLine (s : State) (l : L1Line) : State :=
  match s.page? l.asid (l.vline * 128) with
  | none => s
  | some p =>
    if s.inHost l.asid (l.vline * 128) then s
    else
    let base := p.flat (l.vline * 128)
    let s1 := l.dirty.foldl (fun s b => { s with mem := s.mem.write (base + b) (l.data.getD b 0) }) s
    let gs := (List.range 16).filter (fun g => l.dirty.any (fun b => b / 8 == g))
    let bad := (gs.filter (fun g => l.sick || l.poison.contains g)).map (fun g => base / 8 + g)
    let whole := (gs.filter (fun g => !l.sick && !l.poison.contains g && (List.range 8).all (fun i => l.dirty.contains (8 * g + i)))).map
      (fun g => base / 8 + g)
    { s1 with poison := bad.foldl (fun ps g => if ps.contains g then ps else g :: ps)
                (if s1.poison.isEmpty then [] else s1.poison.filter (fun g => !whole.contains g)) }

def L1Line.is (l : L1Line) (asid vline : Nat) : Bool := l.asid == asid && l.vline == vline

/-- A prefetched line that leaves unused counts for its team (R232). -/
def State.countUnused (s : State) (l : L1Line) : State :=
  if l.prefetched then s.updTeam l.owner (fun t => { t with prefUnused := t.prefUnused + 1, tally := t.tally.plus { Counters.zero with pnone := 1 } }) else s

/-- Write back one line of a core and drop it. -/
def State.dropLine (s : State) (c : CoreId) (asid vline : Nat) : State :=
  let core := s.coreOf c
  match core.l1.find? (fun l => l.is asid vline) with
  | none => s
  | some l =>
    ((s.writeBackLine l).countUnused l).setCore { core with l1 := core.l1.filter (fun x => !x.is asid vline) }

/-- Lines of an ASID that meet n bytes from an address on are written back and dropped. -/
def State.dropRange (s : State) (c : CoreId) (asid va n : Nat) : State :=
  ((s.coreOf c).l1.filter (fun l => l.asid == asid && decide (va < l.vline * 128 + 128) && decide (l.vline * 128 < va + n))).foldl
    (fun s l => s.dropLine c asid l.vline) s

/-- A release at scope die or wider: write back the lines of an ASID, and keep them clean. -/
def State.writeBackAsid (s : State) (c : CoreId) (asid : Nat) : State :=
  let core := s.coreOf c
  let s1 := (core.l1.filter (fun l => l.asid == asid)).foldl State.writeBackLine s
  if core.l1.isEmpty then s
  else s1.setCore { core with l1 := core.l1.map (fun l => if l.asid == asid then { l with dirty := [], sick := false } else l) }

/-- An acquire at scope die or wider: write back and drop the lines of an ASID. -/
def State.invalidateAsid (s : State) (c : CoreId) (asid : Nat) : State :=
  let core := s.coreOf c
  if core.l1.isEmpty then s
  else
    let s1 := (core.l1.filter (fun l => l.asid == asid)).foldl (fun s l => (s.writeBackLine l).countUnused l) s
    s1.setCore { core with l1 := core.l1.filter (fun l => l.asid != asid) }

/-- Lines of an L1: 256 KiB on a D-core, 128 KiB on an L-core (R19). -/
def l1Lines (k : CoreKind) : Nat := match k with | .dcore => 2048 | .lcore => 1024
/-- Miss registers of a core (R19). -/
def missRegisters (k : CoreKind) : Nat := match k with | .dcore => 256 | .lcore => 128

/-- A full L1 evicts a line before a fill: one marked evict-first, else the one that was filled first [67, DESIGN CHOICE]. -/
def State.makeRoom (s : State) (c : CoreId) : State :=
  let core := s.coreOf c
  if core.l1.length < l1Lines c.kind then s
  else match (core.l1.find? (fun l => l.evictFirst)).orElse (fun _ => core.l1.head?) with
    | some l => s.dropLine c l.asid l.vline
    | none => s

/-- The line of a virtual address in a core's L1, filled from the home slice on a miss; a copy under another tag is
re-tagged (R83) [37, DESIGN CHOICE]. -/
def State.fillLine (s : State) (c : CoreId) (asid va : Nat) : State :=
  let vline := va / 128
  let core := s.coreOf c
  if core.l1.any (fun l => l.is asid vline) then s
  else
    match s.page? asid (vline * 128) with
    | none => s
    | some p =>
      let phys := p.flat (vline * 128)
      let same (l : L1Line) : Bool :=
        match s.page? l.asid (l.vline * 128) with
        | some q => q.flat (l.vline * 128) == phys
        | none => false
      if core.l1.any same then
        s.setCore { core with l1 := updFirst same (fun l => { l with asid := asid, vline := vline }) core.l1 }
      else
        let s1 := s.makeRoom c
        let core1 := s1.coreOf c
        s1.setCore { core1 with l1 := core1.l1 ++
          [{ asid := asid, vline := vline, data := s.getBytes phys 128, dirty := [], evictFirst := false
             prefetched := false, owner := 0, arrive := 0
             poison := (List.range 16).filter (fun g => s.poison.contains (phys / 8 + g)), sick := false }] }

/-- A line's first demand use clears its prefetched mark and counts as a useful prefetch, and as a late one while the prefetch
is in flight (R232) [67, DESIGN CHOICE]. -/
def State.useLine (s : State) (c : CoreId) (asid va : Nat) : State :=
  let core := s.coreOf c
  match core.l1.find? (fun l => l.is asid (va / 128)) with
  | some l =>
    if l.prefetched then
      (s.setCore { core with l1 := updFirst (fun x => x.is asid (va / 128)) (fun x => { x with prefetched := false }) core.l1 }).updTeam
        l.owner (fun t =>
          let late := if s.now < l.arrive then 1 else 0
          { t with prefUseful := t.prefUseful + 1, prefLate := t.prefLate + late
                   tally := t.tally.plus { Counters.zero with puse := 1, plate := late } })
    else s
  | none => s

/-- n bytes of one line as the core sees them at its L1. -/
def State.nearRead (s : State) (c : CoreId) (asid va n : Nat) : List Byte × State :=
  let s1 := (s.fillLine c asid va).useLine c asid va
  match (s1.coreOf c).l1.find? (fun l => l.is asid (va / 128)) with
  | some l => ((l.data.drop (va % 128)).take n, s1)
  | none => (s1.vaBytes asid va n, s1)

/-- A near store of bytes within one line. -/
def State.nearWrite (s : State) (c : CoreId) (asid va : Nat) (bs : List Byte) : State :=
  let s1 := (s.fillLine c asid va).useLine c asid va
  let core := s1.coreOf c
  let off := va % 128
  let put (l : L1Line) : L1Line :=
    { l with poison := l.poison.filter (fun g => !((List.range 8).all (fun i => decide (off ≤ 8 * g + i) && decide (8 * g + i < off + bs.length))))
             data := l.data.take off ++ bs ++ l.data.drop (off + bs.length)
             dirty := ((List.range bs.length).map (fun i => off + i)).foldl
               (fun d b => if d.contains b then d else b :: d) l.dirty }
  s1.setCore { core with l1 := updFirst (fun l => l.is asid (va / 128)) put core.l1 }

/-- A read performed at the home slice: the line is written back and dropped first. -/
def State.homeRead (s : State) (c : CoreId) (asid va n : Nat) : List Byte × State :=
  let s1 := s.dropLine c asid (va / 128)
  (s1.vaBytes asid va n, s1)

/-- A write performed at the home slice. -/
def State.homeWrite (s : State) (c : CoreId) (asid va : Nat) (bs : List Byte) : State :=
  (s.dropLine c asid (va / 128)).putVa asid va bs

/-! ## The fault log, events and interrupts -/

def wordAt (bytes : List Byte) (i : Nat) : Word := BitVec.ofNat 64 (ofBytesLE ((bytes.drop (8 * i)).take 8))
def bytesOfWords (ws : List Word) : List Byte := ws.flatMap (fun w => toBytesLE 8 w.toNat)
def mkWord (n : Nat) : Word := BitVec.ofNat 64 n

/-- A fault record (R462) given its words 0 to 3 and 4; the time is now. -/
structure LogEntry where
  cause : Nat
  source : Nat := 0
  task : Nat := 0
  team : Nat := 0
  gang : Nat := 0
  outcome : Nat := 0
  reason : Nat := 0
  unit : Nat := 0
  jvpc : Nat := 0
  addr : Nat := 0
  word4 : Nat := 0
  word6 : Nat := 0
  word7 : Nat := 0
deriving DecidableEq, Repr

def LogEntry.words (e : LogEntry) (time : Nat) : List Word :=
  [mkWord (e.cause + e.source * 2 ^ 16 + e.task * 2 ^ 32),
   mkWord (e.team + e.gang * 2 ^ 32 + e.outcome * 2 ^ 36 + e.reason * 2 ^ 40 + e.unit * 2 ^ 48),
   mkWord (e.jvpc % 2 ^ 56), mkWord e.addr, mkWord e.word4, mkWord time, mkWord e.word6, mkWord e.word7]

/-- Write one record; the oldest of 4,096 is overwritten. -/
def State.log (s : State) (e : LogEntry) : State :=
  let l := s.hub.faultLog ++ [e.words s.ptp]
  { s with hub := { s.hub with faultLog := if 4096 < l.length then l.drop 1 else l } }

/-- Write a record of a reason at most once per gap ns (R471, R514, R534). -/
def State.logLimited (s : State) (key gap : Nat) (e : LogEntry) : State :=
  let last := Tab.get 0 s.hub.lastLog key
  if last = 0 || last + gap ≤ s.ptp + 1 then
    let s1 := s.log e
    { s1 with hub := { s1.hub with lastLog := Tab.set 0 s1.hub.lastLog key (s.ptp + 1) } }
  else s

def State.raiseVector (s : State) (v : Nat) : State := { s with hub := { s.hub with msix := s.hub.msix ++ [v] } }

/-- Write held events while fewer than 64 records are unread (R391). -/
def State.flushEvents : Nat → State → State
  | 0, s => s
  | n + 1, s =>
    match s.hub.evHeld with
    | [] => s
    | e :: r =>
      if 64 ≤ s.hub.evUnread then s
      else
        let h := { s.hub with evRing := s.hub.evRing.set s.hub.evTail e, evTail := (s.hub.evTail + 1) % 64, evUnread := s.hub.evUnread + 1
                              evHeld := r }
        State.flushEvents n ({ s with hub := h }.raiseVector h.evVec)

/-- Write an event record (R391). -/
def State.event (s : State) (kind n gang task team : Nat) (jvpc value : Word) : State :=
  let e : EvRec := { w0 := mkWord (kind + n * 2 ^ 8 + gang * 2 ^ 16 + task * 2 ^ 32), w1 := mkWord team, w2 := jvpc, w3 := value }
  State.flushEvents 64 { s with hub := { s.hub with evHeld := s.hub.evHeld ++ [e] } }

def allOnes : Word := BitVec.allOnes 64

/-! ## Terminating a team (R423) -/

/-- Stop every context of a team, discarding what is not committed [35, DEDUCED]. -/
def Split.discard (sp : Split) : Split :=
  { sp with gated := [], flight := [], tailings := [], held := 0, loads := [], adt := [], stage := none, latched := none, wait := .ready }

/-- One team ends: it issues nothing more, and is freed when its jobs are complete. -/
def State.endTeam (s : State) (rid cause masked gang jvpc addr : Nat) : State :=
  s.updTeam rid (fun t =>
    match t.status with
    | .ending _ _ _ _ _ _ => t
    | _ => { t with status := .ending cause masked gang jvpc addr s.ptp, moving := false, rebuild := false, moveReq := none, source := none
                    gangs := t.gangs.map (fun g => { g with splits := g.splits.map Split.discard, handler := none, entering := none }) })

/-- Preloads of what a condition names are discarded (R480). -/
def State.dropPreloads (p : Preload → Bool) (s : State) : State :=
  if s.cores.any (fun (c : CoreSt) => c.preload.any p) then
    { s with cores := s.cores.map (fun (c : CoreSt) => if c.preload.any p then { c with preload := none } else c) }
  else s

/-- A team stops for good with a cause (R423); a cooperative task goes with it. -/
def State.stopTeam (s : State) (rid cause masked gang jvpc addr : Nat) : State :=
  match s.team? rid with
  | none => s
  | some t =>
    let s1 := s.endTeam rid cause masked gang jvpc addr
    let coop := s.hub.tasks.any (fun k => k.id == t.task && k.coop)
    let s2 := if coop then
        (s1.teams.filter (fun u => u.task == t.task && u.rid != rid)).foldl
          (fun s u => s.endTeam u.rid cause masked 0 (2 ^ 64 - 1) 0) s1
      else s1
    let lives (r : Nat) : Bool := (s2.team? r).any (fun u => match u.status with | .ending _ _ _ _ _ _ => false | _ => true)
    State.dropPreloads (fun p => p.rid.any (fun r => !lives r)) { s2 with faceReqs := s2.faceReqs.filter (fun r => lives r.rid), lostReqs := s2.lostReqs.filter (fun r => lives r.rid) }

/-- Causes whose termination writes the record: class 15, and 196 and 197 (R462). -/
def recordsEnd (cause : Nat) : Bool := decide (15 ≤ cause / 64) || cause == 196 || cause == 197

/-- Terminate a team with a cause; the record of a delivery T names the address. -/
def State.terminateAt (s : State) (rid cause masked gang jvpc addr : Nat) : State :=
  match s.team? rid with
  | none => s
  | some t =>
    let s1 := s.stopTeam rid cause masked gang jvpc addr
    if recordsEnd cause then
      s1.log { cause := cause, source := masked, task := t.task, team := t.index, gang := gang, jvpc := jvpc, addr := addr }
    else s1

/-- A choice or a reading of the model: [78, DEDUCED]. -/
def State.terminate (s : State) (rid cause masked gang jvpc : Nat) : State := s.terminateAt rid cause masked gang jvpc 0

/-! ## The reconvergence stack in the spill stack (R42, R48) -/

/-- The 32 bytes of an entry held in the spill stack (R42) [68, DESIGN CHOICE]. -/
def RcsEntry.bytes (e : RcsEntry) : List Byte :=
  let bit (b : Bool) : Nat := if b then 1 else 0
  toBytesLE 8 (e.rpc % 2 ^ 56) ++ toBytesLE 8 (e.resume % 2 ^ 56)
  ++ toBytesLE 8 (e.held.toNat + e.owner % 4 * 2 ^ 32 + e.child % 4 * 2 ^ 34 + bit e.cv * 2 ^ 36 + bit e.phase * 2 ^ 37
      + bit e.oarr * 2 ^ 38 + bit e.carr * 2 ^ 39)
  ++ toBytesLE 8 e.fmt.toNat

/-- Entries beyond the 32 newest, oldest first, lie in the RCS area, the top 32 KiB of the spill stack (R48, R73)
[68, DESIGN CHOICE]. -/
def Gang.setRcs (g : Gang) (l : List RcsEntry) : Gang :=
  let old := (l.drop 32).reverse
  if old.isEmpty then { g with rcs := l }
  else { g with rcs := l, spill := g.spill.writeN 98304 (old.flatMap RcsEntry.bytes) }

/-! ## Snapshots, rollback and the JV state of a native context -/

/-- Location codes of R317: a rotating name through an RRB (R297). -/
def rotate (kind : CoreKind) (rrb n : Nat) : Nat :=
  match kind with
  | .dcore => if n < 32 then n else 32 + ((n - 32 + 32 - rrb % 32) % 32)
  | .lcore => if n < 48 then n else 48 + ((n - 48 + 48 - rrb % 48) % 48)

/-- A lane register of zeros. -/
def zeroLanes : Lanes := List.replicate 32 0

/-- The location's physical code: vector names rotate. -/
def physLoc (kind : CoreKind) (rrb loc : Nat) : Nat :=
  match kind with
  | .dcore => if loc < 64 then rotate kind rrb loc else if loc < 128 then 64 + rotate kind rrb (loc - 64) else loc
  | .lcore => if loc < 96 then rotate kind rrb loc else loc

/-- Write a value into a physical location, on some lanes. -/
def NatRegs.put (r : NatRegs) (kind : CoreKind) (loc : Nat) (lanes : Mask) (v : Lanes) : NatRegs :=
  let merge (old : Lanes) : Lanes := tab32 (fun l => if lanes.getLsbD l then laneOf v l else laneOf old l)
  if 208 ≤ loc then r
  else if 192 ≤ loc then
    if loc = 192 then r
    else
      let old := Tab.get 0#32 r.pr (loc - 192)
      let m : Mask := ((laneOf v 0).truncate 32)
      { r with pr := Tab.set 0#32 r.pr (loc - 192) ((old &&& ~~~lanes) ||| (m &&& lanes)) }
  else if 128 ≤ loc then { r with sr := Tab.set 0 r.sr (loc - 128) (laneOf v 0) }
  else
    match kind with
    | .dcore =>
      if loc < 64 then { r with vx := Tab.set zeroLanes r.vx loc (merge (Tab.get zeroLanes r.vx loc)) }
      else { r with vy := Tab.set zeroLanes r.vy (loc - 64) (merge (Tab.get zeroLanes r.vy (loc - 64))) }
    | .lcore => { r with vl := Tab.set zeroLanes r.vl loc (merge (Tab.get zeroLanes r.vl loc)) }

/-- The value of a physical location. -/
def NatRegs.getLoc (r : NatRegs) (kind : CoreKind) (loc : Nat) : Lanes :=
  if 192 ≤ loc then [(if loc = 192 then BitVec.allOnes 32 else Tab.get 0#32 r.pr (loc - 192)).zeroExtend 64]
  else if 128 ≤ loc then [Tab.get 0 r.sr (loc - 128)]
  else
    match kind with
    | .dcore => if loc < 64 then Tab.get zeroLanes r.vx loc else Tab.get zeroLanes r.vy (loc - 64)
    | .lcore => Tab.get zeroLanes r.vl loc

/-- The lanes of x and the s registers it wrote take the snapshot's values (R424, R305). -/
def NatRegs.restore (now snap : NatRegs) (lanes : Mask) (wrote : List Nat) : NatRegs :=
  let mergeTab (a b : Tab Lanes) (n : Nat) : Tab Lanes :=
    (List.range n).foldl (fun t i =>
      let old := Tab.get zeroLanes t i
      let sv := Tab.get zeroLanes b i
      Tab.set zeroLanes t i (tab32 (fun l => if lanes.getLsbD l then laneOf sv l else laneOf old l))) a
  { vx := mergeTab now.vx snap.vx 64, vy := mergeTab now.vy snap.vy 64, vl := mergeTab now.vl snap.vl 96
    sr := wrote.foldl (fun t i => Tab.set 0 t i (Tab.get 0 snap.sr i)) now.sr
    pr := (List.range 16).foldl (fun t i =>
      Tab.set 0#32 t i ((Tab.get 0#32 now.pr i &&& ~~~lanes) ||| (Tab.get 0#32 snap.pr i &&& lanes))) now.pr }

/-- Lanes of the 8-byte granules of a register of 32-bit lanes that a write in some lanes covers wholly (R471). -/
def wholePairs (m : Mask) : Mask := maskOf (fun l => m.getLsbD l && m.getLsbD (if l % 2 = 0 then l + 1 else l - 1))

/-- A write to a register in some lanes clears the poison of the granules that it covers (R471): a granule holds two lanes of 32 bits, or one
of 64; a scalar register is one granule, and so, in this model, is a predicate [54, DEDUCED]. -/
def Gang.cleared (g : Gang) (key : Nat) (wide : Bool) (m : Mask) : Gang :=
  if g.regPoison.isEmpty then g
  else
    let left : Mask := Tab.get 0#32 g.regPoison key &&& ~~~(if wide then m else wholePairs m)
    { g with regPoison := Tab.set 0#32 g.regPoison key left }

/-- A native result into a location: a register, or LR (R281). -/
def Gang.setLoc (g : Gang) (kind : CoreKind) (k loc : Nat) (lanes : Mask) (v : Lanes) : Gang :=
  if loc = 208 then g.updSplit k (fun sp => { sp with lr := (laneOf v 0).truncate 32 })
  else Gang.cleared { g with nregs := g.nregs.put kind loc lanes v } loc (decide (128 ≤ loc))
    (if 192 ≤ loc then (if lanes = BitVec.allOnes 32 then lanes else 0) else if 128 ≤ loc then BitVec.allOnes 32 else lanes)

/-- A commit point that has begun to perform its bundle's operations goes on to its end (R194, R305). -/
def Split.performing (sp : Split) : Bool := (sp.stage.map (fun x => x.begun && decide (0 < x.next) && !x.only)).getD false

/-- Scalar registers whose values a rollback restores: those the interval wrote, and those to which the snapshot had a result
in flight, which may have landed since (R424). -/
def Split.restores (sp : Split) (n : Snapshot) : List Nat :=
  sp.wrote ++ n.flight.filterMap (fun f => if 128 ≤ f.loc ∧ f.loc < 192 then some (f.loc - 128) else none)

/-- Roll one context back to its last snapshot (R424): the results in flight then are so again, and count from its first
bundle. A JV context is at its commit point already [33, DEDUCED] [35, DEDUCED]. -/
def Gang.rollback (g : Gang) (k : Nat) : Gang :=
  match g.splits[k]? with
  | none => g
  | some sp =>
    match sp.snap with
    | none => if sp.used && sp.wait == .ready then g.updSplit k (fun x => { x with latched := none, refused := none }) else g
    | some n =>
      if !sp.used || sp.performing then g
      else
        { g with nregs := g.nregs.restore n.regs sp.mask (sp.restores n)
                 splits := g.splits.set k
                   { sp with pc := n.pc, mask := n.mask, fmt := n.fmt, sig := n.sig, ret := n.ret, lr := n.lr, rrb := n.rrb
                             flight := [], tailings := n.flight, gated := [], held := 0, adt := [], loads := [], wrote := []
                             stage := n.again, latched := none, tilePos := 0, sinceCommit := 0, raised := none, steps := 0, counts := 0, reissue := none, refused := none } }

def Gang.rollbackAll (g : Gang) : Gang := [0, 1, 2, 3].foldl Gang.rollback g

/-- The team holds a core's resources. -/
def Team.onCore (t : Team) : Bool :=
  match t.status with
  | .suspended _ | .stopped => false
  | _ => true

/-- Native code runs in a gang: the team is native and no handler runs (handlers are JV code) [10, DESIGN CHOICE]. -/
def Team.runsNative (t : Team) (g : Gang) : Bool := t.native && g.handler.isNone

/-- The other core kind. -/
def CoreKind.other (k : CoreKind) : CoreKind := match k with | .dcore => .lcore | .lcore => .dcore

/-- The pinned code of the kind a team runs on. -/
def Team.natCode (t : Team) : Option NatCode :=
  match t.core.kind with
  | .dcore => t.kern.pinnedD
  | .lcore => t.kern.pinnedL

/-- A JV address as the byte offset in the kernel's JV code by which frames, records and events give a JV PC (R314, R426);
that of an address outside the kernel is modulo 2^56 [28, DEDUCED]. -/
def Kernel.jvOffset (k : Kernel) (pc : Nat) : Nat := (pc + 2 ^ 56 - k.base % 2 ^ 56) % 2 ^ 56

/-- Resume JV PC of a split (R426) [28, DEDUCED]. -/
def Team.rjvpc (t : Team) (sp : Split) : Nat :=
  match sp.snap with
  | some n => (match n.record with | some r => r.jvpc | none => 0)
  | none => t.kern.jvOffset sp.pc

/-- The declaration of a JV register number (R147): its kind and, for an .acc register, its tile number [8, DESIGN CHOICE]. -/
def declAt (ds : List Decl) (n accs : Nat) : Option (DeclKind × Nat) :=
  match ds with
  | [] => none
  | d :: r =>
    if n < d.count then some (d.kind, accs + n)
    else declAt r (n - d.count) (if d.kind = .acc then accs + d.count else accs)

/-- The size of the declaration whose first register is n (R146, R147): a tile's member count. -/
def tileSize (ds : List Decl) (n : Nat) : Nat :=
  match ds with
  | [] => 0
  | d :: r => if n < d.count then (if n = 0 then d.count else 0) else tileSize r (n - d.count)

/-- The number of registers a kernel declares. -/
def declTotal (ds : List Decl) : Nat := ds.foldl (fun n d => n + d.count) 0

/-- A record's map entries. -/
def NatCode.mapsOf (c : NatCode) (r : Record) : List MapEntry := (c.maps.drop r.first).take r.nmap

/-- The entries that give JV registers their values (kinds 0, 1 and 3), low halves before high ones (R316, R318). -/
def NatCode.valuesOf (c : NatCode) (r : Record) : List MapEntry :=
  let es := (c.mapsOf r).filter (fun e => e.kind == 0 || e.kind == 1 || e.kind == 3)
  es.filter (fun e => !e.hi) ++ es.filter (fun e => e.hi)

/-- The exposed result in flight at a snapshot that a map entry of kind 1 names (R318); its location is a register name, which rotates
with the snapshot's RRB as that of kind 0 does [88, DESIGN CHOICE]. -/
def Snapshot.inFlight (n : Snapshot) (kind : CoreKind) (e : MapEntry) : Option Flight :=
  n.flight.find? (fun f => f.loc == physLoc kind n.rrb e.loc)

/-- The lanes for which a map entry gives a value: for a result in flight, those it writes (R318). -/
def MapEntry.lanes (e : MapEntry) (kind : CoreKind) (n : Snapshot) (m : Mask) : Mask :=
  if e.kind = 1 then (match n.inFlight kind e with | some f => m &&& f.lanes | none => 0) else m

/-- The 32-bit halves a map entry gives, lane by lane, from a snapshot (R318); a predicate in a spill slot is the 32-bit mask in the slot's
first 4 bytes [88, DESIGN CHOICE]. -/
def MapEntry.value (e : MapEntry) (kind : CoreKind) (n : Snapshot) (g : Gang) : Lanes :=
  match e.kind with
  | 0 => if e.loc = 208 then [n.lr.zeroExtend 64] else n.regs.getLoc kind (physLoc kind n.rrb e.loc)
  | 1 => ((n.inFlight kind e).map (fun f => f.value)).getD []
  | 3 => tab32 (fun l => mkWord (g.tspill.readLE (8 * e.loc + 4 * l) 4))
  | _ => []

/-- A JV register takes what a map entry gives, in some lanes (R318, R434). -/
def Gang.fromMap (g : Gang) (t : Team) (kind : CoreKind) (n : Snapshot) (m : Mask) (e : MapEntry) : Gang :=
  let v := e.value kind n g
  let lanes := e.lanes kind n m
  match declAt t.kern.decls e.jvreg 0 with
  | some (.lane _, _) =>
    let old := match Tab.get (JvVal.uni 0) g.jregs e.jvreg with | .lane x => x | _ => zeroLanes
    let new := tab32 (fun l =>
      if lanes.getLsbD l then
        (if e.hi then mkWord ((laneOf old l).toNat % 2 ^ 32 + (laneOf v l).toNat % 2 ^ 32 * 2 ^ 32)
         else mkWord ((laneOf v l).toNat % 2 ^ 32 + (laneOf old l).toNat / 2 ^ 32 * 2 ^ 32))
      else laneOf old l)
    { g with jregs := Tab.set (.uni 0) g.jregs e.jvreg (.lane new) }
  | some (.uni _, _) =>
    let old := match Tab.get (JvVal.uni 0) g.jregs e.jvreg with | .uni x => x | _ => 0
    let x := if e.kind = 3 then mkWord (g.tspill.readLE (8 * e.loc) 8) else laneOf v 0
    let w := if e.hi then mkWord (old.toNat % 2 ^ 32 + x.toNat % 2 ^ 32 * 2 ^ 32) else x
    if e.kind = 1 && (n.inFlight kind e).isNone then g else { g with jregs := Tab.set (.uni 0) g.jregs e.jvreg (.uni w) }
  | some (.pred, _) =>
    let old := match Tab.get (JvVal.uni 0) g.jregs e.jvreg with | .pred m => m | _ => 0
    { g with jregs := Tab.set (.uni 0) g.jregs e.jvreg (.pred ((old &&& ~~~lanes) ||| (((laneOf v 0).truncate 32) &&& lanes))) }
  | _ => g

/-- The number of free values that the registers of a kernel take up. -/
def deadSpan (ds : List Decl) : Nat := 33 * declTotal ds

/-- Every declared register with a free value: what a register that no record names reads as (R318, R434) [3, DESIGN CHOICE]. -/
def freeRegs (ds : List Decl) (base : Nat) : Tab JvVal :=
  (List.range (declTotal ds)).foldl (fun t n =>
    let x (l : Nat) : Word := Config.freeWord (base + 33 * n + l)
    match declAt ds n 0 with
    | some (.lane w, _) => Tab.set (.uni 0) t n (.lane (tab32 (fun l => lowBits w (x l))))
    | some (.uni w, _) => Tab.set (.uni 0) t n (.uni (lowBits w (x 0)))
    | some (.pred, _) => Tab.set (.uni 0) t n (.pred ((x 0).truncate 32))
    | _ => t) []

/-- The JV registers of a native gang at its snapshots: the lowest split first, so that the faulting split's record, placed
last, prevails for uniform registers (R318, R434). -/
def Gang.materialise (g : Gang) (t : Team) (k : Nat) : Gang :=
  match t.natCode with
  | none => g
  | some c =>
    ([3, 2, 1, 0].filter (fun j => j != k) ++ [k]).foldl (fun g j =>
      match g.splits[j]? with
      | some sp =>
        (match sp.snap with
         | some n => (match n.record with
            | some r => if sp.used then (c.valuesOf r).foldl (fun g e => g.fromMap t t.core.kind n n.mask e) g else g
            | none => g)
         | none => g)
      | none => g) g

/-- The value a JV register gives a location: its low or high half. -/
def jvHalf (v : JvVal) (hi : Bool) : Lanes :=
  let h (w : Word) : Word := if hi then mkWord (w.toNat / 2 ^ 32) else mkWord (w.toNat % 2 ^ 32)
  match v with
  | .lane x => x.map h
  | .uni w => [if hi then mkWord (w.toNat / 2 ^ 32) else w]
  | .pred m => [m.zeroExtend 64]

/-- tret's placement of a JV register into a split's native state, through one map entry (R435); a target record of a move
is filled the same way (R337). A predicate in a spill slot is the 32-bit mask in the slot's first 4 bytes [88, DESIGN CHOICE]. -/
def Gang.toMap (g : Gang) (kind : CoreKind) (k : Nat) (e : MapEntry) : Gang :=
  match g.splits[k]? with
  | none => g
  | some sp =>
    let jv := Tab.get (JvVal.uni 0) g.jregs e.jvreg
    let v := jvHalf jv e.hi
    match e.kind with
    | 0 =>
      if e.loc = 208 then { g with splits := g.splits.set k { sp with lr := (laneOf v 0).truncate 32 } }
      else g.setLoc kind k (physLoc kind sp.rrb e.loc) sp.mask v
    | 1 =>
      let loc := physLoc kind sp.rrb e.loc
      let fl := updFirst (fun f => f.loc == loc)
        (fun f => { f with value := if 128 ≤ loc then v else tab32 (fun l => if f.lanes.getLsbD l then laneOf v l else laneOf f.value l) }) sp.tailings
      { g with splits := g.splits.set k { sp with tailings := fl } }
    | 3 =>
      { g with tspill := match jv with
          | .uni _ => g.tspill.writeN (8 * e.loc) (toBytesLE 8 (laneOf v 0).toNat)
          | .pred m =>
            let old : Mask := BitVec.ofNat 32 (g.tspill.readLE (8 * e.loc) 4)
            g.tspill.writeN (8 * e.loc) (toBytesLE 4 ((old &&& ~~~sp.mask) ||| (m &&& sp.mask)).toNat)
          | _ => (lanesOf sp.mask).foldl (fun m l => m.writeN (8 * e.loc + 4 * l) (toBytesLE 4 ((laneOf v l).toNat % 2 ^ 32))) g.tspill }
    | _ => g

/-! ## JV code (R205, R445, R446) -/

/-- A word offset at which an instruction starts, decoding from the first word on (R445, R446). -/
def isStart : Nat → List Word → Nat → Bool
  | 0, _, _ => false
  | fuel + 1, ws, n =>
    if n = 0 then !ws.isEmpty
    else
      let len : Option Nat := match decodeJv ws with
        | .ok _ _ l => some l
        | .bad _ l => l
      match len with
      | none => false
      | some l => if n < l then false else isStart fuel (ws.drop l) (n - l)

/-- The words at a byte address of a piece of code, when an instruction starts there [66, DESIGN CHOICE]. -/
def codeWords (base : Nat) (code : List Word) (pc : Nat) : Option (List Word) :=
  if base ≤ pc ∧ pc < base + 8 * code.length ∧ (pc - base) % 8 = 0 then
    let n := (pc - base) / 8
    if isStart (n + 1) code n then some ((code.drop n).take 4) else none
  else none

def inCode (base : Nat) (code : List Word) (pc : Nat) : Bool := decide (base ≤ pc) && decide (pc < base + 8 * code.length)

/-- The newest region that holds an address, or the kernel (region 0), with the instruction's words; an older
instruction whose words run into a newer region is gone (R205). -/
def Team.codeAt (t : Team) (pc : Nat) : Option (Nat × List Word) :=
  let newest := t.regions.reverse
  match newest.find? (fun r => inCode r.base r.code pc) with
  | some r =>
    (codeWords r.base r.code pc).bind (fun ws =>
      let len := match decodeJv ws with | .ok _ _ l => l | .bad _ l => l.getD 1
      if newest.any (fun q => decide (r.serial < q.serial) && decide (q.base < pc + 8 * len) && decide (pc < q.base + 8 * q.code.length))
      then none else some (r.serial, ws))
  | none =>
    (codeWords t.kern.base t.kern.code pc).bind (fun ws =>
      let len := match decodeJv ws with | .ok _ _ l => l | .bad _ l => l.getD 1
      if newest.any (fun q => decide (q.base < pc + 8 * len) && decide (pc < q.base + 8 * q.code.length)) then none
      else some (0, ws))

/-- The words at a PC in the region the split runs in; a routine finishes in the translation it runs in (R205) [27, DEDUCED] [66, DESIGN CHOICE]. -/
def Team.fetchWords (t : Team) (region pc : Nat) : Option (List Word) :=
  if region = 0 then codeWords t.kern.base t.kern.code pc
  else (t.regions.find? (fun r => r.serial == region)).bind (fun r => codeWords r.base r.code pc)

/-- Bytes of a native bundle (R277). -/
def bundleBytes (k : CoreKind) : Nat := match k with | .dcore => 64 | .lcore => 32

/-! ## Delivery (R427), the trap frame (R429 to R432) and handlers (R433) -/

/-- The state field of a split record (R431). -/
def Wait.stateCode (w : Wait) : Nat :=
  match w with
  | .asleep _ => 2
  | .join | .bar _ _ | .barwt _ _ | .haul _ | .word _ _ _ _ _ | .mig _ _ _ => 1
  | _ => 0

/-- A split record of the frame (R431). -/
def splitRecord (t : Team) (sp : Split) : List Word :=
  if !sp.used then List.replicate 8 0
  else
    let rec? := sp.snap.bind (fun n => n.record)
    [mkWord (t.rjvpc sp),
     mkWord (sp.mask.toNat + 2 ^ 32 + sp.wait.stateCode * 2 ^ 33 + sp.tailings.length * 2 ^ 35),
     sp.fmt, sp.sig,
     (match rec? with | some r => mkWord r.npc | none => Config.nativePc t.kern.handle t.core.kind (t.rjvpc sp)),
     (match rec? with
      | some r => mkWord r.xpc
      | none => if t.native then allOnes else Config.nativePc t.kern.handle (CoreKind.other t.core.kind) (t.rjvpc sp)), 0, 0]

/-- A tailings entry (R312) of 160 bytes, seq being its place. -/
def tailingBytes (f : Flight) (seq : Nat) : List Byte :=
  let form := if 192 ≤ f.loc ∧ f.loc < 208 then 2 else if 128 ≤ f.loc then 1 else 0
  let val := if form = 0 then (List.range 32).flatMap (fun l => toBytesLE 4 ((laneOf f.value l).toNat % 2 ^ 32))
    else toBytesLE 8 (laneOf f.value 0).toNat ++ List.replicate 120 0
  val ++ toBytesLE 8 (f.loc + f.remain * 2 ^ 9 + form * 2 ^ 14 + f.lanes.toNat * 2 ^ 16 + seq * 2 ^ 48) ++ List.replicate 24 0

/-- The bytes of a gang's frame (R429, R430). -/
def frameBytes (t : Team) (g : Gang) (r : Raise) (fa : FaultAt) (tails : List Flight) : List Byte :=
  let live := (List.range 4).foldl (fun m k => if (g.splits[k]?.map (fun sp => sp.used)).getD false then m + 2 ^ k else m) 0
  let w0 := r.cause + fa.split * 2 ^ 10 + (if t.core.kind = .dcore then 2 ^ 12 else 0) + (if fa.after then 2 ^ 13 else 0)
    + tails.length * 2 ^ 14 + fa.gcnt * 2 ^ 20 + live * 2 ^ 27 + r.info % 2 ^ 32 * 2 ^ 32
  let header : List Word := [mkWord w0, fa.npc, mkWord fa.slot, mkWord r.addr, g.flg.zeroExtend 64, 0, 0, 0]
  bytesOfWords (header ++ g.splits.flatMap (splitRecord t)) ++ List.replicate 704 0
    ++ (tails.zip (List.range tails.length)).flatMap (fun x => tailingBytes x.1 x.2)

/-- The region a handler address lies in: the newest that holds it, or the kernel (R205, R223). -/
def Team.handlerRegion (t : Team) (pc : Nat) : Nat := ((t.codeAt pc).map (fun x => x.1)).getD 0

/-- Write back and drop the core's lines of a frame's 16,384 bytes (R429, R435). -/
def State.dropFrame (s : State) (c : CoreId) (asid frame : Nat) : State :=
  (List.range 128).foldl (fun s i => s.dropLine c asid (frame / 128 + i)) s

/-- Thousandths of D-clocks that have passed (R29, R30). -/
def State.dclocks (s : State) : Nat := s.hub.dcount + (s.now - s.hub.clockAt) * s.hub.dclock

/-- Enter the gang's handler: write the frame at home slices, mask traps, start the handler (R427, R429, R433). -/
def State.enterHandler (s : State) (t : Team) (g : Gang) (r : Raise) (fa : FaultAt) : State :=
  match g.splits[fa.split]? with
  | none => s
  | some sp =>
    let frame := g.tframe + 16384 * fa.gang
    let bs := frameBytes t g r fa sp.tailings
    let s1 := s.dropFrame t.core t.asid frame
    let s1 : State := if t.native then { s1 with free := s.free + deadSpan t.kern.decls } else s1
    let s2 := s1.putVa t.asid frame bs
    let g1 := if t.native then { g with jregs := freeRegs t.kern.decls s.free }.materialise t fa.split else g
    let pc := g.tvec % 2 ^ 56
    let g2 := { g1 with
      handler := some { split := fa.split, saved := g.splits, rcsBase := g.rcs.length, start := s.dclocks, frame := frame }
      entering := none
      splits := g1.splits.set fa.split
        { sp with pc := pc, region := t.handlerRegion pc, sig := 0, sigOff := false, reissue := none, ret := [], wait := .ready, flight := [], tailings := []
                  loads := [], gated := [], held := 0, snap := none, stage := none, latched := none, tileLog := [], tilePos := 0, stamp := s.now } }
    (s2.updTeam t.rid (fun t => { t with idempotent := false })).updTeam t.rid (fun t => t.updGang fa.gang (fun _ => g2))

/-- Whether the 16,384 bytes of a frame can be written at their home slices (R427). -/
def State.frameAccess (s : State) (asid frame : Nat) : Acc :=
  let ro := s.hub.objects.any (fun o => o.asid == asid
    && o.ranges.any (fun r => decide (0 < r.2) && decide (r.1 < frame + 16384) && decide (frame < r.1 + r.2)))
  if ro then .raise 194 else s.access asid frame true

/-- The gang's loads of intervals that are given up are abandoned (R424): small gathers under way among them. -/
def State.dropReads (s : State) (rid gang : Nat) : State :=
  { s with faceReqs := s.faceReqs.filter (fun q => !(q.rid == rid && q.gang == gang && q.parts.all (fun x => x.2.2 == .read))) }

/-- What a handler entry still waits for: operations of earlier instructions on their way, and commit points under way (R426). -/
def State.entryWaits (s : State) (t : Team) (gang : Nat) (g : Gang) : Bool :=
  s.faceReqs.any (fun q => q.rid == t.rid && q.gang == gang) || g.splits.any (fun sp => sp.used && sp.performing)

/-- The split whose access a parked gang waits for (R423, R463). -/
def Wait.causedBy (w : Wait) (k : Nat) : Wait := match w with | .page asid vbase _ addr => .page asid vbase k addr | w => w

/-- A gang with a fault held enters its handler when nothing is in the way (R426, R427): its frame page in HBM, or a package in
recovery, leaves it waiting. -/
def State.tryEnter (s : State) (rid gang : Nat) : State :=
  match s.team? rid with
  | none => s
  | some t =>
    match t.gangs[gang]? with
    | none => s
    | some g =>
      match g.entering with
      | none => s
      | some (r, fa) =>
        if s.entryWaits t gang g then s
        else
          let jvpc := (g.splits[fa.split]?.map t.rjvpc).getD 0
          let frame := g.tframe + 16384 * gang
          match s.frameAccess t.asid frame with
          | .raise _ => s.terminate rid 964 0 gang jvpc
          | .park w0 =>
            let w := w0.causedBy fa.split
            let s1 := s.updTeam rid (fun t => t.updGang gang (fun g =>
              { g with splits := g.splits.map (fun sp => if sp.used && sp.wait = .ready then { sp with wait := w, waitStart := s.ptp } else sp) }))
            (match w with
             | .page _ _ _ _ => { s1 with pages := s1.pages.map (fun p =>
                 if p.asid = t.asid ∧ p.vbase ≤ frame ∧ frame < p.vbase + p.size then { p with parked := some (p.parked.getD s.ptp) } else p) }
             | _ => s1)
          | .ok _ => s.enterHandler t g r fa

/-- The team's contexts stand on a core and are not being saved: a fault held with a saved gang is raised on resumption (R428). -/
def Team.deliverable (t : Team) : Bool := match t.status with | .resident | .stopping _ _ => !t.moving | _ => false

/-- Every handler entry that can go on does. -/
def State.settleEntries (s : State) : State :=
  s.teams.foldl (fun s t =>
    if t.deliverable then
      (t.gangs.zip (List.range t.gangs.length)).foldl (fun s x => if x.1.entering.isSome then s.tryEnter t.rid x.2 else s) s
    else s) s

/-- A fault of delivery H: the checks of R427 in their order. -/
def State.deliverH (s : State) (r : Raise) (fa : FaultAt) : State :=
  match s.team? fa.rid with
  | none => s
  | some t =>
    match t.gangs[fa.gang]? with
    | none => s
    | some g =>
      let jvpc0 := (g.splits[fa.split]?.map t.rjvpc).getD 0
      let gated := (g.splits[fa.split]?.map (fun sp => sp.gated.length)).getD 0
      let fa : FaultAt := { fa with gcnt := if fa.gcnt = 0 then gated else fa.gcnt }
      if g.tvec = 0 then s.terminateAt t.rid r.cause 0 fa.gang jvpc0 r.addr
      else if g.handler.isSome then s.terminate t.rid 961 r.cause fa.gang jvpc0
      else if g.entering.isSome then s
      else
        let s1 := s.updTeam t.rid (fun t => t.updGang fa.gang (fun g => { g.rollbackAll with entering := some (r, fa) }))
        let s2 := if t.native then s1.dropReads t.rid fa.gang else s1
        if t.deliverable then s2.tryEnter t.rid fa.gang else s2

/-- A wait that has ended while the gang's handler ran (R435), or since the checkpoint that holds it (R474), is over. -/
def State.waitAfter (s : State) (t : Team) (g : Gang) (w : Wait) : Wait :=
  match w with
  | .asleep time => if time ≤ s.ptp then .ready else w
  | .interlock _ | .full => .ready
  | .bar n phase => if phase < ((t.bars[n]?).map (fun b => b.phase)).getD 0 then .ready else w
  | .barwt n last => if last ≤ ((t.bars[n]?).map (fun b => b.phase)).getD 0 then .ready else w
  | .haul mask => if (List.range 8).all (fun k => !mask.testBit k || g.tokens.getD k 0 == 0) then .ready else w
  | .page asid vbase _ _ =>
    (match s.page? asid vbase with
     | some p => (match p.place with | .hbm _ _ _ => w | _ => .ready)
     | none => .ready)
  | .remote pkg va => (match s.route pkg va with | some (.park _) => w | _ => .ready)
  | .moveReq => if t.moveReq.isNone then .ready else w
  | w => w

/-- A granule of a gang's spill area, or of its translation spill area behind it, lies in a logged line (R473). -/
def Team.spillLogged (t : Team) (gang g : Nat) : Bool :=
  if 131072 ≤ 8 * g then t.logged.contains (2 + 2 * gang, (8 * g - 131072) / 128) else t.logged.contains (1 + 2 * gang, 8 * g / 128)

/-- Poison after a roll-back: a logged line has that of its old contents, and one that is not logged keeps what it has (R474, R475). -/
def poisonBack (logged : Nat → Bool) (old now : List Nat) : List Nat := old.filter logged ++ now.filter (fun g => !logged g)

/-- A tile after a roll-back: the logged image, with the count of mismatches as it stands, or the tile itself (R474, R492). -/
def Team.tileBack (t : Team) (x : (Tile × Tile) × Nat) : Tile := if t.loggedTiles.contains x.2 then { x.1.1 with mis := x.1.2.mis } else x.1.2

/-- Roll a team back to its checkpoint (R474): tokens, counts of conflicts and the slots that the gangs now hold stay, and waits that are over
by now have ended. -/
def Team.toCheckpoint (s : State) (t : Team) : Team :=
  match t.chk with
  | none => t
  | some c =>
    let back (y : (Gang × Gang) × Nat) : Gang :=
      let x := y.1
      let g : Gang := { x.1 with tokens := x.2.tokens, conflicts := x.2.conflicts, slot := x.2.slot
                                 spillPoison := poisonBack (t.spillLogged y.2) x.1.spillPoison x.2.spillPoison }
      { g with splits := g.splits.map (fun (sp : Split) =>
          { sp with wait := s.waitAfter { t with bars := c.bars } g sp.wait, stamp := s.now, waitStart := s.ptp }) }
    { t with tiles := ((c.tiles.zip t.tiles).zip (List.range c.tiles.length)).map t.tileBack
             tileLate := c.tileLate, bars := c.bars, scratch := c.scratch
             scratchPoison := poisonBack (fun g => t.logged.contains (0, 8 * g / 128)) c.scratchPoison t.scratchPoison
             gangs := ((c.gangs.zip t.gangs).zip (List.range c.gangs.length)).map back
             consumed := 1, idempotent := true, logged := [], loggedTiles := [] }

/-- The tag of a gang's spill lines in L1, beyond every ASID. -/
def spillTag (rid gang : Nat) : Nat := 2 ^ 32 + 16 * rid + gang

/-- The L1 copies of a team's spill lines are dropped (R474). -/
def State.dropSpill (s : State) (t : Team) : State :=
  let core := s.coreOf t.core
  let spill (l : L1Line) : Bool := decide (spillTag t.rid 0 ≤ l.asid) && decide (l.asid < spillTag t.rid 0 + 16)
  if core.l1.any spill then s.setCore { core with l1 := core.l1.filter (fun l => !spill l) } else s

/-- Requests of a team at face units that were issued since its checkpoint are given up (R474). -/
def State.dropEpoch (s : State) (t : Team) : State :=
  { s with faceReqs := s.faceReqs.filter (fun q => !(q.rid == t.rid && q.epoch == t.epoch)) }

/-- Consumption of poison, and the causes handled as it is (R472 to R475, R486): rolled back once per epoch, else the team
ends; term is the cause of the termination, and pc the record's JV PC where it is not the resume JV PC. -/
def State.consume (s : State) (r : Raise) (fa : FaultAt) (term : Nat) (pc : Option Nat) (e : LogEntry) : State :=
  match s.team? fa.rid with
  | none => s
  | some t =>
    let jvpc := ((t.gangs[fa.gang]?).bind (fun g => g.splits[fa.split]?.map t.rjvpc)).getD 0
    let masked := ((t.gangs[fa.gang]?).map (fun g => g.handler.isSome)).getD false
    let e := { e with cause := r.cause, task := t.task, team := t.index, gang := fa.gang
                      jvpc := pc.getD jvpc }
    if masked then s.terminate t.rid 961 r.cause fa.gang jvpc
    else if t.idempotent && t.consumed = 0 && t.chk.isSome then
      let s1 := s.log { e with outcome := if term = 257 then 0 else 1 }
      let s2 := (s1.dropSpill t).updTeam t.rid (Team.toCheckpoint s1)
      State.dropPreloads (fun p => p.rid == some t.rid) (s2.dropEpoch t)
    else if term = 257 then (s.log { e with cause := 257 }).terminateAt t.rid 257 e.source fa.gang jvpc e.addr
    else (s.log { e with outcome := 2 }).terminate t.rid term 0 fa.gang jvpc

/-- The key of the translation a team runs on its core: of those that its task holds (R329). -/
def State.heldKey (s : State) (t : Team) : Option (BitVec 256) :=
  ((s.hub.tasks.find? (fun (k : Task) => k.id == t.task)).bind (fun k => k.held.find? (fun x => x.1 == t.core.kind))).map (fun x => x.2)

/-- The causes of class 12 that end the team and mark its translation (R476). -/
def State.translationDefect (s : State) (r : Raise) (fa : FaultAt) : State :=
  match s.team? fa.rid with
  | none => s
  | some t =>
    let masked := ((t.gangs[fa.gang]?).map (fun g => g.handler.isSome)).getD false
    let jvpc := ((t.gangs[fa.gang]?).bind (fun g => g.splits[fa.split]?.map t.rjvpc)).getD 0
    if masked then s.terminate t.rid 961 r.cause fa.gang jvpc
    else
      let s1 := s.log { cause := r.cause, task := t.task, team := t.index, gang := fa.gang, jvpc := jvpc }
      let s2 := { s1 with hub := { s1.hub with lode := s1.hub.lode.map (fun (e : LodeEntry) =>
        if s.heldKey t = some e.key ∧ !e.pinned then { e with defective := true } else e) } }
      s2.terminate t.rid r.cause 0 fa.gang jvpc

/-- The errors of the pipe of a team's core are past once a check has found them. -/
def State.clearPipe (s : State) (rid : Nat) : State :=
  match s.team? rid with
  | some t => if (s.coreOf t.core).pipe.isEmpty then s else s.setCore { s.coreOf t.core with pipe := [] }
  | none => s

/-- Count a tile assay mismatch, saturating (R234, R492). -/
def State.countMis (s : State) (rid k : Nat) : State :=
  (s.clearPipe rid).updTeam rid (fun t => match t.tiles[k]? with
    | some x => { t with tiles := t.tiles.set k { x with mis := Nat.min (x.mis + 1) 255 } }
    | none => t)

/-- The map entries of the commit point of the bundle that fails, else of the one that the context's commit bundle performs or has left, where it runs
native code (R318, R487). -/
def State.failMaps (s : State) (fa : FaultAt) : Option (Team × List MapEntry) :=
  match s.team? fa.rid, s.split? fa.rid fa.gang fa.split with
  | some t, some sp =>
    if ((t.gangs[fa.gang]?).map t.runsNative).getD false then
      let r := (fa.record.orElse (fun _ => sp.stage.bind (fun x => x.record))).orElse (fun _ => sp.snap.bind (fun n => n.record))
      some (t, match t.natCode, r with | some c, some r => c.mapsOf r | _, _ => [])
    else none
  | _, _ => none

/-- The JV PC of the instruction whose check failed (R487), where it is not the resume JV PC, which is that of a JV context's instruction. -/
def State.failedPc (s : State) (fa : FaultAt) : Option Nat :=
  (s.failMaps fa).map (fun x =>
    match x.2.find? (fun e => e.kind == 4 && e.loc == fa.slot) with
    | some e => e.jvreg
    | none => Config.jvPcOf x.1.kern.handle x.1.core.kind fa.npc.toNat fa.slot)

/-- The JV register number of the tile an instruction names by its operand's number (R487). -/
def State.failedTile (s : State) (fa : FaultAt) (code : Nat) : Nat :=
  match s.failMaps fa with
  | some (t, l) => ((l.find? (fun e => e.kind == 2 && e.loc == code)).map (fun e => e.jvreg)).getD (Config.tileReg t.kern.handle t.core.kind code)
  | none => code

/-- Deliver a fault by its class (R422). For causes 390 to 392, addr is the tile and info word 4 of the record; for 640 to
642, addr is the value SIG was compared with (R487). -/
def State.deliver (s : State) (r : Raise) (fa : FaultAt) : State :=
  let c := r.cause
  if c = 256 then s.consume r fa 257 none { cause := 256, source := r.info, addr := r.addr }
  else if 390 ≤ c ∧ c ≤ 392 then (s.countMis fa.rid r.addr).consume r fa c (s.failedPc fa)
      { cause := c, word4 := s.failedTile fa (r.info % 2 ^ 32) % 2 ^ 32 + r.info / 2 ^ 32 * 2 ^ 32 }
  else if 640 ≤ c ∧ c ≤ 642 then
    let sig := ((s.split? fa.rid fa.gang fa.split).map (fun sp => sp.sig.toNat)).getD 0
    s.consume r fa c (s.failedPc fa) { cause := c, word6 := sig, word7 := r.addr }
  else if 768 ≤ c ∧ c ≤ 771 then s.translationDefect r fa
  else if c = 196 ∨ c = 197 ∨ c = 960 ∨ c = 962 ∨ c = 963 ∨ c = 964 then
    let jvpc := ((s.team? fa.rid).bind (fun t => (t.gangs[fa.gang]?).bind (fun g => g.splits[fa.split]?.map t.rjvpc))).getD (2 ^ 64 - 1)
    s.terminate fa.rid c 0 fa.gang jvpc
  else s.deliverH r fa

/-! ## Parking on a page (R463) -/

/-- What the instruction of a wait read at issue and does not read again (R13, R60). -/
def Wait.latch (w : Wait) : Option (Nat × Word) :=
  match w with
  | .word _ a _ _ v => some (a, v)
  | .barwt n last => some (n, mkWord last)
  | .haul m => some (m, 0)
  | _ => none

/-- The record of cause 192, whose delivery is F (R422, R462); in a gang with traps masked the cause is not raised (R437). -/
def State.logPark (s : State) (rid gang k addr : Nat) : State :=
  match s.team? rid with
  | none => s
  | some t =>
    match t.gangs[gang]? with
    | none => s
    | some g =>
      if g.handler.isSome then s
      else s.log { cause := 192, task := t.task, team := t.index, gang := gang, jvpc := (g.splits[k]?.map t.rjvpc).getD 0, addr := addr }

/-- A wait inside an interval, which a rollback of its native context gives up (R424). -/
def Wait.inInterval (w : Wait) : Bool :=
  match w with
  | .haul _ | .word _ _ _ _ _ | .barwt _ _ | .asleep _ | .interlock _ | .remote _ _ | .full | .buffer _ => true
  | _ => false

/-- The split is parked on the page: it is ready, or, in native code, its wait has been rolled back. One with a wait of its own stays in it and
is held by its gang (R463). -/
def Split.toPark (sp : Split) (native : Bool) : Bool :=
  sp.used && (sp.wait == .ready || (native && sp.snap.isSome && !sp.performing && sp.wait.inInterval))

/-- The splits of a gang are parked with the wait, and the page remembers its first parked access. -/
def State.parkGang (s : State) (rid gang k : Nat) (w : Wait) : State :=
  match w.causedBy k with
  | .page asid vbase cause addr =>
    let native := ((s.team? rid).bind (fun t => (t.gangs[gang]?).map t.runsNative)).getD false
    let s0 := if native then s.dropReads rid gang else s
    let s1 := s0.updTeam rid (fun t => t.updGang gang (fun g =>
      let g := if native then g.rollbackAll else g
      { g with splits := g.splits.map (fun sp =>
          if sp.toPark native then { sp with wait := .page asid vbase cause addr, waitStart := s.ptp } else sp) }))
    let s1 := s1.logPark rid gang k addr
    { s1 with pages := s1.pages.map (fun p =>
        if p.asid = asid ∧ p.vbase = vbase then { p with parked := some (p.parked.getD s.ptp) } else p) }
  | .full =>
    let counted := ((s.split? rid gang k).map (fun sp => sp.stalled)).getD false
    let s1 := if counted then s else (s.updTeam rid (fun t => { t with haulStall := t.haulStall + 1 })).updSplit rid gang k
      (fun sp => { sp with tally := { sp.tally with hstall := satAdd sp.tally.hstall 1 } })
    s1.updSplit rid gang k (fun sp => { sp with wait := w, waitStart := if sp.stalled then sp.waitStart else s.ptp, stalled := true })
  | _ => s.updSplit rid gang k (fun sp => { sp with wait := w, waitStart := if sp.latched.isSome then sp.waitStart else s.ptp,
                                                            latched := w.latch.orElse (fun _ => sp.latched) })

/-! ## Return from a handler (R435) -/

/-- The state in which tret places a native context is its snapshot from then on: a later rollback goes back to it (R435, R439). -/
def Split.resnap (sp : Split) (regs : NatRegs) : Split :=
  { sp with snap := sp.snap.map (fun n =>
      { n with mask := sp.mask, fmt := sp.fmt, sig := sp.sig, lr := sp.lr, flight := sp.tailings, regs := regs }) }

/-- The wait of a handler's end for its frame (R435): for the migration of a page in HBM, or for a package in recovery. -/
def State.frameWait (s : State) (t : Team) (g : Gang) : Option Wait :=
  match g.handler with
  | some h => (match s.access t.asid h.frame false with | .park w => some w | _ => none)
  | none => none

/-- What a reset package has not performed is asked for again when its gang's handler is left: of a native context at once, of a JV context by the
instruction, where the handler returns to it, for the lanes that have not been performed (R194, R484) [72, DEDUCED]. -/
def State.remakeLost (s : State) (t : Team) (gang : Nat) (splits : List Split) : State :=
  let mine := s.lostReqs.filter (fun q => q.rid == t.rid && q.gang == gang)
  if mine.isEmpty then s
  else
    let others := s.lostReqs.filter (fun q => !(q.rid == t.rid && q.gang == gang))
    if t.native then { s with faceReqs := s.faceReqs ++ mine, lostReqs := others }
    else { s with lostReqs := others ++ mine.filter (fun q => ((splits[q.split]?).map (fun sp => sp.pc)) = some q.pc) }

/-- End of a handler: FLG, FMT and SIG from the frame, each split at its resume point, traps unmasked. cleared are lanes
that left by exit in the handler (R436). The other splits have stood still, but for their waits. -/
def State.leaveHandler (s : State) (rid gang : Nat) (cleared : Mask) : State :=
  match s.team? rid with
  | none => s
  | some t =>
    match t.gangs[gang]? with
    | none => s
    | some g =>
      match g.handler with
      | none => s
      | some h =>
        let s1 := s.dropFrame t.core t.asid h.frame
        match s1.access t.asid h.frame false with
        | .raise c => s1.terminate rid 961 c gang ((g.splits[h.split]?.map t.rjvpc).getD 0)
        | .park w => s1.updSplit rid gang h.split (fun sp => { sp with wait := w, waitStart := s.ptp })
        | .ok flat =>
          let rd (off n : Nat) : Nat := s1.mem.readLE (flat + off) n
          let restore (k : Nat) (was now : Split) : Split :=
            if !was.used then Split.unused
            else
              let sp := if k = h.split then { was with mask := was.mask &&& ~~~cleared, sinceSel := now.sinceSel } else now
              { sp with fmt := mkWord (rd (64 + 64 * k + 16) 8 % 2 ^ 24 / 2 ^ 16 * 2 ^ 16 + rd (64 + 64 * k + 16) 8 % 2 ^ 14)
                        sig := mkWord (rd (64 + 64 * k + 24) 8)
                        wait := s.waitAfter t g sp.wait, stamp := s.now }
          let splits := (List.range 4).map (fun k => restore k (h.saved.getD k Split.unused) (g.splits.getD k Split.unused))
          let back : Gang := g.setRcs (g.rcs.drop (g.rcs.length - h.rcsBase))
          let sel := if t.status == .suspending then h.split else g.selAt
          let g1 : Gang := { back with flg := BitVec.ofNat 6 (rd 32 1), splits := splits, handler := none, selAt := sel }
          let g2 :=
            match t.native, t.natCode with
            | true, some c =>
              (List.range 4).foldl (fun g k =>
                match g.splits[k]? with
                | some sp => (match sp.snap.bind (fun n => n.record) with
                    | some r => if sp.used then (c.valuesOf r).foldl (fun g e => g.toMap t.core.kind k e) g else g
                    | none => g)
                | none => g) g1
            | _, _ => g1
          let g3 := if t.native then { g2 with splits := g2.splits.map (fun sp => sp.resnap g2.nregs) } else g2
          (s1.updTeam rid (fun t => t.updGang gang (fun _ => g3))).remakeLost t gang splits

end Sys2Proof.Machine
end

