-- ==== Sys2Proof/Machine/Flags.lean ====
section
/-! DEFINITION. FMT (R107), FLG (R113) and the flags instructions raise (R158, R305). -/

namespace Sys2Proof.Machine

/-! ## Fields of FMT (R107) -/

def fmtAfmt (f : Word) : Nat := field f 0 4
def fmtBfmt (f : Word) : Nat := field f 4 4
def fmtW16 (f : Word) : Bool := f.getLsbD 8
def fmtBsc (f : Word) : Bool := f.getLsbD 9
def fmtSat (f : Word) : Bool := f.getLsbD 10
def fmtFtz (f : Word) : Bool := f.getLsbD 11
def fmtRnd (f : Word) : Nat := field f 12 2
/-- The signed anchor. -/
def fmtAnchor (f : Word) : Int := sval 8 (BitVec.ofNat 64 (field f 16 8))

/-- The bits of FMT that are not reserved. -/
def fmtMask : Word := 0xFF3FFF

/-- The rounding mode of an instruction: its rm field, or FMT.rnd where that is 0 (R109, R133). -/
def effRm (fmt : Word) (rm : Nat) : Nat := if rm = 0 then fmtRnd fmt else rm - 1

/-- The open context: the state around it, its team, gang and split, and how a native slot operation's result lands. -/
structure View where
  s : State
  t : Team
  g : Gang
  k : Nat
  sp : Split
  /-- A native slot operation executes. -/
  native : Bool
  /-- Exposed latency of its result; none for an interlocked result (R290, R293). -/
  lat : Option Nat
  /-- Nominal clocks of an interlocked result, and the time before which one that missed L1 does not come (R293, R294). -/
  near : Nat := 1
  due : Nat := 0
  /-- The issue slot of a native operation (R430). -/
  slot : Nat := 0
deriving DecidableEq, Repr

/-- The registers that a native operation reads: as they stand, or as they stood when its commit bundle issued (R277). -/
def View.nread (v : View) : NatRegs := (v.sp.stage.map (fun x => x.regs)).getD v.g.nregs
/-- LR as an operation reads it. -/
def View.lrNow (v : View) : BitVec 32 := (v.sp.stage.map (fun x => x.lr)).getD v.sp.lr

/-- RRB as an operation's vector names are rotated by (R297, R298). -/
def View.rrbNow (v : View) : Nat := (v.sp.stage.map (fun x => x.rrb)).getD v.sp.rrb

/-- Raise sticky flags: into FLG, or held until the commit point on the native machine (R158, R305). -/
def View.flag (v : View) (f : Flags) : View :=
  if f = 0 then v
  else if v.native then { v with sp := { v.sp with held := v.sp.held ||| BitVec.ofNat 6 f } }
  else { v with g := { v.g with flg := v.g.flg ||| BitVec.ofNat 6 f } }

/-- FLG as rdsr reads it: ORed with the held flags of every context of the gang (R305). -/
def View.flg (v : View) : BitVec 6 :=
  (v.g.splits.set v.k v.sp).foldl (fun f sp => if sp.used then f ||| sp.held else f) v.g.flg

end Sys2Proof.Machine
end

