-- ==== Sys2Proof/Machine/Operands.lean ====
section
/-! DEFINITION. Operand forms of both encodings (R129 to R132, R155, R156, R283, R284), the checks every instruction shares
(R447, R448, R452), and the execution of one instruction around its own effect (R154, R226). -/

namespace Sys2Proof

/-- The register n places on (tiles, notify pairs, origins). -/
def Operand.shift (o : Operand) (i : Nat) : Operand :=
  match o with
  | .reg n e => .reg (n + i) e
  | .vx n => .vx (n + i)
  | .vy n => .vy (n + i)
  | .vl n => .vl (n + i)
  | .sreg n => .sreg (n + i)
  | o => o

/-- The JV register number an operand names, for causes 131, 137 and 384 (R449). -/
def Operand.regNum (o : Operand) : Nat :=
  match o with
  | .reg n _ => n
  | .tile n => n
  | _ => 0

/-- The guard as an operand, with its sense (R135, R280). -/
def Form.guard (f : Form) : Operand × Bool :=
  match f with
  | .jv g =>
    (match g.guard with
     | .always => (.pconst true, false)
     | .direct n => (.reg n false, g.gneg)
     | .wide n => (.reg n false, g.gneg))
  | .nat g => (.preg g.g.toNat, g.gn)

/-- The length of the instruction in bytes (R126). -/
def Form.bytes (f : Form) : Nat :=
  match f with
  | .jv g => 8 * (1 + g.d.escapes + g.a.escapes + g.b.escapes + if g.hasMod then 1 else 0)
  | .nat _ => 0

/-- sigset and chksig do not step SIG. -/
def Op.stepsSig (o : Op) : Bool :=
  match o with
  | .sigset | .chksig => false
  | _ => true

def Form.slot (f : Form) : Nat := match f with | .jv _ => 0 | .nat g => g.slot
def Form.isNat (f : Form) : Bool := match f with | .jv _ => false | .nat _ => true

/-- The class 1 condition of a form (R445, R451): raised whatever E is. -/
def Form.problem (o : Op) (f : Form) : Option Problem :=
  match f with
  | .jv g => Problem.first (g.problems o)
  | .nat g => Problem.first (g.problems o)

end Sys2Proof

namespace Sys2Proof.Machine

/-- What every meaning of an encoded instruction answers. -/
abbrev Result := Host.Outcome State Fault Refusal

/-! ## The open context -/

/-- The context cur names [6, DESIGN CHOICE]. -/
def View.open (s : State) : Option View := do
  let c ← s.cur
  let t ← s.team? c.rid
  let g ← t.gangs[c.gang]?
  let sp ← g.splits[c.split]?
  some { s := s, t := t, g := g, k := c.split, sp := sp, native := t.runsNative g, lat := none }

/-- The number of the gang in its team. -/
def View.gang (v : View) : Nat := (v.s.cur.map (fun c => c.gang)).getD 0

/-- Put the context back. -/
def View.close (v : View) : State :=
  let g := { v.g with splits := v.g.splits.set v.k v.sp }
  { v.s with teams := updFirst (fun t => t.rid == v.t.rid) (fun _ => { v.t with gangs := v.t.gangs.set v.gang g }) v.s.teams }

/-- The team with the open context put back. -/
def View.team (v : View) : Team :=
  { v.t with gangs := v.t.gangs.set v.gang { v.g with splits := v.g.splits.set v.k v.sp } }

/-- Go on with a changed team. -/
def View.onTeam (v : View) (f : Team → Team) : View :=
  let t := f v.team
  let g := t.gangs.getD v.gang v.g
  { v with t := t, g := g, sp := g.splits.getD v.k v.sp }

/-- Go on with a changed machine. -/
def View.onState (v : View) (f : State → State) : View :=
  let s := f v.close
  match s.team? v.t.rid with
  | none => { v with s := s }
  | some t =>
    let g := t.gangs.getD v.gang v.g
    { v with s := s, t := t, g := g, sp := g.splits.getD v.k v.sp }

/-- Where a fault of this context is raised. -/
def View.faultAt (v : View) : FaultAt := { rid := v.t.rid, gang := v.gang, split := v.k }

/-- The JV declaration of a register number. -/
def View.decl (v : View) (n : Nat) : Option DeclKind := (declAt v.t.kern.decls n 0).map (fun x => x.1)

/-- The value of a JV register (R37): 0 at gang creation. -/
def View.jreg (v : View) (n : Nat) : JvVal := Tab.get (JvVal.uni 0) v.g.jregs n

/-! ## Reading operands -/

/-- A literal read in a type (R132): exact for integers, cvt under RNE for floating types. -/
def litVal (ty : Nat) (i : Int) : Word :=
  if ty < 8 then ofInt (tyWidth ty) i
  else if ty = 11 ∨ ty = 12 then
    let h := (cvtF (if ty = 11 then 8 else 9) 0 false (Ex.ofInt i)).1
    BitVec.ofNat 64 (h + h * 2 ^ 16)
  else BitVec.ofNat 64 (cvtF ty 0 false (Ex.ofInt i)).1

/-- The lane value of a vector register of the native machine, a pair for 64 bits (R284, R297): the named register and the next one, the name
being odd or the pair lying across the rotating base too, for which the spec gives no other effect [87, DESIGN CHOICE]. -/
def View.vec (v : View) (base n w l : Nat) : Word :=
  let one (m : Nat) : Word :=
    let p := rotate v.t.core.kind v.rrbNow m
    laneOf (v.nread.getLoc v.t.core.kind (base + p)) l
  if w = 64 then BitVec.ofNat 64 (uval 32 (one n) + uval 32 (one (n + 1)) * 2 ^ 32) else one n

/-- The operand read by lane l, as ty's low bits. The scalar register behind s63, which a notify pair of s63 would name, reads 0
[87, DESIGN CHOICE]. -/
def View.rd (v : View) (o : Operand) (ty l : Nat) : Word :=
  let w := tyWidth ty
  lowBits w <|
    match o with
    | .reg n _ => (match v.jreg n with | .lane x => laneOf x l | .uni x => x | .pred _ => 0)
    | .lit x => litVal ty x.toInt
    | .imm _ x => x
    | .nimm i => litVal ty i
    | .vx n => v.vec 0 n w l
    | .vy n => v.vec 64 n w l
    | .vl n => v.vec 0 n w l
    | .sreg n => Tab.get 0 v.nread.sr n
    | .lr => v.lrNow.zeroExtend 64
    | .rrb => BitVec.ofNat 64 v.rrbNow
    | _ => 0

/-- A uniform operand, or what a lane register holds in the lowest lane of the mask. -/
def View.rdU (v : View) (o : Operand) (ty : Nat) : Word := v.rd o ty ((lanesOf v.sp.mask).headD 0)

/-- A predicate operand as a mask over the gang. -/
def View.rdP (v : View) (o : Operand) : Mask :=
  match o with
  | .reg n _ => (match v.jreg n with | .pred m => m | _ => 0)
  | .pconst b => if b then BitVec.allOnes 32 else 0
  | .preg n => if n = 0 then BitVec.allOnes 32 else Tab.get 0#32 v.nread.pr n
  | _ => 0

/-- The operand has one value for the gang (R156). -/
def View.isUni (v : View) (o : Operand) : Bool :=
  match o with
  | .reg n _ => (match v.decl n with | some (.lane _) | some .pred | some .acc => false | _ => true)
  | .vx _ | .vy _ | .vl _ | .preg _ => false
  | .sys n => n != 0
  | _ => true

/-- The operand is a lane register. -/
def View.isLane (v : View) (o : Operand) : Bool :=
  match o with
  | .reg n _ => (match v.decl n with | some (.lane _) => true | _ => false)
  | .vx _ | .vy _ | .vl _ => true
  | _ => false

/-- The team tile a JV operand names: the k-th .acc register (R233). -/
def View.tileNum (v : View) (o : Operand) : Nat :=
  match o with
  | .reg n _ => (match declAt v.t.kern.decls n 0 with | some (.acc, k) => k | _ => 0)
  | _ => 0

/-! ## Writing results -/

/-- What a result narrower than its native register leaves in the upper bits (R284). -/
def extendTo (ty : Nat) (x : Word) : Word :=
  if ty = 0 ∨ ty = 2 ∨ ty = 4 then ofInt 64 (sval (tyWidth ty) x) else lowBits (tyWidth ty) x

/-- The location code of a register name, after rotation (R290, R317). -/
def View.locOf (v : View) (o : Operand) : Nat :=
  match o with
  | .vx n => rotate v.t.core.kind v.rrbNow n
  | .vy n => 64 + rotate v.t.core.kind v.rrbNow n
  | .vl n => rotate v.t.core.kind v.rrbNow n
  | .sreg n => 128 + n
  | .preg n => 192 + n
  | .lr => 208
  | _ => 512

/-- A native result on its way: exposed with its latency, or interlocked (R290, R293). The count of an exposed one falls at the
boundary of its own bundle already, so that it then is that of R520. -/
def View.emit (v : View) (loc : Nat) (lanes : Mask) (value : Lanes) : View :=
  match v.lat with
  | some n =>
    { v with sp := { v.sp with flight := v.sp.flight ++ [{ loc := loc, lanes := lanes, value := value, remain := n, seq := v.sp.sinceCommit }] } }
  | none => { v with sp := { v.sp with loads := v.sp.loads ++ [{ loc := loc, lanes := lanes, value := value, remain := v.near, due := v.due }] } }

/-- A JV register takes a value, in some lanes of it; whole granules lose their poison (R471). -/
def Gang.setJreg (g : Gang) (n : Nat) (wide : Bool) (m : Mask) (x : JvVal) : Gang :=
  Gang.cleared { g with jregs := Tab.set (JvVal.uni 0) g.jregs n x } (1024 + n) wide m

/-- Write lane results to the lanes of E, of ty's width. A 64-bit result in a pair of vector registers is two exposed results, and counts as two
under R310 [87, DESIGN CHOICE]. -/
def View.putLanes (v : View) (o : Operand) (ty : Nat) (e : Mask) (f : Nat → Word) : View :=
  let w := tyWidth ty
  match o with
  | .reg n _ =>
    let old := match v.jreg n with | .lane x => x | _ => zeroLanes
    let new := tab32 (fun l => if e.getLsbD l then lowBits w (f l) else laneOf old l)
    { v with g := v.g.setJreg n (w == 64) e (.lane new) }
  | .none => v
  | _ =>
    let half (h : Bool) : Lanes := tab32 (fun l =>
      if h then lowBits 32 (f l >>> 32) else lowBits 32 (extendTo ty (lowBits w (f l))))
    let v1 := v.emit (v.locOf o) e (half false)
    if w = 64 then v1.emit (v.locOf (Operand.shift o 1)) e (half true) else v1

/-- Write one value to a uniform register [11, DESIGN CHOICE]. -/
def View.putUni (v : View) (o : Operand) (ty : Nat) (x : Word) : View :=
  match o with
  | .reg n _ => { v with g := v.g.setJreg n true (BitVec.allOnes 32) (.uni (lowBits (tyWidth ty) x)) }
  | .none => v
  | .sreg n =>
    let v1 := v.emit (128 + n) (BitVec.allOnes 32) [extendTo ty x]
    { v1 with sp := { v1.sp with wrote := if v1.sp.wrote.contains n then v1.sp.wrote else n :: v1.sp.wrote } }
  | .lr => v.emit 208 (BitVec.allOnes 32) [lowBits 32 x]
  | _ => v

/-- Write a value result: once to a uniform register, else in every lane of E (R154). -/
def View.put (v : View) (o : Operand) (ty : Nat) (e : Mask) (f : Nat → Word) : View :=
  if v.isLane o then v.putLanes o ty e f else v.putUni o ty (f ((lanesOf e).headD 0))

/-- Write a predicate result in the lanes of E; p0 ignores writes (R280). -/
def View.putPred (v : View) (o : Operand) (e : Mask) (m : Mask) : View :=
  match o with
  | .reg n _ =>
    let old := match v.jreg n with | .pred x => x | _ => 0
    { v with g := v.g.setJreg n true (if e = BitVec.allOnes 32 then e else 0) (.pred ((old &&& ~~~e) ||| (m &&& e))) }
  | .preg n => if n = 0 then v else v.emit (192 + n) e [m.zeroExtend 64]
  | _ => v

/-- The native locations of a value result of width w, low half first; none in JV code. -/
def View.locsOf (v : View) (o : Operand) (w : Nat) : List Nat :=
  match o with
  | .vx _ | .vy _ | .vl _ => if w = 64 then [v.locOf o, v.locOf (o.shift 1)] else [v.locOf o]
  | .sreg _ | .lr => [v.locOf o]
  | _ => []

/-- A result that comes after its instruction: into the register, LR among them, and, on the native machine, the snapshot too (R281, R305). -/
def Gang.putLate (g : Gang) (kind : CoreKind) (k : Nat) (d : Operand) (locs : List Nat) (ty : Nat) (lanes : Mask)
    (uniform once : Bool) (f : Nat → Word) : Gang :=
  let w := tyWidth ty
  match locs, d with
  | [], .reg n _ =>
    if uniform then g.setJreg n true (BitVec.allOnes 32) (.uni (lowBits w (f ((lanesOf lanes).headD 0))))
    else
      let old := match Tab.get (JvVal.uni 0) g.jregs n with | .lane x => x | _ => zeroLanes
      let new := tab32 (fun l => if lanes.getLsbD l then lowBits w (f l) else laneOf old l)
      g.setJreg n (w == 64) lanes (.lane new)
  | [], _ => g
  | lo :: hi, _ =>
    let x (l : Nat) : Word := extendTo ty (lowBits w (f l))
    let one : Word := x ((lanesOf lanes).headD 0)
    let parts : List (Nat × Mask × Lanes) :=
      if 128 ≤ lo then [(lo, BitVec.allOnes 32, [one])]
      else (lo, lanes, tab32 (fun l => lowBits 32 (x l))) :: (hi.take 1).map (fun h => (h, lanes, tab32 (fun l => lowBits 32 (x l >>> 32))))
    let g1 := parts.foldl (fun (g : Gang) p => g.setLoc kind k p.1 p.2.1 p.2.2) g
    if once then
      g1.updSplit k (fun sp => { sp with snap := sp.snap.map (fun n =>
        { n with regs := parts.foldl (fun (r : NatRegs) p => r.put kind p.1 p.2.1 p.2.2) n.regs
                 lr := if lo = 208 then one.truncate 32 else n.lr }) })
    else if 128 ≤ lo ∧ lo < 192 then
      g1.updSplit k (fun sp => { sp with wrote := if sp.wrote.contains (lo - 128) then sp.wrote else (lo - 128) :: sp.wrote })
    else g1

/-! ## The checks every instruction shares (R447, R448, R452) -/

/-- The place of a cause's class in the order of R448, then its detail. -/
def causeRank (c : Nat) : Nat :=
  let place := match c / 64 with
    | 1 => 0 | 8 => 1 | 7 => 2 | 2 => 3 | 6 => 4 | 5 => 5 | 3 => 6 | 13 => 7 | _ => 8
  place * 64 + c % 64

/-- The first of several conditions (R448); among equals the one found first, which is that of the lowest lane. -/
def Raise.first : List Raise → Option Raise
  | [] => none
  | r :: rs =>
    match Raise.first rs with
    | none => some r
    | some q => if causeRank r.cause ≤ causeRank q.cause then some r else some q

/-- Every source that the instruction reads is uniform (R156). -/
def View.allUni (v : View) (r : Roles) (a : Args) : Bool :=
  let one (role : Role) (o : Operand) : Bool :=
    match role with
    | .src _ | .srcUni _ | .optUni _ | .base | .baseUni | .srcPred | .member _ => v.isUni o
    | _ => true
  one r.a a.a && one r.b a.b && one r.c a.c

def r133 : Raise := { cause := 133, info := 0, addr := 0 }

/-- A JV value operand of width w: declared (137), a value (137), of that width (131). -/
def View.valCheck (v : View) (o : Operand) (w : Nat) : List Raise :=
  match o with
  | .reg n _ =>
    (match v.decl n with
     | some (.lane x) | some (.uni x) => if x = w then [] else [{ cause := 131, info := n, addr := 0 }]
     | _ => [{ cause := 137, info := n, addr := 0 }])
  | _ => []

/-- A predicate operand (137) [60, DEDUCED]. -/
def View.predCheck (v : View) (o : Operand) : List Raise :=
  match o with
  | .reg n _ => (match v.decl n with | some .pred => [] | _ => [{ cause := 137, info := n, addr := 0 }])
  | .lit _ | .imm _ _ => [{ cause := 137, info := 0, addr := 0 }]
  | _ => []

/-- Cause 133 for an operand that may be no uniform register. -/
def View.noUni (v : View) (o : Operand) : List Raise :=
  match o with
  | .none | .sys _ => []
  | .reg n _ => (match v.decl n with | some (.uni _) => [r133] | _ => [])
  | _ => if v.isLane o then [] else [r133]

/-- What an operand raises in its role [59, DEDUCED] [98, DESIGN CHOICE]. -/
def View.roleCheck (v : View) (allUni lane : Bool) (role : Role) (o : Operand) : List Raise :=
  let noLane : List Raise := if v.isLane o then [r133] else []
  let noUni := v.noUni o
  match role with
  | .unused | .label | .optLabel | .number | .selector => []
  | .dst w => v.valCheck o w ++ (if allUni then [] else noUni)
  | .dstMov w => v.valCheck o w ++ (if allUni then [] else noUni) ++ (if o == .sys 9 && lane then [r133] else [])
  | .dstAny w => v.valCheck o w
  | .dstLane w => v.valCheck o w ++ noUni
  | .dstUni w => v.valCheck o w ++ noLane
  | .dstPred | .srcPred => v.predCheck o
  | .src w => v.valCheck o w
  | .srcUni w | .optUni w => v.valCheck o w ++ noLane
  | .labelOrUni => v.valCheck o 64 ++ noLane
  | .base => v.valCheck o 64
  | .baseUni => v.valCheck o 64 ++ noLane
  | .acc | .accSrc =>
    (match o with
     | .reg n _ => (match v.decl n with | some .acc => [] | _ => [{ cause := 384, info := n, addr := 0 }])
     | .tile _ => []
     | _ => [{ cause := 384, info := 0, addr := 0 }])
  | .member _ | .memberDst _ => []
  | .notify => v.valCheck o 64 ++ v.valCheck (o.shift 1) 64 ++ noLane
      ++ (if v.isLane (o.shift 1) then [r133] else [])
  | .origin => v.valCheck o 32 ++ noLane
  | .count => v.valCheck o 64 ++ noLane

/-- The shared conditions of an instruction's operands and guard. -/
def View.operandChecks (v : View) (r : Roles) (a : Args) (g : Operand) : List Raise :=
  let check := v.roleCheck (v.allUni r a) (v.isLane a.a)
  v.predCheck g ++ check r.d a.d ++ check r.a a.a ++ check r.b a.b ++ check r.c a.c

/-- The width of a value in a role, and the number of registers from the first on that it takes. -/
def roleSpan (r : Role) (a : Args) : Nat × Nat :=
  match r with
  | .dst w | .dstAny w | .dstLane w | .dstUni w | .dstMov w | .src w | .srcUni w | .optUni w => (w, 1)
  | .member _ => (32, 32)
  | .memberDst _ => (32, 32)
  | .notify => (64, 2)
  | .origin => (32, 1)
  | .labelOrUni | .count => (64, 1)
  | .base | .baseUni => (if a.spc = 3 then 64 else 32, 1)
  | _ => (32, 1)

/-- Registers from one member of a tile to the next: a 64-bit lane value takes a pair of native registers (R284, R288). -/
def memberStep (o : Operand) (ty : Nat) : Nat :=
  match o with
  | .vx _ | .vy _ | .vl _ => if tyWidth ty = 64 then 2 else 1
  | _ => 1

/-- An operand's register holds a poisoned granule in the lanes read (R471). -/
def View.poisonIn (v : View) (w : Nat) (m : Mask) (o : Operand) : Bool :=
  let hit (key : Nat) (m : Mask) : Bool := Tab.get 0#32 v.g.regPoison key &&& m != 0
  match o with
  | .reg n _ => hit (1024 + n) (match v.decl n with | some (.lane _) => m | _ => BitVec.allOnes 32)
  | .vx _ | .vy _ | .vl _ => hit (v.locOf o) m || (w == 64 && hit (v.locOf (o.shift 1)) m)
  | .sreg _ | .preg _ => hit (v.locOf o) (BitVec.allOnes 32)
  | _ => false

/-- The registers that an operand of a source role names hold poison. -/
def View.rolePoison (v : View) (op : Op) (a : Args) (m : Mask) (r : Role) (o : Operand) : Bool :=
  match r with
  | .src _ | .srcUni _ | .optUni _ | .srcPred | .base | .baseUni | .labelOrUni | .member _ | .notify | .origin | .count =>
    let q := roleSpan r a
    let step := match o with | .vx _ | .vy _ | .vl _ => if q.1 = 64 then 2 else 1 | _ => 1
    let n := if op = .movi then memberStep a.a a.ty * a.off.toNat else q.2
    (List.range n).any (fun i => v.poisonIn q.1 m (o.shift (step * i)))
  | _ => false

/-- A register read that meets a poisoned granule consumes it (R472): of any source, the guard and the sources in the D field among them
[54, DEDUCED]. -/
def View.regCheck (v : View) (o : Op) (a : Args) (g : Operand) (e : Mask) : List Raise :=
  let r := o.roles a.ty a.sub
  if v.g.regPoison.isEmpty then []
  else if v.poisonIn 32 v.sp.mask g || v.rolePoison o a e r.d a.d || v.rolePoison o a e r.a a.a || v.rolePoison o a e r.b a.b
      || v.rolePoison o a e r.c a.c || v.poisonIn 64 e a.kreg then [{ cause := 256, info := 261, addr := 0 }]
  else []

/-! ## One instruction around its own effect -/

/-- How an instruction's own effect ends. -/
inductive Out where
  /-- Complete; the PC moves to the fall-through. -/
  | done (v : View)
  /-- Complete; the effect has set the PC. -/
  | jump (v : View)
  /-- Not performed yet: the context waits, and the instruction is executed again. -/
  | park (v : View) (w : Wait)
  | raise (r : Raise)
  /-- Complete, with a cause raised after it (trap). -/
  | raiseAfter (v : View) (r : Raise)
  /-- Complete, with further work on the whole state. -/
  | state (s : State)

def rotl64 (n : Nat) (x : Word) : Word := x.rotateLeft n

/-- The x of a JV instruction's SIG step (R226), ok being 1. -/
def sigX (o : Op) (ty : Nat) : Word :=
  BitVec.ofNat 64 ((((o.code.1 * 64 + o.code.2) * 16 + ty) * 2 ^ 46) + 1)

/-- One SIG step (R226) [15, DEDUCED]. -/
def sigStep (sig x : Word) : Word := rotl64 13 sig ^^^ x

/-- SIG and the count of issued instructions after this one; the native machine steps SIG by sigadv only (R533). -/
def View.stepSig (v : View) (o : Op) (ty : Nat) : View :=
  if v.native || !o.stepsSig then v else { v with sp := { v.sp with sig := sigStep v.sp.sig (sigX o ty) } }

/-- The instruction's operations that a reset package has not performed, where it is executed again for them (R194, R484) [72, DEDUCED]. -/
def View.lost (v : View) (q : FaceReq) : Bool :=
  !v.native && v.g.handler.isNone && q.rid == v.t.rid && q.gang == v.gang && q.split == v.k && q.pc == v.sp.pc

/-- The instruction has completed: counters (R54, R232) and, in JV code, one commit point. -/
def View.complete (v0 : View) : View :=
  if v0.native then v0
  else
    let v := if v0.s.lostReqs.isEmpty then v0 else v0.onState (fun s => { s with lostReqs := s.lostReqs.filter (fun q => !v0.lost q) })
    { v with g := { v.g with issued := v.g.issued + 1 }
             sp := { v.sp with sinceSel := v.sp.sinceSel + 1, sinceCommit := 0, latched := none, tileLog := [], tilePos := 0 } }

def View.advance (v : View) (n : Nat) : View :=
  if v.native then v else { v with sp := { v.sp with pc := (v.sp.pc + n) % 2 ^ 56 } }

/-- What the first condition does. Cause 192 is never delivered: the gang is parked on the page (R463). A raise of a native slot operation is kept until
the bundle has been judged (R448); a JV raise is delivered, and an instruction that had waited is issued anew if it is reached again (R13, R426). -/
def View.fail (v : View) (slot : Nat) (r : Raise) : State :=
  if r.cause = 192 then
    match v.s.access v.t.asid r.addr false with
    | .park w => v.close.parkGang v.t.rid v.gang v.k w
    | _ => v.close
  else if v.native then
    { v with sp := { v.sp with raised := match v.sp.raised with
        | some (q, k) => some (if slot < k then (r, slot) else (q, k))
        | none => some (r, slot) } }.close
  else
    { v with sp := { v.sp with latched := none } }.close.deliver r { v.faultAt with npc := Config.nativePc v.t.kern.handle v.t.core.kind v.sp.pc }

/-- info of a class 1 cause (R449). -/
def classOne (p : Problem) : Raise := { cause := p.cause, info := p.bit + p.word * 64, addr := 0 }

/-- Native latencies of exposed results (R294), 1 for integer results into LR (R299); none for interlocked ones. -/
def exposedLat (o : Op) (ty : Nat) (sl : Slot) (kind : CoreKind) (toLr : Bool) : Option Nat :=
  let d := kind == .dcore
  let pick (x y : Nat) : Option Nat := some (if d then x else y)
  match o with
  | .mul | .mulhi | .mad | .dp4 => if toLr then pick 1 1 else if sl == .s then pick 2 1 else pick 4 2
  | .div | .rem => if toLr then pick 1 1 else pick 14 8
  | .rdsr | .getfmt | .query | .qkind => pick 1 1
  | .shfl | .vote | .matchLanes | .elect => pick 4 3
  | .redux | .scan => if tyIsFloat ty then pick 14 8 else pick 8 6
  | .xcut => pick 8 6
  | .movx => pick 2 2
  | .frcp | .frsq | .fex2 | .flg2 => pick 8 5
  | .fdiv | .fsqrt => pick 14 8
  | _ =>
    let op := o.code.1
    if op ≤ 4 then (if sl == .s then pick 1 1 else pick 2 1)
    else if op ≤ 7 then pick 4 2
    else none

/-- Nominal clocks of an interlocked result that comes without delay (R294). -/
def nominalLat (o : Op) (a : Args) (kind : CoreKind) : Nat :=
  let pick (x y : Nat) : Nat := match kind with | .dcore => x | .lcore => y
  match o with
  | .ld | .ldu => if a.spc = 2 then pick 6 4 else pick 20 16
  | .prfrd | .htest => pick 4 6
  | .ptime => pick 120 240
  | _ => 1

/-- The causes judged whatever the lanes (R447) [53, DEDUCED]. -/
def structural (c : Nat) : Bool := decide (448 ≤ c ∧ c ≤ 450) || c == 452 || c == 517 || c == 518

/-- The open context as a form's operation finds it: in which encoding, and how its result lands. -/
def View.enter (v : View) (o : Op) (f : Form) : View :=
  { v with native := f.isNat
           lat := match f with
             | .jv _ => none
             | .nat g => exposedLat o (f.args o).ty (slotOf g.kind g.slot) g.kind ((f.args o).d == .lr)
           near := match f with
             | .jv _ => 1
             | .nat g => nominalLat o (f.args o) g.kind
           due := 0
           slot := f.slot }

/-- E: the lanes of the split's mask that the guard lets execute (R154); of an instruction that is executed again for the operations that were lost on
their way, the lanes of these (R194) [72, DEDUCED]. -/
def View.active (v : View) (f : Form) : Mask :=
  let gd := Form.guard f
  let gm := v.rdP gd.1
  let e := v.sp.mask &&& (if gd.2 then ~~~gm else gm)
  let again := v.s.lostReqs.filter v.lost
  if again.isEmpty then e else e &&& maskOf (fun l => again.any (fun q => q.parts.any (fun x => x.1 == l)))

/-- The conditions judged before the effect, when some lane executes (R447, R452 to R456) [30, DEDUCED]. -/
def View.conditions (v : View) (o : Op) (f : Form) (checks : View → Args → Mask → List Raise) : List Raise :=
  let a := f.args o
  (if o = .pref then [] else v.operandChecks (o.roles a.ty a.sub) a (Form.guard f).1 ++ v.regCheck o a (Form.guard f).1 (v.active f))
  ++ checks v a (v.active f)

/-- The conditions judged when no lane executes: the structural ones, and a guard register that is no predicate, whose value no
rule gives (R447, R452). [30, DEDUCED] [53, DEDUCED] -/
def View.idleConditions (v : View) (o : Op) (f : Form) (checks : View → Args → Mask → List Raise) : List Raise :=
  (if o = .pref then [] else v.predCheck (Form.guard f).1) ++ (checks v (f.args o) 0).filter (fun x => structural x.cause)

/-- The instruction is complete and the PC moves to its fall-through. -/
def View.retire (v : View) (f : Form) : State := (v.complete.advance f.bytes).close

/-- Execute one encoded instruction in the open context: class 1, E, the shared checks, its own conditions, its effect,
then SIG, the counters and the PC. With no executing lane it has no effect of its own: a guarded store is then no store of R309, and neither
meets nor counts down an alias-detection entry [87, DESIGN CHOICE]. -/
def runOp (o : Op) (f : Form) (s : State) (checks : View → Args → Mask → List Raise) (body : View → Args → Mask → Out) :
    Host.Outcome State Fault Refusal :=
  match View.open s with
  | none => .fault .noContext
  | some v0 =>
    let v := v0.enter o f
    let a := f.args o
    match Form.problem o f with
    | some p => .next (v.fail f.slot (classOne p))
    | none =>
      let e := v.active f
      if e = 0 then
        match Raise.first (v.idleConditions o f checks) with
        | some x => .next (v.fail f.slot x)
        | none => .next ((v.stepSig o a.ty).retire f)
      else
        match Raise.first (v.conditions o f checks) with
        | some x => .next (v.fail f.slot x)
        | none =>
          match body (v.stepSig o a.ty) a e with
          | .done w => .next (w.retire f)
          | .jump w => .next w.complete.close
          | .park w x => .next (({ w with sp := { w.sp with sig := v.sp.sig, tilePos := v.sp.tilePos } }.close).parkGang v.t.rid v.gang v.k x)
          | .raise x => .next (v.fail f.slot x)
          | .raiseAfter w x =>
            let w1 := w.complete.advance f.bytes
            let npc := if v.native then BitVec.ofNat 64 (v.sp.pc - bundleBytes v.t.core.kind) else Config.nativePc v.t.kern.handle v.t.core.kind v.sp.pc
            .next (w1.close.deliver x { w1.faultAt with after := true, slot := f.slot, npc := npc })
          | .state t => .next t

/-- No conditions of its own. -/
def noChecks : View → Args → Mask → List Raise := fun _ _ _ => []

end Sys2Proof.Machine
end

