-- ==== Sys2Proof/Machine/IntArith.lean ====
section
/-! DEFINITION. Integer arithmetic (R161, R162). -/

namespace Sys2Proof.Machine


/-- The range of an integer type (R98). -/
def tyMin (ty : Nat) : Int := if tySigned ty then -(2 ^ (tyWidth ty - 1) : Nat) else 0
def tyMax (ty : Nat) : Int := if tySigned ty then (2 ^ (tyWidth ty - 1) : Nat) - 1 else (2 ^ tyWidth ty : Nat) - 1

/-- A pattern read in an integer type. -/
def tyVal (ty : Nat) (x : Word) : Int := if tySigned ty then sval (tyWidth ty) x else (uval (tyWidth ty) x : Int)

/-- wrap, or fit under .sat (R162). -/
def fitInt (ty : Nat) (sat : Bool) (v : Int) : Word :=
  ofInt (tyWidth ty) (if sat then satInt v (tyMin ty) (tyMax ty) else v)

/-- A result computed lane by lane from the operand patterns. -/
def valBody (f : Args → Word → Word → Word → Word) (v : View) (a : Args) (e : Mask) : Out :=
  .done (v.put a.d a.ty e (fun l => f a (v.rd a.a a.ty l) (v.rd a.b a.ty l) (v.rd a.c a.ty l)))

/-- A result computed from the operands' integer values. -/
def intBody (f : Args → Int → Int → Int → Word) : View → Args → Mask → Out :=
  valBody (fun a x y z => f a (tyVal a.ty x) (tyVal a.ty y) (tyVal a.ty z))

/-- a / b truncated toward zero, with the borderline results of R162. -/
def divInt (ty : Nat) (a b : Int) : Int :=
  if b = 0 then -1 else if tySigned ty ∧ a = tyMin ty ∧ b = -1 then tyMin ty else a.tdiv b

def remInt (ty : Nat) (a b : Int) : Int :=
  if b = 0 then a else if tySigned ty ∧ a = tyMin ty ∧ b = -1 then 0 else a - b * a.tdiv b

/-- The four byte products of dp4, signed under I32 (R162). -/
def dp4Sum (ty : Nat) (x y : Word) : Int :=
  [0, 1, 2, 3].foldl (fun s k =>
    let b (z : Word) : Int := let n := BitVec.ofNat 64 (field z (8 * k) 8); if ty = 4 then sval 8 n else uval 8 n
    s + b x * b y) 0

def execAdd (f : Form) (s : State) : Result :=
  runOp .add f s noChecks (intBody (fun a x y _ => fitInt a.ty (a.sub == 1) (x + y)))
def execSub (f : Form) (s : State) : Result :=
  runOp .sub f s noChecks (intBody (fun a x y _ => fitInt a.ty (a.sub == 1) (x - y)))
def execMul (f : Form) (s : State) : Result :=
  runOp .mul f s noChecks (intBody (fun a x y _ => fitInt a.ty false (x * y)))
def execMulhi (f : Form) (s : State) : Result :=
  runOp .mulhi f s noChecks (intBody (fun a x y _ => fitInt a.ty false ((x * y) / (2 ^ tyWidth a.ty : Nat))))
def execMad (f : Form) (s : State) : Result :=
  runOp .mad f s noChecks (intBody (fun a x y z => fitInt a.ty (a.sub == 1) (x * y + z)))
def execDiv (f : Form) (s : State) : Result :=
  runOp .div f s noChecks (intBody (fun a x y _ => fitInt a.ty false (divInt a.ty x y)))
def execRem (f : Form) (s : State) : Result :=
  runOp .rem f s noChecks (intBody (fun a x y _ => fitInt a.ty false (remInt a.ty x y)))
def execMin (f : Form) (s : State) : Result :=
  runOp .min f s noChecks (intBody (fun a x y _ => fitInt a.ty false (if x ≤ y then x else y)))
def execMax (f : Form) (s : State) : Result :=
  runOp .max f s noChecks (intBody (fun a x y _ => fitInt a.ty false (if x ≤ y then y else x)))
def execAbs (f : Form) (s : State) : Result :=
  runOp .abs f s noChecks (intBody (fun a x _ _ => fitInt a.ty false x.natAbs))
def execNeg (f : Form) (s : State) : Result :=
  runOp .neg f s noChecks (intBody (fun a x _ _ => fitInt a.ty false (-x)))
def execDp4 (f : Form) (s : State) : Result :=
  runOp .dp4 f s noChecks (valBody (fun a x y z => fitInt a.ty (a.sub == 1) (tyVal a.ty z + dp4Sum a.ty x y)))
def execLea (f : Form) (s : State) : Result :=
  runOp .lea f s noChecks (intBody (fun a x y _ => fitInt a.ty false (x + y * (2 ^ a.sub : Nat))))

end Sys2Proof.Machine
end

