-- ==== Sys2Proof/Machine/MovePred.lean ====
section
/-! DEFINITION. Move, select, compare and predicates (R165 to R169). -/

namespace Sys2Proof.Machine

/-- A comparison named by sub of setp (R139, R168). -/
def cmpInt (sub : Nat) (x y : Int) : Bool :=
  match sub with
  | 0 => x == y
  | 1 => x != y
  | 2 => decide (x < y)
  | 3 => decide (x ≤ y)
  | 4 => decide (y < x)
  | _ => decide (y ≤ x)

/-- A predicate result from predicate operands. -/
def predBody (f : Mask → Mask → Mask → Mask) (v : View) (a : Args) (e : Mask) : Out :=
  .done (v.putPred a.d e (f (v.rdP a.a) (v.rdP a.b) (v.rdP a.c)))

/-- mov copies a pattern, a predicate, or the flags into FLG (R158, R165). -/
def movBody (v : View) (a : Args) (e : Mask) : Out :=
  if a.ty = 15 then predBody (fun x _ _ => x) v a e
  else if a.d = .sys 9 then .done { v with g := { v.g with flg := (v.rdU a.a a.ty).truncate 6 } }
  else valBody (fun _ x _ _ => x) v a e

/-- movi: the tile lies within the kernel's registers and off is 1 to 256 (R453). -/
def moviChecks (v : View) (a : Args) (e : Mask) : List Raise :=
  let n := a.off
  let member (l : Nat) : Operand := a.a.shift (uval 32 (v.rd a.b 5 l) % n.toNat)
  let read := (lanesOf e).flatMap (fun l => v.valCheck (member l) (tyWidth a.ty))
  if n < 1 ∨ 256 < n then
    { cause := 132, info := (lanesOf e).headD 0 + 128, addr := n.toNat } :: (if n < 1 then v.valCheck a.a (tyWidth a.ty) else read)
  else match a.a with
    | .reg r _ => (if declTotal v.t.kern.decls < r + n.toNat then [{ cause := 137, info := r + n.toNat - 1, addr := 0 }] else []) ++ read
    | _ => []

/-- movi reads member i mod n of a tile (R166). -/
def moviBody (v : View) (a : Args) (e : Mask) : Out :=
  .done (v.put a.d a.ty e (fun l =>
    let i := uval 32 (v.rd a.b 5 l) % a.off.toNat
    v.rd (a.a.shift (memberStep a.a a.ty * i)) a.ty l))

def selBody (v : View) (a : Args) (e : Mask) : Out :=
  let c := v.rdP a.c
  if a.ty = 15 then .done (v.putPred a.d e ((v.rdP a.a &&& c) ||| (v.rdP a.b &&& ~~~c)))
  else .done (v.put a.d a.ty e (fun l => if c.getLsbD l then v.rd a.a a.ty l else v.rd a.b a.ty l))

def setpBody (v : View) (a : Args) (e : Mask) : Out :=
  .done (v.putPred a.d e (maskOf (fun l => cmpInt a.sub (tyVal a.ty (v.rd a.a a.ty l)) (tyVal a.ty (v.rd a.b a.ty l)))))

def execMov (f : Form) (s : State) : Result := runOp .mov f s noChecks movBody
def execMovi (f : Form) (s : State) : Result := runOp .movi f s moviChecks moviBody
def execSel (f : Form) (s : State) : Result := runOp .sel f s noChecks selBody
def execSetp (f : Form) (s : State) : Result := runOp .setp f s noChecks setpBody
def execPand (f : Form) (s : State) : Result := runOp .pand f s noChecks (predBody (fun x y _ => x &&& y))
def execPor (f : Form) (s : State) : Result := runOp .por f s noChecks (predBody (fun x y _ => x ||| y))
def execPxor (f : Form) (s : State) : Result := runOp .pxor f s noChecks (predBody (fun x y _ => x ^^^ y))
def execPnot (f : Form) (s : State) : Result := runOp .pnot f s noChecks (predBody (fun x _ _ => ~~~x))

end Sys2Proof.Machine
end

