-- ==== Sys2Proof/Machine/FloatArith.lean ====
section
/-! DEFINITION. Floating arithmetic, comparison, conversion and packed operations (R170 to R173). -/

namespace Sys2Proof.Machine

/-- A floating function of up to three operands under the rounding mode, giving an exact value and flags. -/
abbrev FloatFn := Nat → Ex → Ex → Ex → Ex × Flags

/-- Results with flags, lane by lane over E, or once for a uniform destination (R154, R158). -/
def flagBody (f : Nat → Nat × Flags) (v : View) (a : Args) (ty : Nat) (e : Mask) : Out :=
  let lanes := if v.isLane a.d || a.d == .none then lanesOf e else (lanesOf e).take 1
  let rs := tab32 (fun l => if lanes.contains l then f l else (0, 0))
  let fl := lanes.foldl (fun acc l => Flags.join acc (rs.getD l (0, 0)).2) 0
  .done ((v.flag fl).put a.d ty e (fun l => BitVec.ofNat 64 (rs.getD l (0, 0)).1))

/-- One element: operands read under FMT.ftz, the function, one rounding (R170, R111). -/
def floatElem (fn : FloatFn) (fmt : Word) (rm ty x y z : Nat) : Nat × Flags :=
  let ftz := fmtFtz fmt
  let r := effRm fmt rm
  let e := fn r (readF ftz ty x) (readF ftz ty y) (readF ftz ty z)
  let c := roundF ty r (fmtSat fmt) ftz e.1
  (c.1, Flags.join e.2 c.2)

/-- A vector floating instruction of OP 0x05 or 0x06. -/
def floatBody (fn : FloatFn) (v : View) (a : Args) (e : Mask) : Out :=
  flagBody (fun l => floatElem fn v.sp.fmt a.rm a.ty (v.rd a.a a.ty l).toNat (v.rd a.b a.ty l).toNat (v.rd a.c a.ty l).toNat) v a a.ty e

/-- x before y for fmin, -0 below +0. -/
def exLt (x y : Ex) : Bool :=
  match x, y with
  | .inf a, .inf b => a && !b
  | .inf a, _ => a
  | _, .inf b => !b
  | .num a m e, .num b n k =>
    if m = 0 ∧ n = 0 then a && !b
    else let q := min e k; decide (scaledTo a m e q < scaledTo b n k q)
  | _, _ => false

/-- fmin and fmax return an operand's encoding (R171). -/
def minMaxElem (isMax : Bool) (fmt : Word) (ty x y : Nat) : Nat × Flags :=
  let ftz := fmtFtz fmt
  let rd (b : Nat) : Nat := if ftz && isSubnormal ty b then (if b / signBit ty % 2 == 1 then signBit ty else 0) else b
  let ex := decodeF ty (rd x)
  let ey := decodeF ty (rd y)
  let fl := if ex.isSig || ey.isSig then 1 else 0
  if ex.isNaN && ey.isNaN then (defaultNaN ty, fl)
  else if ex.isNaN then (rd y, fl)
  else if ey.isNaN then (rd x, fl)
  else if isMax then (if exLt ex ey then rd y else rd x, fl)
  else (if exLt ey ex then rd y else rd x, fl)

def minMaxBody (isMax : Bool) (v : View) (a : Args) (e : Mask) : Out :=
  flagBody (fun l => minMaxElem isMax v.sp.fmt a.ty (v.rd a.a a.ty l).toNat (v.rd a.b a.ty l).toNat) v a a.ty e

/-- fscale: a × 2^b with an integer b; ±0, ±∞ and NaN operands are a's (R170, R171). -/
def fscaleBody (v : View) (a : Args) (e : Mask) : Out :=
  flagBody (fun l =>
    let b := sval 32 (v.rd a.b 4 l)
    let b := if b < -20000 then -20000 else if 20000 < b then 20000 else b
    floatElem (fun _ x _ _ =>
      match x with
      | .num n m k => (if m = 0 then .num n m k else .num n m (k + b), 0)
      | .nan sg => (.nan false, if sg then 1 else 0)
      | .inf n => (.inf n, 0)) v.sp.fmt a.rm a.ty (v.rd a.a a.ty l).toNat 0 0) v a a.ty e

/-- fsetp's comparison and whether it raises invalid (R172). -/
def fcmp (sub : Nat) (x y : Ex) : Bool × Flags :=
  let un := x.isNaN || y.isNaN
  let sig := x.isSig || y.isSig
  let eq := !exLt x y && !exLt y x || (x.isZero && y.isZero)
  let lt := exLt x y && !(x.isZero && y.isZero)
  let base (k : Nat) : Bool := match k with
    | 0 => eq | 1 => !eq | 2 => lt | 3 => lt || eq | 4 => !lt && !eq | _ => !lt
  let inv : Flags := if sig || (un && 2 ≤ sub && sub ≤ 5) then 1 else 0
  (if sub = 12 then !un else if sub = 13 then un
   else if sub < 6 then !un && base sub
   else un || base (sub - 6), inv)

def fsetpBody (v : View) (a : Args) (e : Mask) : Out :=
  let ftz := fmtFtz v.sp.fmt
  let r := tab32 (fun l => fcmp a.sub (readF ftz a.ty (v.rd a.a a.ty l).toNat) (readF ftz a.ty (v.rd a.b a.ty l).toNat))
  let fl := (lanesOf e).foldl (fun acc l => Flags.join acc (r.getD l (false, 0)).2) 0
  .done ((v.flag fl).putPred a.d e (maskOf (fun l => (r.getD l (false, 0)).1)))

/-- The class bit of an encoding (R172). -/
def fclassBits (ty x : Nat) : Nat :=
  match decodeF ty x with
  | .nan sg => if sg then 1 else 2
  | .inf neg => if neg then 4 else 512
  | .num neg m _ =>
    if m = 0 then (if neg then 32 else 64)
    else if isSubnormal ty x then (if neg then 16 else 128)
    else (if neg then 8 else 256)

def fclassBody (v : View) (a : Args) (e : Mask) : Out :=
  .done (v.put a.d 5 e (fun l => BitVec.ofNat 64 (fclassBits a.ty (v.rd a.a a.ty l).toNat)))

/-- frnd's exact value: rounded to an integer, inexact where it changed; a zero result keeps the sign (R172). -/
def frndFn : FloatFn := fun rm x _ _ =>
  match x with
  | .num neg m e =>
    let r := roundNat rm neg m (-e)
    (.num neg r.1 0, if r.2 then 16 else 0)
  | .nan sg => (.nan false, if sg then 1 else 0)
  | .inf n => (.inf n, 0)

/-- frnd: the infinities pass through (R172), so FMT.sat does not touch them. -/
def frndBody (v : View) (a : Args) (e : Mask) : Out :=
  flagBody (fun l =>
    let x := readF (fmtFtz v.sp.fmt) a.ty (v.rd a.a a.ty l).toNat
    let r := frndFn (effRm v.sp.fmt a.rm) x x x
    let c := cvtF a.ty 0 false r.1
    (c.1, Flags.join r.2 c.2)) v a a.ty e

/-- A conversion's source value with the flag of a signalling NaN (R101). -/
def cvtSource (fmt : Word) (src bits : Nat) : Ex × Flags :=
  let x := readF (fmtFtz fmt) src bits
  (x, if x.isSig then 1 else 0)

def fcvtBody (v : View) (a : Args) (e : Mask) : Out :=
  flagBody (fun l =>
    let x := cvtSource v.sp.fmt a.sub (v.rd a.a a.sub l).toNat
    let c := roundF a.ty (effRm v.sp.fmt a.rm) (fmtSat v.sp.fmt) (fmtFtz v.sp.fmt) x.1
    (c.1, Flags.join x.2 c.2)) v a a.ty e

def f2iBody (v : View) (a : Args) (e : Mask) : Out :=
  flagBody (fun l =>
    let x := cvtSource v.sp.fmt a.sub (v.rd a.a a.sub l).toNat
    let c := cvtI (tyMin a.ty) (tyMax a.ty) (effRm v.sp.fmt a.rm) x.1
    ((ofInt (tyWidth a.ty) c.1).toNat, Flags.join x.2 c.2)) v a a.ty e

def i2fBody (v : View) (a : Args) (e : Mask) : Out :=
  flagBody (fun l =>
    roundF a.ty (effRm v.sp.fmt a.rm) (fmtSat v.sp.fmt) (fmtFtz v.sp.fmt) (Ex.ofInt (tyVal a.sub (v.rd a.a a.sub l)))) v a a.ty e

/-- The element type of a packed type (R102). -/
def packedElem (ty : Nat) : Nat := if ty = 11 then 8 else 9

def packedBody (fn : FloatFn) (v : View) (a : Args) (e : Mask) : Out :=
  flagBody (fun l =>
    let x := (v.rd a.a a.ty l).toNat
    let y := (v.rd a.b a.ty l).toNat
    let z := (v.rd a.c a.ty l).toNat
    let el (k : Nat) : Nat × Flags :=
      floatElem fn v.sp.fmt a.rm (packedElem a.ty) (x / 2 ^ (16 * k) % 2 ^ 16) (y / 2 ^ (16 * k) % 2 ^ 16) (z / 2 ^ (16 * k) % 2 ^ 16)
    ((el 0).1 + (el 1).1 * 2 ^ 16, Flags.join (el 0).2 (el 1).2)) v a a.ty e

/-- The sum of two exact products and a third term, with one rounding left to do (R173). -/
def dotSum (rm : Nat) (p q c : Ex) : Ex × Flags :=
  let inv := if c.isSig then 1 else 0
  if p.isNaN || q.isNaN || c.isNaN then (.nan false, inv)
  else
    let r := (p.add rm q).1.add rm c
    let i := match p, q, c with
      | .inf a, .inf b, .inf d => a != b || a != d
      | .inf a, .inf b, _ => a != b
      | .inf a, _, .inf d => a != d
      | _, .inf b, .inf d => b != d
      | _, _, _ => false
    if i then (.nan false, 1)
    else if r.1.isZero then
      (.zero (if p.isZero && q.isZero && c.isZero && p.neg? == q.neg? && q.neg? == c.neg? then p.neg? else rm = 3), 0)
    else (r.1, 0)

def fdot2Body (v : View) (a : Args) (e : Mask) : Out :=
  flagBody (fun l =>
    let t := packedElem a.ty
    let ftz := fmtFtz v.sp.fmt
    let rm := effRm v.sp.fmt a.rm
    let x := (v.rd a.a a.ty l).toNat
    let y := (v.rd a.b a.ty l).toNat
    let pr (k : Nat) : Ex × Flags :=
      (readF ftz t (x / 2 ^ (16 * k) % 2 ^ 16)).mul (readF ftz t (y / 2 ^ (16 * k) % 2 ^ 16))
    let c := readF ftz 10 (v.rd a.c 10 l).toNat
    let d := dotSum rm (pr 0).1 (pr 1).1 c
    let o := roundF 10 rm (fmtSat v.sp.fmt) ftz d.1
    (o.1, Flags.join (Flags.join (pr 0).2 (pr 1).2) (Flags.join d.2 o.2))) v a 10 e

/-- fabs and fneg change the sign bit only (R170). -/
def signBody (neg : Bool) : View → Args → Mask → Out :=
  valBody (fun a x _ _ =>
    let b := signBit a.ty
    let n := x.toNat
    BitVec.ofNat 64 (if neg then (if n / b % 2 = 1 then n - b else n + b) else n % b))

def execFadd (f : Form) (s : State) : Result := runOp .fadd f s noChecks (floatBody (fun rm x y _ => x.add rm y))
def execFsub (f : Form) (s : State) : Result := runOp .fsub f s noChecks (floatBody (fun rm x y _ => x.add rm y.negate))
def execFmul (f : Form) (s : State) : Result := runOp .fmul f s noChecks (floatBody (fun _ x y _ => x.mul y))
def execFfma (f : Form) (s : State) : Result := runOp .ffma f s noChecks (floatBody (fun rm x y z => Ex.fma rm x y z))
def execFmin (f : Form) (s : State) : Result := runOp .fmin f s noChecks (minMaxBody false)
def execFmax (f : Form) (s : State) : Result := runOp .fmax f s noChecks (minMaxBody true)
def execFabs (f : Form) (s : State) : Result := runOp .fabs f s noChecks (signBody false)
def execFneg (f : Form) (s : State) : Result := runOp .fneg f s noChecks (signBody true)
def execFdiv (f : Form) (s : State) : Result := runOp .fdiv f s noChecks (floatBody (fun _ x y _ => x.div y))
def execFsqrt (f : Form) (s : State) : Result := runOp .fsqrt f s noChecks (floatBody (fun _ x _ _ => x.sqrt))
def execFrcp (f : Form) (s : State) : Result := runOp .frcp f s noChecks (floatBody (fun _ x _ _ => (Ex.num false 1 0).div x))
def execFrsq (f : Form) (s : State) : Result := runOp .frsq f s noChecks (floatBody (fun _ x _ _ => x.rsqrt))
def execFex2 (f : Form) (s : State) : Result := runOp .fex2 f s noChecks (floatBody (fun _ x _ _ => x.exp2))
def execFlg2 (f : Form) (s : State) : Result := runOp .flg2 f s noChecks (floatBody (fun _ x _ _ => x.log2))
def execFscale (f : Form) (s : State) : Result := runOp .fscale f s noChecks fscaleBody
def execFsetp (f : Form) (s : State) : Result := runOp .fsetp f s noChecks fsetpBody
def execFclass (f : Form) (s : State) : Result := runOp .fclass f s noChecks fclassBody
def execFrnd (f : Form) (s : State) : Result := runOp .frnd f s noChecks frndBody
def execFcvt (f : Form) (s : State) : Result := runOp .fcvt f s noChecks fcvtBody
def execF2i (f : Form) (s : State) : Result := runOp .f2i f s noChecks f2iBody
def execI2f (f : Form) (s : State) : Result := runOp .i2f f s noChecks i2fBody
def execFadd2 (f : Form) (s : State) : Result := runOp .fadd2 f s noChecks (packedBody (fun rm x y _ => x.add rm y))
def execFmul2 (f : Form) (s : State) : Result := runOp .fmul2 f s noChecks (packedBody (fun _ x y _ => x.mul y))
def execFfma2 (f : Form) (s : State) : Result := runOp .ffma2 f s noChecks (packedBody (fun rm x y z => Ex.fma rm x y z))
def execFdot2 (f : Form) (s : State) : Result := runOp .fdot2 f s noChecks fdot2Body

end Sys2Proof.Machine
end

