-- ==== Sys2Proof/Machine/LaneOps.lean ====
section
/-! DEFINITION. Lane and gang operations and the format register (R174 to R180, R125). -/

namespace Sys2Proof.Machine

/-- The team's own scratch handle for offset 0 (R77). -/
def View.handle (v : View) : Nat := v.t.gen * 2 ^ 20 + v.t.rid * 2 ^ 32 + v.s.hub.config.package * 2 ^ 48

/-- The value of a special operand (R69, R131). -/
def View.special (v : View) (sel l : Nat) : Word :=
  match sel with
  | 0 => BitVec.ofNat 64 l
  | 1 => BitVec.ofNat 64 v.gang
  | 2 => BitVec.ofNat 64 v.t.kern.gangs
  | 3 => BitVec.ofNat 64 v.t.index
  | 4 => BitVec.ofNat 64 v.t.count
  | 5 => BitVec.ofNat 64 v.t.argAddr
  | 6 => BitVec.ofNat 64 v.handle
  | 7 => v.sp.mask.zeroExtend 64
  | 8 => BitVec.ofNat 64 v.k
  | _ => v.flg.zeroExtend 64

def rdsrChecks (v : View) (a : Args) (_ : Mask) : List Raise :=
  if a.a = .sys 0 then v.noUni a.d else []

def rdsrBody (v : View) (a : Args) (e : Mask) : Out :=
  match a.a with
  | .sys n => .done (v.put a.d a.ty e (v.special n))
  | _ => .done v

/-- elect: the first lane of E from s mod 32 on, cyclically (R178). -/
def electLane (e : Mask) (s : Nat) : Nat :=
  ((List.range 32).map (fun i => (s + i) % 32)).find? (fun l => e.getLsbD l) |>.getD 0

def electBody (v : View) (a : Args) (e : Mask) : Out :=
  let s := uval 32 (v.rdU a.a 5)
  .done (v.putPred a.d e (1#32 <<< electLane e s))

/-- vote by mode (R175). -/
def voteBody (v : View) (a : Args) (e : Mask) : Out :=
  let m := v.rdP a.a &&& e
  let all (b : Bool) : Mask := if b then BitVec.allOnes 32 else 0
  match a.sub with
  | 0 => .done (v.put a.d 5 e (fun _ => m.zeroExtend 64))
  | 1 => .done (v.put a.d 5 e (fun _ => BitVec.ofNat 64 (lanesOf m).length))
  | 2 => .done (v.put a.d 5 e (fun _ => BitVec.ofNat 64 ((lanesOf m).headD 32)))
  | 3 => .done (v.putPred a.d e (all (m == e)))
  | 4 => .done (v.putPred a.d e (all (m != 0)))
  | _ => .done (v.putPred a.d e (all (m == 0 || m == e)))

/-- match: the lanes of E with an equal value (R176). -/
def matchBody (v : View) (a : Args) (e : Mask) : Out :=
  let x := tab32 (fun l => v.rd a.a a.ty l)
  let peers (l : Nat) : Mask := maskOf (fun j => e.getLsbD j && laneOf x j == laneOf x l)
  .done (v.put a.d 5 e (fun l =>
    if a.sub = 0 then (peers l).zeroExtend 64 else BitVec.ofNat 64 ((lanesOf (peers l)).headD 0)))

/-- The source lane of shfl, none outside the segment (R174). -/
def shflSource (mode w l : Nat) (b : Word) : Option Nat :=
  let base := l - l % w
  let n := uval 32 b
  match mode with
  | 0 => some (base + n % w)
  | 1 => some (base + (l - base + n) % w)
  | 2 =>
    let j := (l : Int) + sval 32 b
    if (base : Int) ≤ j ∧ j < (base + w : Nat) then some j.toNat else none
  | _ => some (Nat.xor l (n % w))

def shflBody (v : View) (a : Args) (e : Mask) : Out :=
  let w := 32 / 2 ^ (a.sub / 4 % 8)
  let x := tab32 (fun l => v.rd a.a a.ty l)
  .done (v.put a.d a.ty e (fun l =>
    match shflSource (a.sub % 4) w l (v.rd a.b (if a.sub % 4 = 2 then 4 else 5) l) with
    | some j => if e.getLsbD j then laneOf x j else laneOf x l
    | none => laneOf x l))

/-- One combination of redux and scan in TY (R177). -/
def combine (fmt : Word) (rm ty sub x y : Nat) : Nat × Flags :=
  if tyIsFloat ty then
    match sub with
    | 0 => floatElem (fun r a b _ => a.add r b) fmt rm ty x y 0
    | 1 => minMaxElem false fmt ty x y
    | _ => minMaxElem true fmt ty x y
  else
    let a := tyVal ty (BitVec.ofNat 64 x)
    let b := tyVal ty (BitVec.ofNat 64 y)
    let w := tyWidth ty
    (match sub with
     | 0 => (ofInt w (a + b)).toNat
     | 1 => if a ≤ b then x else y
     | 2 => if a ≤ b then y else x
     | 3 => Nat.land x y
     | 4 => Nat.lor x y
     | _ => Nat.xor x y, 0)

/-- A lane's value as redux and scan read it: a NaN is the default NaN, a signalling one raising invalid, and under FMT.ftz a subnormal is a
zero, so that a lane that meets no other gives what R101 and R111 ask of a result [80, DEDUCED]. -/
def laneOperand (fmt : Word) (ty x : Nat) : Nat × Flags :=
  if tyIsFloat ty then
    let e := decodeF ty x
    if e.isNaN then (defaultNaN ty, if e.isSig then 1 else 0)
    else (if fmtFtz fmt && isSubnormal ty x then (if x / signBit ty % 2 == 1 then signBit ty else 0) else x, 0)
  else (x, 0)

/-- The fixed tree of R125 over 2^n lanes from b. -/
def laneTree (op : Nat → Nat → Nat × Flags) (x : Nat → Nat × Flags) (e : Mask) : Nat → Nat → Option Nat × Flags
  | 0, b => if e.getLsbD b then (some (x b).1, (x b).2) else (none, 0)
  | n + 1, b =>
    let lo := laneTree op x e n b
    let hi := laneTree op x e n (b + 2 ^ n)
    match lo.1, hi.1 with
    | none, r => (r, hi.2)
    | r, none => (r, lo.2)
    | some p, some q => let r := op p q; (some r.1, Flags.join (Flags.join lo.2 hi.2) r.2)

/-- The inclusive scan of lane l (R125). -/
def laneScan (op : Nat → Nat → Nat × Flags) (x : Nat → Nat × Flags) (e : Mask) (l : Nat) : Nat × Flags :=
  let step (acc : Option Nat × Nat × Flags) (n : Nat) : Option Nat × Nat × Flags :=
    if (l + 1).testBit n then
      let t := laneTree op x e n acc.2.1
      match acc.1, t.1 with
      | none, r => (r, acc.2.1 + 2 ^ n, Flags.join acc.2.2 t.2)
      | some p, none => (some p, acc.2.1 + 2 ^ n, acc.2.2)
      | some p, some q => let r := op p q; (some r.1, acc.2.1 + 2 ^ n, Flags.join (Flags.join acc.2.2 t.2) r.2)
    else acc
  let r := [5, 4, 3, 2, 1, 0].foldl step (none, 0, 0)
  (r.1.getD 0, r.2.2)

/-- A choice or a reading of the model: [80, DEDUCED]. -/
def reduxBody (v : View) (a : Args) (e : Mask) : Out :=
  let r := laneTree (combine v.sp.fmt a.rm a.ty a.sub) (fun l => laneOperand v.sp.fmt a.ty (v.rd a.a a.ty l).toNat) e 5 0
  .done ((v.flag r.2).put a.d a.ty e (fun _ => BitVec.ofNat 64 (r.1.getD 0)))

def scanBody (v : View) (a : Args) (e : Mask) : Out :=
  flagBody (laneScan (combine v.sp.fmt a.rm a.ty a.sub) (fun l => laneOperand v.sp.fmt a.ty (v.rd a.a a.ty l).toNat) e) v a a.ty e

/-- setfmt: FMT under a mask, reserved bits 0 (R180). -/
def setfmtBody (v : View) (a : Args) (_ : Mask) : Out :=
  let m := if a.b = .none then BitVec.allOnes 64 else v.rdU a.b 7
  .done { v with sp := { v.sp with fmt := ((v.sp.fmt &&& ~~~m) ||| (v.rdU a.a 7 &&& m)) &&& fmtMask } }

def getfmtBody (v : View) (a : Args) (e : Mask) : Out := .done (v.put a.d 7 e (fun _ => v.sp.fmt))

def execRdsr (f : Form) (s : State) : Result := runOp .rdsr f s rdsrChecks rdsrBody
def execElect (f : Form) (s : State) : Result := runOp .elect f s noChecks electBody
def execVote (f : Form) (s : State) : Result := runOp .vote f s noChecks voteBody
def execMatchLanes (f : Form) (s : State) : Result := runOp .matchLanes f s noChecks matchBody
def execShfl (f : Form) (s : State) : Result := runOp .shfl f s noChecks shflBody
def execRedux (f : Form) (s : State) : Result := runOp .redux f s noChecks reduxBody
def execScan (f : Form) (s : State) : Result := runOp .scan f s noChecks scanBody
def execSetfmt (f : Form) (s : State) : Result := runOp .setfmt f s noChecks setfmtBody
def execGetfmt (f : Form) (s : State) : Result := runOp .getfmt f s noChecks getfmtBody

end Sys2Proof.Machine
end

