-- ==== Sys2Proof/Machine/Logic.lean ====
section
/-! DEFINITION. Logic and bits (R163, R164). -/

namespace Sys2Proof.Machine

/-- A result computed from the operands' unsigned patterns of w bits. -/
def bitBody (f : Nat → Args → Nat → Nat → Nat → Nat) : View → Args → Mask → Out :=
  valBody (fun a x y z => let w := tyWidth a.ty; BitVec.ofNat 64 (f w a (uval w x) (uval w y) (uval w z) % 2 ^ w))

/-- Number of ones in the low w bits. -/
def onesOf (w x : Nat) : Nat := ((List.range w).filter (fun i => x.testBit i)).length

/-- x with its w bits in reverse order. -/
def revBits (w x : Nat) : Nat := (List.range w).foldl (fun r i => if x.testBit (w - 1 - i) then r + 2 ^ i else r) 0

/-- Position and length of a field descriptor (R164). -/
def fieldPos (w f : Nat) : Nat := Nat.min (f % 256) w
def fieldLen (w f : Nat) : Nat := Nat.min (f / 256 % 256) (w - fieldPos w f)

/-- bfx of R164. -/
def bfxVal (w : Nat) (signed : Bool) (a f : Nat) : Nat :=
  let p := fieldPos w f
  let n := fieldLen w f
  let x := a / 2 ^ p % 2 ^ n
  if signed && 0 < n && x.testBit (n - 1) then x + 2 ^ w - 2 ^ n else x

/-- bfi of R164. -/
def bfiVal (w a b f : Nat) : Nat :=
  let p := fieldPos w f
  let n := fieldLen w f
  a % 2 ^ p + (b % 2 ^ n) * 2 ^ p + a / 2 ^ (p + n) * 2 ^ (p + n)

def execAnd (f : Form) (s : State) : Result := runOp .and f s noChecks (bitBody (fun _ _ x y _ => Nat.land x y))
def execOr (f : Form) (s : State) : Result := runOp .or f s noChecks (bitBody (fun _ _ x y _ => Nat.lor x y))
def execXor (f : Form) (s : State) : Result := runOp .xor f s noChecks (bitBody (fun _ _ x y _ => Nat.xor x y))
def execNot (f : Form) (s : State) : Result := runOp .not f s noChecks (bitBody (fun w _ x _ _ => 2 ^ w - 1 - x))
def execShl (f : Form) (s : State) : Result :=
  runOp .shl f s noChecks (bitBody (fun w _ x y _ => if y < w then x * 2 ^ y else 0))
def execShr (f : Form) (s : State) : Result :=
  runOp .shr f s noChecks (bitBody (fun w _ x y _ => if y < w then x / 2 ^ y else 0))
def execSar (f : Form) (s : State) : Result :=
  runOp .sar f s noChecks (valBody (fun a x y _ =>
    let w := tyWidth a.ty
    ofInt w (sval w x / (2 ^ Nat.min (uval w y) (w - 1) : Nat))))
def execRotl (f : Form) (s : State) : Result :=
  runOp .rotl f s noChecks (bitBody (fun w _ x y _ => let n := y % w; x * 2 ^ n % 2 ^ w + x / 2 ^ (w - n)))
def execPopc (f : Form) (s : State) : Result := runOp .popc f s noChecks (bitBody (fun w _ x _ _ => onesOf w x))
def execClz (f : Form) (s : State) : Result :=
  runOp .clz f s noChecks (bitBody (fun w _ x _ _ => if x = 0 then w else w - 1 - Nat.log2 x))
def execBrev (f : Form) (s : State) : Result := runOp .brev f s noChecks (bitBody (fun w _ x _ _ => revBits w x))
def execBfx (f : Form) (s : State) : Result :=
  runOp .bfx f s noChecks (bitBody (fun w a x y _ => bfxVal w (tySigned a.ty) x y))
def execBfi (f : Form) (s : State) : Result := runOp .bfi f s noChecks (bitBody (fun w _ x y z => bfiVal w x y z))

end Sys2Proof.Machine
end

