-- ==== Sys2Proof/Machine/Teams.lean ====
section
/-! DEFINITION. Team barriers (R57, R58), checkpoints (R473), code a gang may run (R205, R445, R446), and what a gang's
exit does (R47, R57). -/

namespace Sys2Proof.Machine

/-! ## Bundles and branch targets -/

/-- The slot words of the bundle at a native PC. -/
def Team.bundleAt (t : Team) (pc : Nat) : Option (List Word) := do
  let c ← t.natCode
  let b := bundleBytes t.core.kind
  if pc % b = 0 ∧ pc / 8 + b / 8 ≤ c.code.length then some ((c.code.drop (pc / 8)).take (b / 8)) else none

/-- A branch target: its region, or none where no instruction is (cause 515) [27, DEDUCED]. -/
def View.target? (v : View) (pc : Nat) : Option Nat :=
  if v.native then (v.t.bundleAt pc).map (fun _ => 0) else (v.t.codeAt pc).map (fun x => x.1)

/-- The address holds a join (cause 516). -/
def View.isJoin (v : View) (pc : Nat) : Bool :=
  if v.native then
    match v.t.bundleAt pc with
    | some (w :: _) => (match decodeSlot v.t.core.kind 0 w with | .ok (.join, _) => true | _ => false)
    | _ => false
  else
    match v.t.codeAt pc with
    | some (_, ws) => (match decodeJv ws with | .ok .join _ _ => true | _ => false)
    | none => false

/-- Length in bytes of the instruction or bundle at an address. -/
def View.lenAt (v : View) (pc : Nat) : Nat :=
  if v.native then bundleBytes v.t.core.kind
  else match v.t.codeAt pc with
    | some (_, ws) => (match decodeJv ws with | .ok _ _ l => 8 * l | .bad _ l => 8 * l.getD 1)
    | none => 8

/-! ## Waking -/

/-- A context becomes ready now (R55). -/
def Split.wake (sp : Split) (now : Nat) : Split := { sp with wait := .ready, stamp := now }

/-- Wake every context of a team whose wait satisfies p. -/
def Team.wakeIf (t : Team) (now : Nat) (p : Wait → Bool) : Team :=
  { t with gangs := t.gangs.map (fun g => { g with splits := g.splits.map (fun sp =>
      if sp.used && p sp.wait then sp.wake now else sp) }) }

/-! ## Checkpoints (R473) -/

/-- Every context of a native gang at its snapshot, with nothing held in its buffer; one whose commit point is under way stands in it. -/
def Gang.atSnapshots (g : Gang) (native : Bool) : Gang := if native then g.rollbackAll else g

/-- A new epoch: what a rollback restores is every context's snapshot, the tiles, the barriers and the scratch as they are now. -/
def Team.checkpoint (t : Team) : Team :=
  { t with chk := some { gangs := t.gangs.map (fun g => g.atSnapshots (t.runsNative g)), tiles := t.tiles, tileLate := t.tileLate, bars := t.bars
                         scratch := t.scratch, scratchPoison := t.scratchPoison }
           epoch := t.epoch + 1, idempotent := true, consumed := 0, logged := [], loggedTiles := [] }

/-- An escape (R473). -/
def Team.escape (t : Team) : Team := { t with idempotent := false }

/-- Bytes logged in the epoch. -/
def Team.loggedBytes (t : Team) : Nat := t.logged.length * 128 + t.loggedTiles.length * 34816

/-- The poison that the old contents of lines hold as they are logged belongs to them (R474): l are the lines, now is the poison of their space. -/
def Team.logPoison (t : Team) (space : Nat) (l : List (Nat × Nat)) : Team :=
  let inLine (base g : Nat) : Bool := decide (base ≤ 8 * g) && l.contains (space, (8 * g - base) / 128)
  let join (old new : List Nat) : List Nat := new.foldl (fun a g => if a.contains g then a else g :: a) old
  let base := if space % 2 = 0 && space != 0 then 131072 else 0
  let gang := (space - 1) / 2
  let now := if space = 0 then t.scratchPoison else ((t.gangs[gang]?).map (fun g => g.spillPoison)).getD []
  let hit := now.filter (inLine base)
  if hit.isEmpty then t
  else { t with chk := t.chk.map (fun c =>
    if space = 0 then { c with scratchPoison := join c.scratchPoison hit }
    else { c with gangs := (c.gangs.zip (List.range c.gangs.length)).map (fun x =>
      if x.2 = gang then { x.1 with spillPoison := join x.1.spillPoison hit } else x.1) }) }

/-- The old contents of the lines of a write are logged before the first write; beyond 262,144 bytes the epoch is no
longer idempotent. space is 0 for scratch, 1 + 2 g for gang g's spill area, 2 + 2 g for its translation spill area. -/
def Team.logLines (t : Team) (space off n : Nat) : Team :=
  let lines := (List.range ((off + n + 127) / 128 - off / 128)).map (fun i => (space, off / 128 + i))
  let new := lines.foldl (fun l x => if l.contains x then l else x :: l) t.logged
  let t1 : Team := { t.logPoison space (lines.filter (fun x => !t.logged.contains x)) with logged := new }
  if 262144 < t1.loggedBytes then t1.escape else t1

def Team.logTile (t : Team) (k : Nat) : Team :=
  let first := !t.loggedTiles.contains k
  let bad := first && ((t.tiles[k]?).map (fun x => x.poison)).getD false
  let t1 : Team := { t with
    loggedTiles := if first then k :: t.loggedTiles else t.loggedTiles
    chk := if bad then t.chk.map (fun c => { c with tiles := (c.tiles[k]?).elim c.tiles (fun x => c.tiles.set k { x with poison := true }) }) else t.chk }
  if 262144 < t1.loggedBytes then t1.escape else t1

/-! ## Team barriers (R57) -/

def Barrier.initial : Barrier := { phase := 0, kind := none, arrived := [] }
def Team.bar (t : Team) (n : Nat) : Barrier := t.bars.getD n Barrier.initial
/-- Gangs that have not exited. -/
def Team.liveGangs (t : Team) : Nat := (t.gangs.filter (fun g => !g.exited)).length

/-- Lanes of a gang that have not exited. -/
def Gang.live (g : Gang) : Mask := ~~~g.gone

/-- The expected count is reached. -/
def Team.barFull (t : Team) (n : Nat) : Bool :=
  let b := t.bar n
  match b.kind with
  | none => false
  | some none => decide (t.liveGangs ≤ b.arrived.length) && decide (0 < b.arrived.length)
  | some (some k) => decide (k ≤ b.arrived.length)

/-- Complete the phase when its count is reached: clear its arrivals, start the next phase, wake the parked contexts. -/
def Team.tryComplete (t : Team) (now n : Nat) : Team :=
  if t.barFull n then
    let b := t.bar n
    let full := (List.range t.gangs.length).all (fun i => b.arrived.contains i || ((t.gangs[i]?).map (fun g => g.exited)).getD true)
    let bars := t.bars.set n { phase := b.phase + 1, kind := none, arrived := [] }
    let gangs := t.gangs.map (fun (g : Gang) => { g with arrived := Tab.set 0#32 g.arrived n 0 })
    let t1 : Team := { t with bars := bars, gangs := gangs }
    let t2 := t1.wakeIf now (fun w => match w with
      | .bar m p => m == n && p == b.phase
      | .barwt m last => m == n && decide (last ≤ b.phase + 1)
      | _ => false)
    if full then t2.checkpoint else t2
  else t

/-- Lanes that exit complete their gang's arrival at a barrier, which is not of the phase's kind (449) [83, DEDUCED]. -/
def Team.leftClash (t : Team) (gang : Nat) (g : Gang) (n : Nat) : Bool :=
  let k := Tab.get 0 g.arrKind n
  let b := t.bar n
  g.live != 0 && Tab.get 0#32 g.arrived n != 0 && (Tab.get 0#32 g.arrived n &&& g.live == g.live) && !b.arrived.contains gang
    && (match b.kind with | some x => x != (if k = 0 then none else some k) | none => false)

/-- The lanes of a mask execute bar or barar n: whether the gang then arrives. -/
def Gang.wouldArrive (g : Gang) (n : Nat) (m : Mask) : Bool :=
  (Tab.get 0#32 g.arrived n ||| m) &&& g.live == g.live

/-- Arrival at barrier n with a kind (R57): lanes recorded, and the gang's arrival once they are all of it. -/
def Team.arrive (t : Team) (now gang n : Nat) (kind : Option Nat) (m : Mask) : Team :=
  match t.gangs[gang]? with
  | none => t
  | some g =>
    let b := t.bar n
    let here := g.wouldArrive n m
    let phases := if here then Tab.set 0 g.lastPhase n (b.phase + 1) else g.lastPhase
    let g1 : Gang := { g with arrived := Tab.set 0#32 g.arrived n (Tab.get 0#32 g.arrived n ||| m)
                              arrKind := Tab.set 0 g.arrKind n (kind.getD 0), lastPhase := phases }
    let t1 : Team := { t with gangs := t.gangs.set gang g1 }
    if here && !b.arrived.contains gang then
      let b1 : Barrier := { b with kind := some (b.kind.getD kind), arrived := b.arrived ++ [gang] }
      let t2 : Team := { t1 with bars := t1.bars.set n b1 }
      t2.tryComplete now n
    else t1

/-- Lanes that exit leave the barriers at which the rest of their gang has arrived (R57) [83, DEDUCED]. -/
def Team.arriveLeft (t : Team) (now gang : Nat) : Team :=
  (List.range 16).foldl (fun t n =>
    match t.gangs[gang]? with
    | some g =>
      let k := Tab.get 0 g.arrKind n
      if g.live != 0 && Tab.get 0#32 g.arrived n != 0 && g.wouldArrive n 0 then
        t.arrive now gang n (if k = 0 then none else some k) 0
      else t
    | none => t) t

/-- The gang exits: slot, RCS and spill stack go; default counts fall and may complete phases (R47, R57). -/
def Team.gangExit (t : Team) (now gang : Nat) : Team :=
  let clear (sp : Split) : Split := { sp with used := false, mask := 0, wait := .ready }
  let t1 := (t.updGang gang (fun (g : Gang) =>
    { g with exited := true, rcs := [], spill := [], tspill := [], splits := g.splits.map clear })).escape
  (List.range 16).foldl (fun t n => t.tryComplete now n) t1

end Sys2Proof.Machine
end

