-- ==== Sys2Proof/Machine/Control.lean ====
section
/-! DEFINITION. Branches, calls, joins and exit (R41 to R47, R181 to R185), with the mask events of SIG (R226). -/

namespace Sys2Proof.Machine

/-! ## Addresses -/

/-- The address of the executing instruction. A native slot operation finds the PC at its bundle's fall-through, or runs for a bundle
under way. -/
def View.here (v : View) : Nat :=
  if v.native then (v.sp.stage.map (fun x => x.bundle)).getD (v.sp.pc - bundleBytes v.t.core.kind) else v.sp.pc

/-- The address after the executing instruction (R126, R277). -/
def View.fall (v : View) (f : Form) : Nat := if v.native then v.sp.pc else (v.sp.pc + f.bytes) % 2 ^ 56

/-- The address a label names: relative to the instruction, in bytes (R141) or in bundles (R289). -/
def View.label (v : View) (o : Operand) : Nat :=
  match o with
  | .imm _ x => (v.sp.pc + x.toNat) % 2 ^ 56
  | .nimm i => (((v.here : Int) + i * (bundleBytes v.t.core.kind : Nat)) % (2 ^ 56 : Nat)).toNat
  | _ => 0

/-! ## The reconvergence stack -/

/-- The entries a context sees: in a handler, those the handler pushed (R433). -/
def Gang.entries (g : Gang) : List RcsEntry :=
  match g.handler with
  | some h => g.rcs.take (g.rcs.length - h.rcsBase)
  | none => g.rcs

/-- top(k): where the newest entry owned by split k stands. -/
def Gang.top (g : Gang) (k : Nat) : Option Nat := g.entries.findIdx? (fun e => e.owner == k)
/-- The entry split k is the child of. -/
def Gang.childOf (g : Gang) (k : Nat) : Option Nat := g.entries.findIdx? (fun e => e.cv && e.child == k)

/-- The regions open around split k. -/
def openDepth : List RcsEntry → Nat → Nat
  | [], _ => 0
  | e :: r, k =>
    if e.owner = k then 1 + openDepth r k
    else if e.cv && e.child = k then 1 + openDepth r e.owner
    else openDepth r k

/-- Two lane sets that a mask event combines or separates are consistent (R226): disjoint, and not empty but where lanes have left by
exit, which is the normal path of R47 [89, DEDUCED]. -/
def lanesOk (a b gone : Mask) : Bool := (a &&& b) == 0 && (gone != 0 || (a != 0 && b != 0))

def r642 : Raise := { cause := 642, info := 0, addr := 0 }

/-- A diverging branch (R43) of the open split: n leaves for the fall-through; the divergence event steps SIG, and a child
starts with it. -/
def View.diverge (v : View) (n : Mask) (rpc fall fallRegion : Nat) : View :=
  let sp : Split := { v.sp with sig := sigStep v.sp.sig 0x11, mask := v.sp.mask &&& ~~~n }
  let e : RcsEntry := { rpc := rpc, resume := fall, held := n, owner := v.k, child := 0, cv := false, phase := false
                        oarr := false, carr := false, fmt := v.sp.fmt, region := fallRegion, lr := v.sp.lr, rrb := v.sp.rrb }
  let free := (List.range 4).find? (fun j => j != v.k && !((v.g.splits.getD j Split.unused).used))
  match free with
  | some j =>
    let child : Split := { Split.unused with
      used := true, pc := fall, region := fallRegion, mask := n, fmt := v.sp.fmt, sig := sp.sig, sigOff := v.sp.sigOff, ret := v.sp.ret
      stamp := v.s.now, lr := v.sp.lr, rrb := v.sp.rrb }
    let e1 : RcsEntry := { e with held := 0, cv := true, child := j, resume := 0 }
    { v with sp := sp, g := { v.g.setRcs (e1 :: v.g.rcs) with splits := v.g.splits.set j child } }
  | none => { v with sp := sp, g := v.g.setRcs (e :: v.g.rcs) }

/-- Merge the two splits of entry i when both have arrived (R44). -/
def Gang.mergeIfReady (g : Gang) (now i : Nat) : Gang × Nat :=
  match g.rcs[i]? with
  | none => (g, 0)
  | some e =>
    match g.splits[e.owner]?, g.splits[e.child]? with
    | some o, some c =>
      if e.oarr && e.carr then
        let o1 : Split := { o with mask := o.mask ||| c.mask, fmt := e.fmt, sig := sigStep o.sig 0x31, wait := .ready
                                   stamp := now, flight := o.flight ++ c.flight, tailings := o.tailings ++ c.tailings
                                   loads := o.loads ++ c.loads, wrote := o.wrote ++ c.wrote }
        ({ g.setRcs (g.rcs.eraseIdx i) with splits := (g.splits.set e.owner o1).set e.child Split.unused }, e.owner)
      else (g, 4)
    | _, _ => (g, 4)

/-- join at x by split k (R44): the gang, and the split that goes on (4 when none does). next is where a split that
continues goes. -/
def Gang.join (g : Gang) (next : Nat → Nat × Nat) (now k x : Nat) : Gang × Nat :=
  match g.splits[k]? with
  | none => (g, 4)
  | some sp =>
    let moved : Split := { sp with pc := (next x).1, region := (next x).2 }
    let asOwner := (g.top k).bind (fun i => (g.rcs[i]?).bind (fun e => if e.rpc = x then some (i, e) else none))
    match asOwner with
    | some (i, e) =>
      if !e.cv && !e.phase then
        let e1 : RcsEntry := { e with held := sp.mask, phase := true, lr := sp.lr, rrb := sp.rrb }
        let sp1 : Split := { sp with mask := e.held, pc := e.resume, region := e.region, fmt := e.fmt, sig := sigStep sp.sig 0x21 }
        ({ g.setRcs (g.rcs.set i e1) with splits := g.splits.set k sp1 }, k)
      else if !e.cv then
        let sp1 : Split := { moved with mask := sp.mask ||| e.held, fmt := e.fmt, sig := sigStep sp.sig 0x31 }
        ({ g.setRcs (g.rcs.eraseIdx i) with splits := g.splits.set k sp1 }, k)
      else
        let g1 : Gang := { g.setRcs (g.rcs.set i { e with oarr := true }) with splits := g.splits.set k { moved with wait := .join } }
        g1.mergeIfReady now i
    | none =>
      let asChild := if (g.top k).isSome then none
        else (g.childOf k).bind (fun i => (g.rcs[i]?).bind (fun e => if e.rpc = x then some (i, e) else none))
      match asChild with
      | some (i, e) =>
        let g1 : Gang := { g.setRcs (g.rcs.set i { e with carr := true }) with splits := g.splits.set k { moved with wait := .join } }
        g1.mergeIfReady now i
      | none => ({ g with splits := g.splits.set k moved }, k)

/-- A split whose mask is empty acts as a join, again and again; true when the gang has no lane left (R47). -/
def Gang.settle : Nat → (Nat → Nat × Nat) → Nat → Nat → Gang → Gang × Bool
  | 0, _, _, _, g => (g, false)
  | fuel + 1, next, now, k, g =>
    match g.splits[k]? with
    | none => (g, false)
    | some sp =>
      if !sp.used || sp.mask != 0 || sp.wait != .ready then (g, false)
      else
        let at? := ((g.top k).orElse (fun _ => g.childOf k)).bind (fun i => g.rcs[i]?)
        match at? with
        | none => (g, true)
        | some e =>
          let r := g.join next now k e.rpc
          Gang.settle fuel next now r.2 r.1

/-- Where a split goes on after the join at an address. -/
def View.nextOf (v : View) (x : Nat) : Nat × Nat := (x + v.lenAt x, (v.target? x).getD 0)

/-- The open gang with its split put back. -/
def View.gangNow (v : View) : Gang := { v.g with splits := v.g.splits.set v.k v.sp }

/-- Go on with a changed gang. -/
def View.onGang (v : View) (g : Gang) : View := { v with g := g, sp := g.splits.getD v.k v.sp }

/-- The handler of a gang ends; a split whose lanes have all left acts as R47 says (R436). -/
def State.endHandler (s : State) (rid gang : Nat) : State :=
  let cleared := ((s.team? rid).bind (fun t => (t.gangs[gang]?).map (fun g => g.gone))).getD 0
  let k := (((s.team? rid).bind (fun t => t.gangs[gang]?)).bind (fun g => g.handler.map (fun h => h.split))).getD 0
  let s1 := s.leaveHandler rid gang cleared
  match s1.team? rid with
  | none => s1
  | some t =>
    match t.gangs[gang]? with
    | none => s1
    | some g =>
      let v : View := { s := s1, t := t, g := g, k := k, sp := g.splits.getD k Split.unused, native := t.runsNative g, lat := none }
      if g.handler.isSome then s1
      else
        let r := Gang.settle 1100 v.nextOf s1.now k g
        let s2 := s1.updTeam rid (fun t => t.updGang gang (fun _ => r.1))
        if r.2 then s2.updTeam rid (fun t => t.gangExit s1.now gang) else s2

/-- The mask event that a join of split k at x would be is inconsistent (642, R488): the start of held lanes, a second path's close, or a
merge. -/
def Gang.joinBad (g : Gang) (k x : Nat) : Bool :=
  let mask (j : Nat) : Mask := (g.splits.getD j Split.unused).mask
  match (g.top k).bind (fun i => g.rcs[i]?) with
  | some e => e.rpc == x && (if e.cv then e.carr && !lanesOk (mask k) (mask e.child) g.gone else !lanesOk (mask k) e.held g.gone)
  | none =>
    match (g.childOf k).bind (fun i => g.rcs[i]?) with
    | some e => e.rpc == x && e.oarr && !lanesOk (mask e.owner) (mask k) g.gone
    | none => false

/-- A gang that settled: it goes on, or its handler ends, which may have to wait for its frame with nothing done, or it exits (R47, R435,
R436). v0 is the context before the instruction. -/
def View.afterSettle (v0 v : View) (r : Gang × Bool) : Out :=
  let w := v.onGang r.1
  if !r.2 then .jump w
  else if w.g.handler.isSome then
    match v.s.frameWait w.t w.g with
    | some x => .park v0 x
    | none => .state (w.complete.close.endHandler v.t.rid v.gang)
  else .state ((w.complete.onTeam (fun t => t.gangExit v.s.now v.gang)).close)

/-! ## Branches -/

/-- The target of a register in the lane. -/
def View.laneTarget (v : View) (o : Operand) (l : Nat) : Nat := (v.rd o 7 l).toNat

def raise515 (a : Nat) : Raise := { cause := 515, info := a % 2 ^ 32, addr := 0 }
/-- 515 of a target that an executing lane reads from a register: addr holds the operand (R430, R447). -/
def raise515At (a : Nat) : Raise := { raise515 a with addr := a }
def raise516 (a : Nat) : Raise := { cause := 516, info := a % 2 ^ 32, addr := 0 }

/-- Conditions of a branch that pushes n entries (R453): 512 and 516 [18, DEDUCED]. -/
def View.divergeChecks (v : View) (pushes : Nat) (rpc : Operand) : List Raise :=
  if pushes = 0 then []
  else
    (if 1024 < v.g.rcs.length + pushes then [{ cause := 512, info := v.g.rcs.length + pushes, addr := 0 }] else [])
    ++ (if rpc = .none then [raise516 0] else if v.isJoin (v.label rpc) then [] else [raise516 (v.label rpc)])

def braChecks (v : View) (a : Args) (e : Mask) : List Raise :=
  (if (v.target? (v.label a.a)).isNone then [raise515 (v.label a.a)] else [])
  ++ v.divergeChecks (if v.sp.mask &&& ~~~e = 0 then 0 else 1) a.b

/-- Move the open split to an address. -/
def View.goto (v : View) (pc : Nat) : View :=
  { v with sp := { v.sp with pc := pc, region := (v.target? pc).getD 0 } }

def braBody (f : Form) (v : View) (a : Args) (e : Mask) : Out :=
  let n := v.sp.mask &&& ~~~e
  let t := v.label a.a
  if n = 0 then .jump (v.goto t)
  else if !lanesOk e n 0 then .raise r642
  else .jump ((v.diverge n (v.label a.b) (v.fall f) v.sp.region).goto t)

/-- Target groups of a brx by lowest lane (R46): target, region none meaning the fall-through, lanes. -/
def brxGroups (tgt : Nat → Nat) (lanes : List Nat) : List (Nat × Mask) :=
  lanes.foldl (fun gs l =>
    if gs.any (fun x => x.1 == tgt l) then updFirst (fun x => x.1 == tgt l) (fun x => (x.1, x.2 ||| (1#32 <<< l))) gs
    else gs ++ [(tgt l, 1#32 <<< l)]) []

/-- Where each lane of a brx goes. -/
def View.brxTarget (v : View) (f : Form) (a : Args) (e : Mask) (l : Nat) : Nat :=
  if e.getLsbD l then v.laneTarget a.a l else v.fall f

def brxChecks (f : Form) (v : View) (a : Args) (e : Mask) : List Raise :=
  ((lanesOf e).flatMap (fun l =>
    let t := v.laneTarget a.a l
    if (v.target? t).isNone then [raise515At t] else [])).take 1
  ++ v.divergeChecks ((brxGroups (v.brxTarget f a e) (lanesOf v.sp.mask)).length - 1) a.b

def brxBody (f : Form) (v : View) (a : Args) (e : Mask) : Out :=
  let groups := brxGroups (v.brxTarget f a e) (lanesOf v.sp.mask)
  let regionOf (t : Nat) : Nat := if t = v.fall f then v.sp.region else (v.target? t).getD 0
  let v1 := (groups.drop 1).foldl (fun (w : View) g => w.diverge g.2 (v.label a.b) g.1 (regionOf g.1)) v
  match groups with
  | [] => .jump v1
  | g :: _ => .jump { v1 with sp := { v1.sp with pc := g.1, region := regionOf g.1 } }

/-! ## Calls [18, DEDUCED] -/

def callChecks (target : View → Args → Nat) (v : View) (a : Args) (_ : Mask) : List Raise :=
  let t := target v a
  (if 64 ≤ v.sp.ret.length then [{ cause := 513, info := v.sp.ret.length + 1, addr := 0 }] else [])
  ++ (if (v.target? t).isNone then [match a.a with | .imm _ _ | .nimm _ => raise515 t | _ => raise515At t] else [])

def callBody (f : Form) (target : View → Args → Nat) (v : View) (a : Args) (_ : Mask) : Out :=
  let w : View := { v with sp := { v.sp with ret := (v.fall f, v.sp.region, openDepth v.g.entries v.k) :: v.sp.ret } }
  .jump (w.goto (target v a))

/-- A choice or a reading of the model: [18, DEDUCED]. -/
def retChecks (v : View) (_ : Args) (_ : Mask) : List Raise :=
  match v.sp.ret with
  | [] => [{ cause := 514, info := 0, addr := 0 }]
  | (_, _, d) :: _ => if d < openDepth v.g.entries v.k then [{ cause := 517, info := 0, addr := 0 }] else []

def retBody (v : View) (_ : Args) (_ : Mask) : Out :=
  match v.sp.ret with
  | [] => .done v
  | (pc, region, _) :: r => .jump { v with sp := { v.sp with pc := pc, region := region, ret := r } }

/-! ## join and exit -/

/-- Native only: LR and RRB of the two paths a join merges, in two splits or one after the other in one (R300, cause 519). -/
def joinChecks (v : View) (_ : Args) (_ : Mask) : List Raise :=
  let bad (e : RcsEntry) (o c : Nat) : Bool :=
    let so := v.gangNow.splits.getD o Split.unused
    let sc := v.gangNow.splits.getD c Split.unused
    e.cv && e.rpc == v.here && (so.lr != sc.lr || so.rrb != sc.rrb)
  let second (e : RcsEntry) : Bool :=
    !e.cv && e.phase && e.held != 0 && e.rpc == v.here && (v.sp.lr != e.lr || v.sp.rrb != e.rrb)
  let pair : Option (RcsEntry × Bool) := match v.g.top v.k with
    | some i => (v.g.rcs[i]?).map (fun (e : RcsEntry) => (e, second e || (e.carr && bad e v.k e.child)))
    | none => ((v.g.childOf v.k).bind (fun i => v.g.rcs[i]?)).map (fun (e : RcsEntry) => (e, e.oarr && bad e e.owner v.k))
  match pair with
  | some (_, true) => if v.native then [{ cause := 519, info := 0, addr := 0 }] else []
  | _ => []

def joinBody (f : Form) (v : View) (_ : Args) (_ : Mask) : Out :=
  let x := v.here
  let next (y : Nat) : Nat × Nat := if y = x then (v.fall f, v.sp.region) else v.nextOf y
  let r := v.gangNow.join next v.s.now v.k x
  if v.gangNow.joinBad v.k x then .raise r642 else v.afterSettle v (Gang.settle 1100 next v.s.now r.2 r.1)

/-- The lanes that stay make their gang arrive at a barrier where they wait for the others; 449 where its phase is of another kind, and then the
exit is not performed (R57, R454) [83, DEDUCED]. -/
def exitChecks (v : View) (_ : Args) (e : Mask) : List Raise :=
  ((List.range 16).find? (v.t.leftClash v.gang { v.g with gone := v.g.gone ||| e })).toList.map (fun n => { cause := 449, info := n, addr := 0 })

def exitBody (f : Form) (v : View) (_ : Args) (e : Mask) : Out :=
  let sp : Split := { v.sp with mask := v.sp.mask &&& ~~~e, pc := v.fall f }
  let g : Gang := { v.gangNow with gone := v.g.gone ||| e, splits := v.g.splits.set v.k sp }
  let w := (v.onGang g).onTeam (fun t => (t.escape).arriveLeft v.s.now v.gang)
  v.afterSettle w (Gang.settle 1100 w.nextOf v.s.now v.k w.gangNow)

def execBra (f : Form) (s : State) : Result := runOp .bra f s braChecks (braBody f)
def execBrx (f : Form) (s : State) : Result := runOp .brx f s (brxChecks f) (brxBody f)
def execCall (f : Form) (s : State) : Result :=
  runOp .call f s (callChecks (fun v a => v.label a.a)) (callBody f (fun v a => v.label a.a))
def execCallx (f : Form) (s : State) : Result :=
  runOp .callx f s (callChecks (fun v a => (v.rdU a.a 7).toNat)) (callBody f (fun v a => (v.rdU a.a 7).toNat))
def execRet (f : Form) (s : State) : Result := runOp .ret f s retChecks retBody
def execJoin (f : Form) (s : State) : Result := runOp .join f s joinChecks (joinBody f)
def execExit (f : Form) (s : State) : Result := runOp .exit f s exitChecks (exitBody f)

end Sys2Proof.Machine
end

