-- ==== Sys2Proof/Machine/Memory.lean ====
section
/-! DEFINITION. Memory instructions (R191 to R205): addresses, loads, stores, atomics, fences, gathers and codeload, with
the points of performance of R260, the gated store buffer (R304, R306) and the alias-detection table (R308, R309). -/

namespace Sys2Proof

/-- The acquire and release bits of ord, and a scope die or wider (R133). -/
def Args.acq (a : Args) : Bool := a.ord % 2 == 1
def Args.rel (a : Args) : Bool := a.ord / 2 % 2 == 1
def Args.wide (a : Args) : Bool := decide (2 ≤ a.scp)

end Sys2Proof

namespace Sys2Proof.Machine

/-! ## Addresses and their conditions (R191, R455) -/

/-- A lane's address: the base, or 0, plus the offset (R191); a native vector base is 32 bits wide but for die memory
(R284). -/
def View.addr (v : View) (a : Args) (l : Nat) : Nat :=
  let base : Word := match a.a with
    | .none => 0
    | .vx _ | .vy _ | .vl _ => if a.spc = 3 then v.rd a.a 7 l else v.rd a.a 5 l
    | o => v.rd o 7 l
  (base + BitVec.ofInt 64 a.off).toNat

/-- The role in info (R449): 1 with a base, 4 without one. -/
def addrRole (a : Args) : Nat := if a.a = .none then 4 else 1

/-- Bytes of the gang's translation spill area, for native code (R319). -/
def View.spillSize (v : View) : Nat := if v.native then (v.t.natCode.map (fun c => c.spillSize)).getD 0 else 0

/-- An offset of spc 1 lies wholly in the spill area or in the translation spill area. -/
def View.inSpill (v : View) (x n : Nat) : Bool :=
  decide (x + n ≤ 98304) || (decide (131072 ≤ x) && decide (x + n ≤ 131072 + v.spillSize))

/-- What a lane meets at an address of die memory: a condition to raise, or a page in HBM, whose cause 192 is never delivered but has its place
before the others of its class (R448, R455, R463). -/
def View.dmCheck (v : View) (x l : Nat) (write : Bool) : List Raise :=
  let lane := l + (if write then 256 else 0)
  match v.s.access v.t.asid x write with
  | .raise c =>
    let i := if c < 256 then lane
      else match v.s.page? v.t.asid x with
        | some p => p.place.pkg
        | none => 0
    [{ cause := c, info := i, addr := x }]
  | .park (.page _ _ _ _) => [{ cause := 192, info := lane, addr := x }]
  | _ => []

/-- The conditions of one lane's access of n bytes aligned to al. -/
def View.spaceCheck (v : View) (spc x n al l role : Nat) (write : Bool) : List Raise :=
  let info := l + 32 * role
  (if x % al != 0 then [{ cause := 128, info := info, addr := x }] else [])
  ++ (match spc with
      | 1 => if v.inSpill x n then [] else [{ cause := 129, info := info, addr := x }]
      | 2 => if x + n ≤ v.t.scratchSize then [] else [{ cause := 129, info := info, addr := x }]
      | _ =>
        if 2 ^ 56 ≤ x then [{ cause := 130, info := info, addr := x }]
        else v.dmCheck x l write)

/-- The wait an access of one lane meets (R463, R483). -/
def View.parkOf (v : View) (spc x : Nat) (write : Bool) : Option Wait :=
  if spc = 3 then
    match v.s.access v.t.asid x write with
    | .park w => some w
    | _ => none
  else none

/-- The lanes an access is made for: one for a uniform result (R154), else all of E. -/
def View.accessLanes (v : View) (a : Args) (e : Mask) (once : Bool) : List Nat :=
  if once || (a.d != .none && v.isUni a.d) then (lanesOf e).take 1 else lanesOf e

/-- The conditions of an access of n bytes by every lane. -/
def View.laneChecks (v : View) (a : Args) (lanes : List Nat) (n : Nat) (write : Bool) : List Raise :=
  lanes.flatMap (fun l => v.spaceCheck a.spc (v.addr a l) n n l (addrRole a) write)

/-! ## Reading and writing at the point of performance (R85, R260) -/

/-- Read n bytes of one line of die memory. -/
def State.readDm (s : State) (c : CoreId) (asid pol : Nat) (home : Bool) (va n : Nat) : List Byte × State :=
  if home || pol = 1 then s.homeRead c asid va n
  else if pol = 2 then
    let r := s.homeRead c asid va n
    let s1 := r.2.fillLine c asid va
    let core := s1.coreOf c
    (r.1, s1.setCore { core with l1 := updFirst (fun l => l.is asid (va / 128)) (fun l => { l with evictFirst := true }) core.l1 })
  else s.nearRead c asid va n

/-- Write bytes of one line of die memory. -/
def State.writeDm (s : State) (c : CoreId) (asid pol : Nat) (home : Bool) (va : Nat) (bs : List Byte) : State :=
  if home || pol != 0 then s.homeWrite c asid va bs else s.nearWrite c asid va bs

/-- A read of n bytes meets poison: in the core's line, or at the home slice (R471, R472). -/
def State.dmPoison (s : State) (c : CoreId) (asid va n : Nat) (home : Bool) : Bool :=
  let line := (s.coreOf c).l1.find? (fun l => l.is asid (va / 128))
  match home, line with
  | false, some l => (granules (va % 128) n).any (fun g => l.poison.contains g)
  | _, _ => match s.page? asid va with
    | some p => s.poisoned (p.flat va) n
    | none => false

/-- Poison in team scratch or the spill area. -/
def View.nearPoison (v : View) (spc x n : Nat) : Bool :=
  match spc with
  | 1 => (granules x n).any (fun g => v.g.spillPoison.contains g)
  | 2 => (granules x n).any (fun g => v.t.scratchPoison.contains g)
  | _ => false

/-- Bytes of the spill area, the translation spill area or team scratch. -/
def View.nearBytes (v : View) (spc x n : Nat) : List Byte :=
  if spc = 2 then v.t.scratch.readN x n
  else if 131072 ≤ x then v.g.tspill.readN (x - 131072) n
  else v.g.spill.readN x n

/-- The last store of the context that holds a byte of a space in the gated entries: its value and position (R306). -/
def Split.gatedByte (sp : Split) (spc x : Nat) : Option (Byte × Nat) :=
  sp.gated.foldl (fun (r : Option (Byte × Nat)) e =>
    if e.spc = spc ∧ e.line ≤ x ∧ x < e.line + 128 then
      match e.bytes.find? (fun b => e.line + b.1 == x), r with
      | some b, some q => if q.2 ≤ b.2.2 then some b.2 else r
      | some b, none => some b.2
      | none, _ => r
    else r) none

/-- The context's own gated bytes over those of memory, the last store to each byte (R306). -/
def Split.overlay (sp : Split) (spc x : Nat) (bs : List Byte) : List Byte :=
  if sp.gated.isEmpty then bs
  else (bs.zip (List.range bs.length)).map (fun b => ((sp.gatedByte spc (x + b.2)).map (fun q => q.1)).getD b.1)

/-- Store to the spill area or team scratch; the old line is logged first (R473), whole granules lose their poison. -/
def View.nearStore (v : View) (spc x : Nat) (bs : List Byte) : View :=
  let clean (ps : List Nat) : List Nat := if ps.isEmpty then [] else ps.filter (fun g => !(wholeGranules x bs.length).contains g)
  if spc = 2 then
    let t := v.t.logLines 0 x bs.length
    { v with t := { t with scratch := t.scratch.writeN x bs, scratchPoison := clean t.scratchPoison } }
  else if 131072 ≤ x then
    { v with t := v.t.logLines (2 + 2 * v.gang) (x - 131072) bs.length
             g := { v.g with tspill := v.g.tspill.writeN (x - 131072) bs, spillPoison := clean v.g.spillPoison } }
  else
    { v with t := v.t.logLines (1 + 2 * v.gang) x bs.length
             g := { v.g with spill := v.g.spill.writeN x bs, spillPoison := clean v.g.spillPoison } }

/-- A spill stack line is brought into L1. Its bytes are those of the spill stack, which no other party reads [67, DESIGN CHOICE]. -/
def State.bringSpill (s : State) (c : CoreId) (tag vline : Nat) : State :=
  let s1 := s.makeRoom c
  let core1 := s1.coreOf c
  s1.setCore { core1 with l1 := core1.l1 ++ [{ asid := tag, vline := vline, data := [], dirty := [], evictFirst := false
                                               prefetched := false, owner := 0, arrive := 0, poison := [], sick := false }] }

/-- A spill access that misses L1 brings the line in (R86). -/
def View.touchSpill (v : View) (x : Nat) : View :=
  let tag := spillTag v.t.rid v.gang
  if (v.s.coreOf v.t.core).l1.any (fun l => l.is tag (x / 128)) then v
  else v.onState (fun s => s.bringSpill v.t.core tag (x / 128))

/-- Store bytes to a space at their point. -/
def View.store (v : View) (spc pol : Nat) (home : Bool) (x : Nat) (bs : List Byte) : View :=
  if spc = 3 then
    let w := v.onState (fun s => s.writeDm v.t.core v.t.asid pol home x bs)
    { w with t := w.t.escape }
  else if spc = 1 then (v.touchSpill x).nearStore 1 x bs
  else v.nearStore spc x bs

/-- An acquire at scope die or wider drops the core's lines of the ASID; a release writes them back (R261). -/
def View.acquire (v : View) (wide : Bool) : View := if wide then v.onState (fun s => s.invalidateAsid v.t.core v.t.asid) else v
def View.release (v : View) (wide : Bool) : View :=
  if wide then
    let w := v.onState (fun s => s.writeBackAsid v.t.core v.t.asid)
    { w with t := w.t.escape }
  else v

/-! ## Loads (R195) -/

/-- A consumed granule (R472) [54, DEDUCED]. -/
def raise256 (src x : Nat) : Raise := { cause := 256, info := src, addr := x }

/-- The source code of R462 of poison met in a space: scratch, an L1 line, or die memory [54, DEDUCED]. -/
def View.poisonSource (v : View) (spc x : Nat) : Nat :=
  if spc = 2 then 258
  else if spc = 3 && ((v.s.coreOf v.t.core).l1.any (fun l => l.is v.t.asid (x / 128) && !l.poison.isEmpty)) then 259 else 0

/-- Read n bytes of a space for each lane; the values by lane. -/
def View.loadAll (v : View) (a : Args) (lanes : List Nat) (n : Nat) (home : Bool) : View × List (Nat × Word) :=
  lanes.foldl (fun (r : View × List (Nat × Word)) l =>
    let x := v.addr a l
    let get : List Byte × View :=
      if a.spc = 3 then
        let q := r.1.close.readDm v.t.core v.t.asid a.pol home x n
        (q.1, r.1.onState (fun _ => q.2))
      else (r.1.nearBytes a.spc x n, r.1)
    let bs := if v.native then v.sp.overlay a.spc x get.1 else get.1
    (get.2, r.2 ++ [(l, BitVec.ofNat 64 (ofBytesLE bs))])) (v, [])

/-- The value a lane received. -/
def laneVal (vals : List (Nat × Word)) (l : Nat) : Word := ((vals.find? (fun x => x.1 == l)).map (fun x => x.2)).getD 0

/-- The alias-detection entries of a spec load (R308). -/
def View.record (v : View) (a : Args) (lanes : List Nat) (n : Nat) : View :=
  match a.spec with
  | none => v
  | some h =>
    let adt := lanes.foldl (fun (t : List AdtEntry) l =>
      let x := v.addr a l
      let line := x / 128 * 128
      let bs := (List.range n).map (fun i => x - line + i)
      if t.any (fun e => e.spc == a.spc && e.line == line) then
        updFirst (fun e => e.spc == a.spc && e.line == line) (fun e => { e with bytes := e.bytes ++ bs }) t
      else t ++ [{ spc := a.spc, line := line, bytes := bs, count := h }]) []
    { v with sp := { v.sp with adt := v.sp.adt ++ adt } }

/-! ## Long-latency interlocks (R53, R86, R19) -/

/-- ns of a load at a home slice: 60 D-clocks on the core's own die, 140 on another, 700 ns from another package (R86). The spec gives
the 700 ns at nominal clocks; here they do not scale with the clock [90, DESIGN CHOICE]. -/
def State.homeLatency (s : State) (c : CoreId) (pkg die : Nat) : Nat :=
  if pkg ≠ s.hub.config.package then 700
  else (if die = CoreId.die c then 60 else 140) * 1000 / Nat.max 1 s.hub.dclock

/-- The package and die of a virtual address. -/
def State.homeOf (s : State) (asid va : Nat) : Option (Nat × Nat) :=
  match s.page? asid va with
  | some p => (match p.place with
      | .die pkg d _ => some (pkg, d)
      | _ => none)
  | none => none

/-- A miss takes a register, or waits for one (R19): when the line comes [67, DESIGN CHOICE]. -/
def State.takeMiss (s : State) (c : CoreId) (lat : Nat) : Nat × State :=
  let core := s.coreOf c
  let busy := core.misses.filter (fun t => decide (s.now < t))
  if busy.length < missRegisters c.kind then (s.now + lat, s.setCore { core with misses := busy ++ [s.now + lat] })
  else
    let t := busy.foldl Nat.min (busy.headD 0)
    (t + lat, s.setCore { core with misses := busy.erase t ++ [t + lat] })

/-- When one lane's load comes, 0 for a scratch load or an L1 hit; a miss takes a register. The line itself is brought in by the
load. -/
def View.loadTime (v : View) (a : Args) (home : Bool) (x : Nat) : Nat × View :=
  let c := v.t.core
  match a.spc with
  | 1 =>
    let tag := spillTag v.t.rid v.gang
    if (v.s.coreOf c).l1.any (fun l => l.is tag (x / 128)) then (0, v)
    else
      let w := v.touchSpill x
      let m := w.s.takeMiss c (v.s.homeLatency c v.s.hub.config.package v.t.spillDie)
      (m.1, { w with s := m.2 })
  | 3 =>
    let hit := (v.s.coreOf c).l1.any (fun l => l.is v.t.asid (x / 128))
    (match v.s.homeOf v.t.asid x with
     | some (pkg, die) =>
       let lat := v.s.homeLatency c pkg die
       if home || a.pol = 1 then (v.s.now + lat, v)
       else if hit && a.pol = 0 then (0, v)
       else let m := v.s.takeMiss c lat; (m.1, { v with s := m.2 })
     | none => (0, v))
  | _ => (0, v)

/-- When the last of the lanes' loads comes. -/
def View.loadTimes (v : View) (a : Args) (home : Bool) (lanes : List Nat) : Nat × View :=
  let lines := lanes.foldl (fun (ls : List Nat) l => if ls.any (fun y => y / 128 == v.addr a l / 128) then ls else ls ++ [v.addr a l]) []
  lines.foldl (fun (r : Nat × View) x => let q := r.2.loadTime a home x; (Nat.max r.1 q.1, q.2)) (0, v)

/-- Hold a JV context until a time (R53): it is not ready before. On the native machine the end of a commit point waits, and otherwise the
bundle that needs the result. -/
def View.holdUntil (v : View) (time : Nat) : View :=
  if time ≤ v.s.now then v
  else if v.native then
    { v with sp := { v.sp with stage := v.sp.stage.map (fun x => if x.begun then { x with til := Nat.max x.til time } else x) } }
  else { v with sp := { v.sp with wait := .interlock time, waitStart := v.s.ptp, stamp := time } }

/-- The time an access of another package's die memory takes at its home slice, 0 on this package (R53). -/
def View.farTime (v : View) (spc x : Nat) : Nat :=
  if spc = 3 then
    match v.s.homeOf v.t.asid x with
    | some (pkg, die) => if pkg = v.s.hub.config.package then 0 else v.s.now + v.s.homeLatency v.t.core pkg die
    | none => 0
  else 0

def loadChecks (once : Bool) (v : View) (a : Args) (e : Mask) : List Raise :=
  v.laneChecks a (v.accessLanes a e once) (tyBytes a.ty) false

def loadBody (once : Bool) (v : View) (a : Args) (e : Mask) : Out :=
  let lanes := v.accessLanes a e once
  let n := tyBytes a.ty
  let home := a.acq && a.wide
  match lanes.findSome? (fun l => v.parkOf a.spc (v.addr a l) false) with
  | some w => .park v w
  | none =>
    match lanes.find? (fun l => v.nearPoison a.spc (v.addr a l) n
        || (a.spc = 3 && v.s.dmPoison v.t.core v.t.asid (v.addr a l) n (home || a.pol != 0))) with
    | some l => .raise (raise256 (v.poisonSource a.spc (v.addr a l)) (v.addr a l))
    | none =>
      let m := v.loadTimes a home lanes
      let r := (m.2.acquire home).loadAll a lanes n home
      let w := if v.native then r.1.record a lanes n else r.1
      .done (({ w with due := m.1 }.put a.d a.ty e (laneVal r.2)).holdUntil m.1)

/-! ## Stores (R193, R195) and the gated store buffer (R304) -/

/-- Insert a byte at an offset, offsets rising; a later byte replaces an earlier one. -/
def insByte (l : List (Nat × Byte × Nat)) (i : Nat) (b : Byte × Nat) : List (Nat × Byte × Nat) :=
  match l with
  | [] => [(i, b)]
  | (j, c) :: r => if i < j then (i, b) :: (j, c) :: r else if i = j then (i, b) :: r else (j, c) :: insByte r i b

/-- Hold a store in the context's gated entries; one line, space and policy share an entry. -/
def Split.gate (sp : Split) (spc pol x lane : Nat) (bs : List Byte) : Split :=
  let line := x / 128 * 128
  let add (l : List (Nat × Byte × Nat)) : List (Nat × Byte × Nat) :=
    (bs.zip (List.range bs.length)).foldl (fun l b => insByte l (x - line + b.2) (b.1, sp.sinceCommit)) l
  let same (e : Gated) : Bool := e.spc == spc && e.pol == pol && e.line == line
  if sp.gated.any same then { sp with gated := updFirst same (fun e => { e with bytes := add e.bytes }) sp.gated }
  else { sp with gated := sp.gated ++ [{ spc := spc, pol := pol, line := line, bytes := add [], pos := sp.sinceCommit, lane := lane, addr := x }] }

/-- The sequencer of a gang slot (R51). -/
def seqOf (k : CoreKind) (slot : Nat) : Nat := match k with | .dcore => slot % 3 | .lcore => 0

/-- Gated entries that other contexts of the sequencer hold. -/
def View.othersGated (v : View) : Nat :=
  let q := seqOf v.t.core.kind v.g.slot
  (v.close.teams.filter (fun t => t.core == v.t.core && t.onCore)).foldl (fun n t =>
    t.gangs.foldl (fun n g =>
      if seqOf t.core.kind g.slot = q then g.splits.foldl (fun n sp => n + sp.gated.length) n else n) n) 0
  - v.sp.gated.length

/-- Consecutive bytes of an entry joined into runs. -/
def runs : List (Nat × Byte) → List (Nat × List Byte)
  | [] => []
  | (i, b) :: r =>
    match runs r with
    | (j, bs) :: q => if j = i + 1 then (i, b :: bs) :: q else (i, [b]) :: (j, bs) :: q
    | [] => [(i, [b])]

/-- Perform the bytes of a gated entry that one store left there (R305). -/
def View.perform (v : View) (e : Gated) (pos : Nat) : View :=
  (runs ((e.bytes.filter (fun b => b.2.2 == pos)).map (fun b => (b.1, b.2.1)))).foldl (fun w r => w.store e.spc e.pol false (e.line + r.1) r.2) v

/-- Positions of the stores that gated entries hold, in program order. -/
def gatedPositions (l : List Gated) : List Nat :=
  let ps := l.flatMap (fun e => e.bytes.map (fun b => b.2.2))
  (List.range (ps.foldl Nat.max 0 + 1)).filter (fun p => ps.contains p)

/-- The gated entries are performed, in program order (R305). -/
def View.flush (v : View) : View :=
  let w := (gatedPositions v.sp.gated).foldl (fun (w : View) p => v.sp.gated.foldl (fun w e => w.perform e p) w) v
  { w with sp := { w.sp with gated := [] } }

/-- The store meets an alias-detection entry (R309). -/
def AdtEntry.meets (e : AdtEntry) (spc x n : Nat) : Bool :=
  decide (0 < e.count) && e.spc == spc && e.bytes.any (fun b => decide (x ≤ e.line + b) && decide (e.line + b < x + n))

/-- A gated store is checked for its page at the commit point, the other conditions at issue (R424). -/
def storeChecks (v : View) (a : Args) (e : Mask) : List Raise :=
  let rs := v.laneChecks a (lanesOf e) (tyBytes a.ty) true
  if v.native && !a.rel then rs.filter (fun r => r.cause < 192) else rs

/-- The alias-detection entries after one more store (R309). -/
def Split.countStore (sp : Split) : Split := { sp with adt := sp.adt.map (fun d => { d with count := d.count - 1 }) }

/-- A choice or a reading of the model: [11, DESIGN CHOICE]. -/
def storeBody (v : View) (a : Args) (e : Mask) : Out :=
  let n := tyBytes a.ty
  let vals := (lanesOf e).map (fun l => (v.addr a l, toBytesLE n (v.rd a.b a.ty l).toNat, l))
  if v.native && v.sp.adt.any (fun d => vals.any (fun x => d.meets a.spc x.1 n)) then .raise { cause := 770, info := 0, addr := 0 }
  else if v.native && !a.rel then
      let sp1 := vals.foldl (fun (sp : Split) x => sp.gate a.spc a.pol x.1 x.2.2 x.2.1) v.sp.countStore
      if 64 < sp1.gated.length then .raise { cause := 771, info := 0, addr := 0 }
      else if 64 < sp1.gated.length + v.othersGated then .park v (.buffer (sp1.gated.length - v.sp.gated.length))
      else .done { v with sp := sp1 }
  else
    match (lanesOf e).findSome? (fun l => v.parkOf a.spc (v.addr a l) true) with
    | some w => .park v w
    | none =>
      let home := a.rel && a.wide
      let w := vals.foldl (fun w x => w.store a.spc a.pol home x.1 x.2.1) (v.release home)
      let far := vals.foldl (fun t x => Nat.max t (v.farTime a.spc x.1)) 0
      .done ({ w with sp := w.sp.countStore }.holdUntil far)

/-! ## Atomics (R196 to R200) -/

/-- atom.amax (R198). -/
def atomMax (w b : Nat) : Nat :=
  let nan (x : Nat) : Bool := (decodeF 10 x).isNaN
  if nan w && nan b then 0x7FC00000
  else if nan w then b % 2 ^ 31
  else if nan b then w % 2 ^ 31
  else Nat.max (w % 2 ^ 31) (b % 2 ^ 31)

/-- The new word of atom (R197). -/
def atomNew (sub ty : Nat) (w b : Word) : Word :=
  let n := tyWidth ty
  match sub with
  | 0 => lowBits n (w + b)
  | 1 => if tyVal ty b < tyVal ty w then b else w
  | 2 => if tyVal ty w < tyVal ty b then b else w
  | 3 => w &&& b
  | 4 => w ||| b
  | 5 => w ^^^ b
  | 6 => b
  | 7 => BitVec.ofNat 64 (roundF 10 0 false false ((decodeF 10 w.toNat).add 0 (decodeF 10 b.toNat)).1).1
  | 8 => BitVec.ofNat 64 (atomMax w.toNat b.toNat)
  | _ => 0

/-- A face operation on the old word: the new word, none for a read, and the flags it raises (R199, R200). -/
def FaceOp.apply (op : FaceOp) (ty : Nat) (w : Word) : Option Word × Flags :=
  match op with
  | .atom sub b => (some (atomNew sub ty w b), 0)
  | .cas b c => (some (if lowBits (tyWidth ty) w = lowBits (tyWidth ty) b then c else w), 0)
  | .aqadd t => let r := aqAdd (sval 64 w) t; (some (ofInt 64 r.1), r.2)
  | .read => (none, 0)

/-- The word's type: that of TY, and AQ64 for aqadd. -/
def wordTy (o : Op) (ty : Nat) : Nat := if o = .aqadd then 6 else ty

/-- The operation of one lane, with the flags its conversion raises (R200). -/
def View.faceOp (v : View) (o : Op) (a : Args) (l : Nat) : FaceOp × Flags :=
  match o with
  | .cas => (.cas (v.rd a.b a.ty l) (v.rd a.c a.ty l), 0)
  | .aqadd =>
    if a.ty = 6 then (.aqadd (sval 64 (v.rd a.b 6 l)), 0)
    else let r := toAq (decodeF 10 (v.rd a.b 10 l).toNat) (fmtAnchor v.sp.fmt); (.aqadd r.1, r.2)
  | .fgath => (.read, 0)
  | _ => (.atom a.sub (v.rd a.b a.ty l), 0)

/-- The face unit of a virtual address, package and number. -/
def State.unitOf (s : State) (asid va : Nat) : Nat :=
  match s.page? asid va with
  | some p => p.flat va / 2 ^ 32 * 256 + faceUnitOf (p.flat va)
  | none => 0

/-- The native PC of the instruction that executes (R430). -/
def View.npc (v : View) : Word :=
  if v.native then BitVec.ofNat 64 v.here else Config.nativePc v.t.kern.handle v.t.core.kind v.sp.pc

/-- Send the lanes' operations to their face units; the context is not ready until all have answered (R87, R193). -/
def View.toFaceUnits (v : View) (o : Op) (a : Args) (lanes : List Nat) (addr : Nat → Nat) : View :=
  let ops := lanes.map (fun l => (l, addr l, (v.faceOp o a l)))
  let units := ops.foldl (fun us x => let u := v.s.unitOf v.t.asid x.2.1; if us.contains u then us else us ++ [u]) []
  let ty := wordTy o a.ty
  let req (u : Nat) : FaceReq :=
    { unit := u, npc := v.npc, slot := v.slot, pc := v.sp.pc, sigx := if v.native then 0 else sigX o a.ty, rid := v.t.rid, gang := v.gang, split := v.k, d := a.d, locs := v.locsOf a.d (tyWidth ty)
      uniform := a.d != .none && !v.isLane a.d, ty := ty, acq := a.acq && a.wide
      parts := (ops.filter (fun x => v.s.unitOf v.t.asid x.2.1 == u)).map (fun x => (x.1, x.2.1, x.2.2.1))
      epoch := v.t.epoch }
  let v1 := (v.flag (ops.foldl (fun f x => Flags.join f x.2.2.2) 0)).release (a.rel && a.wide)
  { v1 with s := { v1.s with faceReqs := v1.s.faceReqs ++ units.map req }
            sp := { v1.sp with waitStart := v1.s.ptp }
            t := if o = .fgath then v1.t else v1.t.escape }

/-- Perform the lanes' operations at the scratch bank, lane by lane (R88, R193). -/
def View.atBank (v : View) (o : Op) (a : Args) (lanes : List Nat) : View × List (Nat × Word) :=
  let ty := wordTy o a.ty
  let n := tyBytes ty
  lanes.foldl (fun (r : View × List (Nat × Word)) l =>
    let x := v.addr a l
    let old : Word := BitVec.ofNat 64 (ofBytesLE (r.1.nearBytes 2 x n))
    let op := v.faceOp o a l
    let new := op.1.apply ty old
    let w := r.1.flag (Flags.join op.2 new.2)
    (match new.1 with | some y => w.nearStore 2 x (toBytesLE n y.toNat) | none => w, r.2 ++ [(l, old)])) (v, [])

def atomChecks (o : Op) (v : View) (a : Args) (e : Mask) : List Raise :=
  v.laneChecks a (v.accessLanes a e false) (tyBytes (wordTy o a.ty)) true

def atomBody (o : Op) (v : View) (a : Args) (e : Mask) : Out :=
  let lanes := v.accessLanes a e false
  let ty := wordTy o a.ty
  let n := tyBytes ty
  match lanes.findSome? (fun l => v.parkOf a.spc (v.addr a l) true) with
  | some w => .park v w
  | none =>
    match lanes.find? (fun l => v.nearPoison a.spc (v.addr a l) n
        || (a.spc = 3 && v.s.dmPoison v.t.core v.t.asid (v.addr a l) n true)) with
    | some l => .raise (raise256 (v.poisonSource a.spc (v.addr a l)) (v.addr a l))
    | none =>
      if a.spc = 3 then .done (v.toFaceUnits o a lanes (v.addr a))
      else
        let r := (v.release (a.rel && a.wide)).atBank o a lanes
        .done ((r.1.acquire (a.acq && a.wide)).put a.d ty e (laneVal r.2))

/-! ## Gathers, fences and prefetch (R201 to R203) -/

/-- A lane's address under fgath: the uniform base, the offset and the index times the width. -/
def View.gathAddr (v : View) (a : Args) (l : Nat) : Nat :=
  (v.addr a ((lanesOf v.sp.mask).headD 0) + uval 32 (v.rd a.b 5 l) * tyBytes a.ty) % 2 ^ 64

def fgathChecks (v : View) (a : Args) (e : Mask) : List Raise :=
  let lanes := lanesOf e
  let n := tyBytes a.ty
  let block := v.gathAddr a (lanes.headD 0) / 4096
  lanes.flatMap (fun l => v.spaceCheck 3 (v.gathAddr a l) n n l (addrRole a) false)
  ++ (match lanes.find? (fun l => v.gathAddr a l / 4096 != block) with
      | some l => [{ cause := 132, info := l + 32 * addrRole a, addr := v.gathAddr a l }]
      | none => [])
  ++ (if v.native then [] else v.noUni a.b) ++ v.noUni a.d

def fgathBody (v : View) (a : Args) (e : Mask) : Out :=
  let lanes := lanesOf e
  match lanes.findSome? (fun l => v.parkOf 3 (v.gathAddr a l) false) with
  | some w => .park v w
  | none =>
    match lanes.find? (fun l => v.s.dmPoison v.t.core v.t.asid (v.gathAddr a l) (tyBytes a.ty) true) with
    | some l => .raise (raise256 0 (v.gathAddr a l))
    | none => .done (v.toFaceUnits .fgath a lanes (v.gathAddr a))

/-- fence at scope die or wider writes back or drops the lines of the ASID; it changes no register. -/
def fenceBody (v : View) (a : Args) (_ : Mask) : Out :=
  let v1 := if a.wide then { v with t := v.t.escape } else v
  .done ((v1.release (a.rel && a.wide)).acquire (a.acq && a.wide))

/-- Bring one line into the L1, unless R202 drops the request. -/
def State.prefetch (s : State) (c : CoreId) (asid owner pol va : Nat) : State :=
  if (s.coreOf c).l1.any (fun l => l.is asid (va / 128)) then s
  else
    match s.page? asid (va / 128 * 128) with
    | none => s
    | some p =>
      match p.place with
      | .die pkg _ _ =>
        let busy := ((s.coreOf c).misses.filter (fun t => decide (s.now < t))).length
        if pkg != s.hub.config.package || missRegisters c.kind ≤ busy || s.poisoned (p.flat (va / 128 * 128)) 128 then s
        else
          let s1 := s.fillLine c asid va
          let m := s1.takeMiss c (s1.homeLatency c pkg (((s.homeOf asid va).map (fun x => x.2)).getD 0))
          let s1 := m.2
          let core := s1.coreOf c
          let mark (l : L1Line) : L1Line := { l with prefetched := true, owner := owner, arrive := m.1, evictFirst := pol == 2 }
          s1.setCore { core with l1 := updFirst (fun l => l.is asid (va / 128)) mark core.l1 }
      | _ => s

def prefBody (v : View) (a : Args) (e : Mask) : Out :=
  .done (v.onState (fun s => (lanesOf e).foldl (fun s l =>
    let x := v.addr a l
    if x < 2 ^ 56 then s.prefetch v.t.core v.t.asid v.t.rid a.pol x else s) s))

/-! ## codeload (R204, R205) -/

/-- The registers an instruction names lie within the kernel's declarations. -/
def regsDeclared (total : Nat) (o : Op) (f : JvForm) : Bool :=
  let ok (x : Operand) : Bool := match x with | .reg n _ => decide (n < total) | _ => true
  let gd := match f.guard with | .always => true | .direct n => decide (n < total) | .wide n => decide (n < total)
  ok f.d && ok f.a && ok f.b && (f.guard.isWide || ok f.c) && gd && (f.problems o).isEmpty

/-- The byte offset of the first word that is no valid instruction, if any (R456). -/
def regionFault : Nat → Nat → Nat → List Word → Option Nat
  | 0, _, _, _ => none
  | fuel + 1, total, off, ws =>
    match ws with
    | [] => none
    | _ =>
      match decodeJv ws with
      | .ok o (f : JvForm) l =>
        if regsDeclared total o f then regionFault fuel total (off + 8 * l) (ws.drop l) else some off
      | .bad _ _ => some off

/-- The words of a region as they stand. -/
def State.wordsAt (s : State) (asid va n : Nat) : List Word :=
  (List.range (n / 8)).map (fun i => BitVec.ofNat 64 (s.vaLE asid (va + 8 * i) 8))

/-- 64 KiB blocks that n bytes from an address on touch. -/
def blocksOf (va n : Nat) : List Nat :=
  if n = 0 then [] else (List.range ((va + n - 1) / 65536 - va / 65536 + 1)).map (fun i => Nat.max va ((va / 65536 + i) * 65536))

def codeloadChecks (v : View) (a : Args) (e : Mask) : List Raise :=
  let l := (lanesOf e).headD 0
  let x := (v.rdU a.a 7).toNat
  let n := uval 32 (v.rdU a.b 5)
  (if x % 8 != 0 then [{ cause := 128, info := l + 32, addr := x }] else [])
  ++ (if n % 8 != 0 || n < 8 || 1048576 < n then [{ cause := 132, info := l + 64, addr := n }] else [])
  ++ (if 2 ^ 56 ≤ x then [{ cause := 130, info := l + 32, addr := x }]
      else if 1048576 < n then []
      else (blocksOf x n).flatMap (fun y => v.dmCheck y l false))

def codeloadBody (v : View) (a : Args) (_ : Mask) : Out :=
  let x := (v.rdU a.a 7).toNat
  let n := uval 32 (v.rdU a.b 5)
  match (blocksOf x n).findSome? (fun y => v.parkOf 3 y false) with
  | some w => .park v w
  | none =>
    let v1 := v.onState (fun s => s.dropRange v.t.core v.t.asid x n)
    let bad := (List.range (n / 8)).find? (fun i => v1.s.dmPoison v.t.core v.t.asid (x + 8 * i) 8 true)
    match bad with
    | some i => .raise (raise256 0 (x + 8 * i))
    | none =>
      let ws := v1.s.wordsAt v.t.asid x n
      match regionFault (n / 8) (declTotal v.t.kern.decls) 0 ws with
      | some off => .raise { cause := 774, info := off, addr := 0 }
      | none =>
        let w : Wait := .codeload a.d (v.locsOf a.d 32) x ws
        .done { v1 with t := v1.t.escape, sp := { v1.sp with wait := w, waitStart := v.s.ptp } }

def execLd (f : Form) (s : State) : Result := runOp .ld f s (loadChecks false) (loadBody false)
def execSt (f : Form) (s : State) : Result := runOp .st f s storeChecks storeBody
def execLdu (f : Form) (s : State) : Result := runOp .ldu f s (loadChecks true) (loadBody true)
def execAtom (f : Form) (s : State) : Result := runOp .atom f s (atomChecks .atom) (atomBody .atom)
def execCas (f : Form) (s : State) : Result := runOp .cas f s (atomChecks .cas) (atomBody .cas)
def execAqadd (f : Form) (s : State) : Result := runOp .aqadd f s (atomChecks .aqadd) (atomBody .aqadd)
def execFence (f : Form) (s : State) : Result := runOp .fence f s noChecks fenceBody
def execPref (f : Form) (s : State) : Result := runOp .pref f s noChecks prefBody
def execFgath (f : Form) (s : State) : Result := runOp .fgath f s fgathChecks fgathBody
def execCodeload (f : Form) (s : State) : Result := runOp .codeload f s codeloadChecks codeloadBody

end Sys2Proof.Machine
end

