-- ==== Sys2Proof/Machine/Waits.lean ====
section
/-! DEFINITION. Waits and barriers (R57 to R60, R186 to R190). -/

namespace Sys2Proof.Machine

/-- yield restamps its context (R187); the step switches (R54). -/
def yieldBody (v : View) (_ : Args) (_ : Mask) : Out := .done { v with sp := { v.sp with stamp := v.s.now } }

/-- nsleep: at most 10,000,000 ns of PTP time from issue (R188). -/
def nsleepBody (v : View) (a : Args) (_ : Mask) : Out :=
  let n := Nat.min (v.rdU a.a 7).toNat 10000000
  .done { v with sp := { v.sp with wait := .asleep (v.s.ptp + n), waitStart := v.s.ptp } }

/-! ## waita (R189) -/

/-- The watched address, as read at issue (R13). -/
def View.watchAddr (v : View) (a : Args) (e : Mask) : Nat :=
  match v.sp.latched with
  | some (x, _) => x
  | none => v.addr a ((lanesOf e).headD 0)

/-- The value the watched word is compared with, as read at issue (R13). -/
def View.watchValue (v : View) (a : Args) : Word :=
  match v.sp.latched with
  | some (_, u) => u
  | none => v.rdU a.b a.ty

def waitaChecks (v : View) (a : Args) (e : Mask) : List Raise :=
  let l := (lanesOf e).headD 0
  let x := v.watchAddr a e
  let n := tyBytes a.ty
  (if x % n != 0 then [{ cause := 451, info := l, addr := x }] else [])
  ++ (v.spaceCheck a.spc x n n l (addrRole a) false).filter (fun r => r.cause != 128)

/-- The watched word. -/
def View.watched (v : View) (spc x n : Nat) : Word × View :=
  if spc = 3 then
    let r := v.close.homeRead v.t.core v.t.asid x n
    (BitVec.ofNat 64 (ofBytesLE r.1), v.onState (fun _ => r.2))
  else (BitVec.ofNat 64 (ofBytesLE (v.nearBytes 2 x n)), v)

def waitaBody (v : View) (a : Args) (e : Mask) : Out :=
  let x := v.watchAddr a e
  let n := tyBytes a.ty
  let u := v.watchValue a
  match v.parkOf a.spc x false with
  | some w => .park v w
  | none =>
    if v.nearPoison a.spc x n || (a.spc = 3 && v.s.dmPoison v.t.core v.t.asid x n true) then .raise (raise256 (v.poisonSource a.spc x) x)
    else
      let r := v.watched a.spc x n
      if cmpInt a.sub (tyVal a.ty r.1) (tyVal a.ty u) then
        let far := v.farTime a.spc x
        .done (({ (r.2).acquire (a.acq && a.wide) with due := far }.put a.d a.ty e (fun _ => r.1)).holdUntil far)
      else .park r.2 (.word a.spc x a.ty a.sub u)

/-! ## Team barriers (R57, R190, R454) -/

/-- n and the named count; in JV code both are read as N32. -/
def View.barArgs (v : View) (a : Args) : Nat × Option Nat :=
  (uval 32 (v.rdU a.a 5), if a.b = .none then none else some (uval 32 (v.rdU a.b 5)))

def barChecks (arrives : Bool) (v : View) (a : Args) (e : Mask) : List Raise :=
  let p := v.barArgs a
  let n := p.1
  let b := v.t.bar n
  let held := v.g.rcs.any (fun x => !x.cv)
  let clash := match b.kind with
    | some k => k != p.2
    | none => false
  (if 16 ≤ n then [{ cause := 132, info := (lanesOf e).headD 0 + 32, addr := n }] else [])
  ++ (match p.2 with
      | some k => if k < 1 ∨ 16 < k then [{ cause := 132, info := (lanesOf e).headD 0 + 64, addr := k }] else []
      | none => [])
  ++ (if v.g.handler.isSome then [{ cause := 452, info := n, addr := 0 }] else [])
  ++ (if held then [{ cause := 448, info := n, addr := 0 }] else [])
  ++ (if arrives && clash && v.g.wouldArrive n e && !b.arrived.contains v.gang then [{ cause := 449, info := n, addr := 0 }] else [])

/-- Arrive at barrier n, with the PC at the next instruction; bar waits for the phase it arrived in. -/
def arriveBody (f : Form) (waits : Bool) (v : View) (a : Args) (e : Mask) : Out :=
  let p := v.barArgs a
  let phase := (v.t.bar p.1).phase
  let v1 := v.complete.advance f.bytes
  let v2 := if waits then { v1 with sp := { v1.sp with wait := .bar p.1 phase, waitStart := v.s.ptp } } else v1
  .state (v2.onTeam (fun t => t.arrive v.s.now v.gang p.1 p.2 e)).close

/-- A barwt whose phase has completed is not judged again. -/
def barwtChecks (v : View) (a : Args) (e : Mask) : List Raise :=
  if v.sp.latched.isSome then [] else barChecks false v a e

/-- barwt goes on when the phase in which its gang last arrived has completed, or when it never arrived (R57). -/
def barwtBody (v : View) (a : Args) (_ : Mask) : Out :=
  let n := (v.barArgs a).1
  let last := Tab.get 0 v.g.lastPhase n
  if v.sp.latched.isSome || last ≤ (v.t.bar n).phase then .done v else .park v (.barwt n last)

def execYield (f : Form) (s : State) : Result := runOp .yield f s noChecks yieldBody
def execNsleep (f : Form) (s : State) : Result := runOp .nsleep f s noChecks nsleepBody
def execWaita (f : Form) (s : State) : Result := runOp .waita f s waitaChecks waitaBody
def execBar (f : Form) (s : State) : Result := runOp .bar f s (barChecks true) (arriveBody f true)
def execBarar (f : Form) (s : State) : Result := runOp .barar f s (barChecks true) (arriveBody f false)
def execBarwt (f : Form) (s : State) : Result := runOp .barwt f s barwtChecks barwtBody

end Sys2Proof.Machine
end

