-- ==== Sys2Proof/Machine/Matrix.lean ====
section
/-! DEFINITION. Matrix instructions (R114 to R124, R233 to R256): operand lines, group alignment, tiles with their assay
sums, export, constant operands and the crosscut. -/

namespace Sys2Proof.Machine

/-! ## Tiles (R233, R234, R254) -/

def Tile.zero : Tile :=
  { elems := [], anchor := 0, tol := 0, grp := 0, rows := 0, mis := 0, rowSums := [], colSums := [], poison := false }

/-- Element 64 i + j: its integer and class; an empty tile is all zero. -/
def Tile.elem (t : Tile) (i : Nat) : Int × Nat :=
  match t.elems[i]? with
  | some (n, c) => (n.toInt, c)
  | none => (0, 0)

def assayP : Int := 2 ^ 61 - 1
/-- The 64 row sums and the 64 column sums of the elements, mod 2^61 - 1 (R254). -/
def Tile.sumRows (t : Tile) : List Nat :=
  (List.range 64).map (fun i => (((List.range 64).foldl (fun s j => s + (t.elem (64 * i + j)).1) (0 : Int)) % assayP).toNat)
def Tile.sumCols (t : Tile) : List Nat :=
  (List.range 64).map (fun j => (((List.range 64).foldl (fun s i => s + (t.elem (64 * i + j)).1) (0 : Int)) % assayP).toNat)

/-- Replace the elements; the sums follow by the changes made (R254). -/
def Tile.setElems (t : Tile) (f : Nat → Int × Nat) : Tile :=
  let es := (List.range 4096).map (fun i => let x := f i; (BitVec.ofInt 64 x.1, x.2))
  let u : Tile := { t with elems := es }
  let step (now old carried : List Nat) : List Nat :=
    (List.range 64).map (fun i => (((carried.getD i 0 : Nat) : Int) + (now.getD i 0 : Nat) - (old.getD i 0 : Nat)) % assayP |>.toNat)
  { u with rowSums := step u.sumRows t.sumRows t.rowSums, colSums := step u.sumCols t.sumCols t.colSums }

/-- A carried sum off by delta. -/
def Tile.offSum (t : Tile) (line : Nat) (col : Bool) (delta : Nat) : Tile :=
  let off (l : List Nat) : List Nat := (List.range 64).map (fun i => (l.getD i 0 + if i = line then delta else 0) % assayP.toNat)
  if col then { t with colSums := off t.colSums } else { t with rowSums := off t.rowSums }

/-- The first row, or failing that column, whose carried sum differs (R490): line and whether it is a column. -/
def Tile.misSum (t : Tile) : Option (Nat × Bool) :=
  let r := t.sumRows
  let c := t.sumCols
  match (List.range 64).find? (fun i => r.getD i 0 != t.rowSums.getD i 0) with
  | some i => some (i, false)
  | none => ((List.range 64).find? (fun i => c.getD i 0 != t.colSums.getD i 0)).map (fun i => (i, true))

/-- The tile a native code names: that of the map entry of kind 2 for the code, else tile 3 k + m for code 4 m + k of a
D-core and the code itself on an L-core [16, DEDUCED]. -/
def View.tileOf (v : View) (o : Operand) : Nat :=
  match o with
  | .tile n =>
    let byMap := v.t.natCode.bind (fun c => (c.maps.find? (fun e => e.kind == 2 && e.loc == n)).bind (fun e =>
      match declAt v.t.kern.decls e.jvreg 0 with
      | some (.acc, k) => some k
      | _ => none))
    byMap.getD (if v.t.core.kind = .dcore then 3 * (n % 4) + n / 4 else n)
  | _ => v.tileNum o

def View.tile (v : View) (k : Nat) : Tile := v.t.tiles.getD k Tile.zero
/-- Change a tile, its image logged first (R473). -/
def View.setTile (v : View) (k : Nat) (x : Tile) : View :=
  let t := v.t.logTile k
  { v with t := { t with tiles := t.tiles.set k x } }

def View.setTol (v : View) (k : Nat) (x : BitVec 32) : View := v.setTile k { v.tile k with tol := x }

/-- Word 4 of the record of a tile assay cause (R487), and the tile in addr. -/
def assayRaise (cause reg k line : Nat) (col : Bool) : Raise :=
  { cause := cause, info := reg + line * 2 ^ 48 + (if col then 2 ^ 54 else 0), addr := k }

/-- A group check that fails (R487, R489). -/
structure GroupFail where
  grp : Nat
  chan : Nat
  limb : Nat
  col : Bool
  line : Nat
deriving DecidableEq, Repr

def GroupFail.raise (x : GroupFail) (reg k : Nat) : Raise :=
  { cause := 390, addr := k
    info := reg + x.grp * 2 ^ 32 + x.line * 2 ^ 48 + (if x.col then 2 ^ 54 else 0) + x.chan * 2 ^ 55 + x.limb * 2 ^ 57 }

/-- A native tile code names a tile the team holds (384). -/
def View.tileCheck (v : View) (o : Operand) : List Raise :=
  match o with
  | .tile n => if v.tileOf o < v.t.tiles.length then [] else [{ cause := 384, info := n, addr := 0 }]
  | _ => []

/-! ## Operand lines (R237, R238) -/

/-- The TY code of a matrix operand format (R107). -/
def matTy (fmt : Nat) : Nat :=
  match fmt with
  | 0 => 0 | 1 => 1 | 2 => 13 | 3 => 14 | 4 => tyE2M1 | 5 => 9 | _ => 8

/-- Bytes of a line of K elements. -/
def lineBytes (fmt k : Nat) : Nat := match fmt with | 4 => k / 2 | 5 | 6 => 2 * k | _ => k

def descOff (d : Word) : Nat := field d 0 20
def descSof (d : Word) : Nat := field d 20 20
def descPitch (d : Word) (l : Nat) : Nat := let p := field d 40 16; if p = 0 then l else p

/-- Block scales apply to the format (R108). -/
def scaled (fmt : Nat) (bsc : Bool) : Bool := bsc && (fmt == 0 || fmt == 2 || fmt == 4)

/-- The bytes of the 64 lines, line by line, and the scale bytes. -/
def View.operandBytes (v : View) (d : Word) (fmt k : Nat) (bsc : Bool) : List Byte × List Byte :=
  let l := lineBytes fmt k
  ((List.range 64).flatMap (fun x => v.t.scratch.readN (descOff d + x * descPitch d l) l),
   if scaled fmt bsc then v.t.scratch.readN (descSof d) (64 * (k / 16)) else [])

/-- Granules of the operand or its scales hold poison. -/
def View.operandPoison (v : View) (d : Word) (fmt k : Nat) (bsc : Bool) : Bool :=
  let l := lineBytes fmt k
  !v.t.scratchPoison.isEmpty
  && ((List.range 64).any (fun x => v.nearPoison 2 (descOff d + x * descPitch d l) l)
      || (scaled fmt bsc && v.nearPoison 2 (descSof d) (64 * (k / 16))))

/-- The element code of element i of a line (R238). -/
def elemCode (fmt : Nat) (line : List Byte) (i : Nat) : Nat :=
  match fmt with
  | 4 => (line.getD (i / 2) 0).toNat / (if i % 2 = 0 then 1 else 16) % 16
  | 5 | 6 => (line.getD (2 * i) 0).toNat + 256 * (line.getD (2 * i + 1) 0).toNat
  | _ => (line.getD i 0).toNat

/-- What an element is to the class of its products (R117). -/
inductive ElemKind where
  | zero
  | finite (neg : Bool)
  | inf (neg : Bool)
  | nan
deriving DecidableEq, Repr

/-- An aligned group (R114): the integers, q, and what each element is. -/
structure Group where
  m : List Int
  q : Int
  kinds : List ElemKind
  special : Bool
deriving DecidableEq, Repr

/-- The value of an element code, as an exact value. -/
def elemEx (fmt code : Nat) : Ex :=
  match fmt with
  | 0 => Ex.ofInt (sval 8 (BitVec.ofNat 64 code))
  | 1 => Ex.ofInt (code : Nat)
  | _ => decodeF (matTy fmt) code

/-- e_i of R114. -/
def elemExp (fmt code : Nat) : Int :=
  let f := ffmt (matTy fmt)
  let e := code % signBit (matTy fmt) / 2 ^ f.t
  match elemEx fmt code with
  | .num _ _ _ => if e = 0 then 1 - (f.bias : Int) else (e : Int) - f.bias
  | _ => 1 - (f.bias : Int)

/-- The operand is aligned at W = 16 (R108). -/
def aligned16 (fmt : Nat) (w16 : Bool) : Bool := 5 ≤ fmt || ((fmt = 2 || fmt = 3) && w16)

/-- Align one group (R114). -/
def alignGroup (fmt : Nat) (w16 : Bool) (scale : Option Nat) (codes : List Nat) : Group :=
  let exs := codes.map (elemEx fmt)
  let nanScale := scale == some 255
  let kinds := exs.map (fun x =>
    if nanScale then ElemKind.nan
    else match x with
      | .nan _ => .nan
      | .inf n => .inf n
      | .num n m _ => if m = 0 then .zero else .finite n)
  let special := nanScale || kinds.any (fun k => match k with | .inf _ | .nan => true | _ => false)
  let w : Int := if aligned16 fmt w16 then 16 else 8
  let sgn (neg : Bool) (n : Nat) : Int := if neg then -(n : Int) else n
  let base : List Int × Int :=
    match fmt with
    | 0 | 1 => (exs.map (fun x => match x with | .num n m e => scaledTo n m e 0 | _ => 0), 0)
    | 4 => (exs.map (fun x => match x with | .num n m e => scaledTo n m e (-1) | _ => 0), -1)
    | _ =>
      let g := (codes.map (elemExp fmt)).foldl (fun a b => if a < b then b else a) (-100000)
      (exs.map (fun x => match x with
        | .num n m e => sgn n (roundNat 0 false m (-(e + (w - 1 - g)))).1
        | _ => 0), g - (w - 1))
  match scale with
  | none => { m := base.1, q := base.2, kinds := kinds, special := special }
  | some 255 => { m := base.1.map (fun _ => 0), q := base.2, kinds := kinds, special := special }
  | some sb => { m := base.1, q := base.2 + sb - 127, kinds := kinds, special := special }

/-- The groups of one line. -/
def lineGroups (fmt k : Nat) (w16 : Bool) (line scales : List Byte) : List Group :=
  (List.range (k / 16)).map (fun g =>
    alignGroup fmt w16 ((scales[g]?).map (fun b => b.toNat)) ((List.range 16).map (fun i => elemCode fmt line (16 * g + i))))

/-- The groups of the 64 lines of an operand. -/
def operandGroups (fmt k : Nat) (w16 : Bool) (bytes scales : List Byte) : List (List Group) :=
  let l := lineBytes fmt k
  (List.range 64).map (fun x => lineGroups fmt k w16 ((bytes.drop (x * l)).take l) ((scales.drop (x * (k / 16))).take (k / 16)))

/-- The dot product of two lines of integers. -/
def dot (a b : List Int) : Int := (a.zip b).foldl (fun s x => s + x.1 * x.2) 0

/-- The exact group integer. The limb pairs and residue channels of R115 and R116 carry this number without loss. -/
def groupInt (a b : Group) : Int := dot a.m b.m

/-- One limb of a line of an operand aligned at 16 or at 8 (R115): an operand aligned at 8 has its lo limb alone. -/
def limbOf (w16 hi : Bool) (m : List Int) : List Int :=
  m.map (fun x =>
    let p : Int := if !w16 then (if hi then 0 else (x.natAbs : Int)) else if hi then (x.natAbs : Int) / 256 else (x.natAbs : Int) % 256
    if x < 0 then -p else p)

/-- The limb pairs the operands carry, A's limb first (R115, R487): lo lo, lo hi, hi lo, hi hi. -/
def limbPairs (wa wb : Bool) : List Nat := [0] ++ (if wb then [1] else []) ++ (if wa then [2] else []) ++ (if wa && wb then [3] else [])

def modulus (chan : Nat) : Nat := 255 + chan

/-- One group step: the 64 lines of either operand, whether it is aligned at 16, and the errors of the pipe in this step. -/
structure GroupStep where
  a : List (List Int)
  b : List (List Int)
  wa : Bool
  wb : Bool
  errs : List PipeErr
deriving DecidableEq, Repr

def GroupStep.lineA (x : GroupStep) (limb i : Nat) : List Int := limbOf x.wa (2 ≤ limb) (x.a.getD i [])
def GroupStep.lineB (x : GroupStep) (limb j : Nat) : List Int := limbOf x.wb (limb % 2 == 1) (x.b.getD j [])

/-- The residue that the pipe forms in a channel (R116). -/
def GroupStep.residue (x : GroupStep) (chan limb i j : Nat) : Nat :=
  let off : Nat := x.errs.foldl (fun n e => if e.row = i ∧ e.col = j ∧ e.chan = chan ∧ e.limb = limb then n + e.delta else n) 0
  ((dot (x.lineA limb i) (x.lineB limb j) + (off : Int)) % (modulus chan : Int)).toNat

/-- The sum of vectors of 16 integers: the column-sum vector of B's lines, the row-sum vector of A's (R254). -/
def vecSum (ls : List (List Int)) : List Int := (List.range 16).map (fun k => ls.foldl (fun s l => s + l.getD k 0) 0)

/-- The check of one row or column, with the sum vector of the other operand's lines (R254). -/
def GroupStep.lineOk (x : GroupStep) (chan limb : Nat) (col : Bool) (sums : List Int) (line : Nat) : Bool :=
  let rs := (List.range 64).foldl (fun s o => s + if col then x.residue chan limb o line else x.residue chan limb line o) 0
  let want := if col then dot sums (x.lineB limb line) else dot (x.lineA limb line) sums
  rs % modulus chan == (want % (modulus chan : Int)).toNat

/-- The group check of R254: the lowest check that fails, in the order channel, limb pair, row before column, line (R489). -/
def GroupStep.check (x : GroupStep) (grp : Nat) : Option GroupFail :=
  (List.range 3).findSome? (fun chan => (limbPairs x.wa x.wb).findSome? (fun limb =>
    [false, true].findSome? (fun col =>
      let sums := if col then vecSum ((List.range 64).map (x.lineA limb)) else vecSum ((List.range 64).map (x.lineB limb))
      ((List.range 64).find? (fun line => !x.lineOk chan limb col sums line)).map (fun line =>
        { grp := grp, chan := chan, limb := limb, col := col, line := line }))))

/-- g_PQ from the three residues by the Chinese remainder theorem (R116). -/
def GroupStep.partialDot (x : GroupStep) (limb i j : Nat) : Int :=
  let m : Nat := 255 * 256 * 257
  let u := (x.residue 0 limb i j * 8421376 + x.residue 1 limb i j * 16711425 + x.residue 2 limb i j * 8421120) % m
  if u < 8388480 then (u : Int) else (u : Int) - (m : Int)

/-- The group's integer from its limb pairs (R115). -/
def GroupStep.value (x : GroupStep) (i j : Nat) : Int :=
  (limbPairs x.wa x.wb).foldl (fun s limb => s + x.partialDot limb i j * (2 ^ (8 * (limb / 2 + limb % 2)) : Nat)) 0

/-- The class of one product: 0 finite, 1 +inf, 2 -inf, 3 NaN, with the flag of inf times zero. -/
def productClass (x y : ElemKind) : Nat × Flags :=
  let inf (n : Bool) : Nat := if n then 2 else 1
  match x, y with
  | .nan, _ | _, .nan => (3, 0)
  | .inf _, .zero | .zero, .inf _ => (3, 1)
  | .inf a, .inf b | .inf a, .finite b | .finite a, .inf b => (inf (a != b), 0)
  | _, _ => (0, 0)

/-- The class of a group (R117). -/
def groupClass (a b : Group) : Nat × Flags :=
  if !a.special && !b.special then (0, 0)
  else
    let ps := (a.kinds.zip b.kinds).map (fun x => productClass x.1 x.2)
    let fl := ps.foldl (fun f p => Flags.join f p.2) 0
    let has (c : Nat) : Bool := ps.any (fun p => p.1 == c)
    if has 3 then (3, fl)
    else if has 1 && has 2 then (3, Flags.join fl 1)
    else if has 1 then (1, fl)
    else if has 2 then (2, fl)
    else (0, fl)

/-- combine of R119. -/
def combineClass (x y : Nat) : Nat × Flags :=
  if x = 3 ∨ y = 3 then (3, 0)
  else if (x = 1 ∧ y = 2) ∨ (x = 2 ∧ y = 1) then (3, 1)
  else if x = 0 then (y, 0)
  else (x, 0)

def aqTop : Int := 2 ^ 63 - 1

/-- Shift an integer by k binary places, toward -inf. -/
def shiftInt (g k : Int) : Int := if 0 ≤ k then g * (2 ^ k.toNat : Nat) else g / (2 ^ (-k).toNat : Nat)

/-- Add an integer at 2^q, with its class, to a tile element (R119). -/
def addAt (anchor : Int) (x : Int × Nat × Flags) (g q : Int) (c : Nat × Flags) : Int × Nat × Flags :=
  let n := x.1 + shiftInt g (q - anchor)
  let k := combineClass x.2.1 c.1
  let clamp := decide (n < -aqTop) || decide (aqTop < n)
  let m := if n < -aqTop then -aqTop else if aqTop < n then aqTop else n
  (m, k.1, Flags.join x.2.2 (Flags.join c.2 (Flags.join k.2 (if clamp then 32 else 0))))

/-- Add a group to a tile element (R119). -/
def addGroup (anchor : Int) (x : Int × Nat × Flags) (a b : Group) (g : Int) : Int × Nat × Flags :=
  addAt anchor x g (a.q + b.q) (groupClass a b)

/-- The group steps in order, up to the first whose check fails (R489). Without an error of the pipe every check passes and the channels
carry the exact integer, so that only a step with an error is worked out by its residues. -/
def groupSteps (wa wb : Bool) (errs : List PipeErr) (a b : List (List Group)) : List GroupStep × Option GroupFail :=
  let n := (a.headD []).length
  let ints (x : List (List Group)) (g : Nat) : List (List Int) := x.map (fun l => ((l[g]?).map (fun y => y.m)).getD [])
  let steps := (List.range n).map (fun g =>
    let es := errs.filter (fun e => e.grp == g)
    if es.isEmpty then { a := [], b := [], wa := wa, wb := wb, errs := [] }
    else ({ a := ints a g, b := ints b g, wa := wa, wb := wb, errs := es } : GroupStep))
  (steps, (steps.zip (List.range n)).findSome? (fun x => if x.1.errs.isEmpty then none else x.1.check x.2))

/-- The multiply-accumulate over every group (R240) where every group check passes: the tile and the flags. -/
def Tile.mma (t : Tile) (steps : List GroupStep) (a b : List (List Group)) : Tile × Flags :=
  let value (i : Nat) (x : GroupStep) (ga gb : Group) : Int :=
    if x.errs.isEmpty then groupInt ga gb else x.value (i / 64) (i % 64)
  let res := a.flatMap (fun ra => b.map (fun cb => (ra, cb)))
  let out := (res.zip (List.range 4096)).map (fun x =>
    let e := t.elem x.2
    ((x.1.1.zip x.1.2).zip steps).foldl (fun acc gg => addGroup t.anchor acc gg.1.1 gg.1.2 (value x.2 gg.2 gg.1.1 gg.1.2)) (e.1, e.2, 0))
  let fl := out.foldl (fun f x => Flags.join f x.2.2) 0
  let u := t.setElems (fun i => match out[i]? with | some x => (x.1, x.2.1) | none => (0, 0))
  ({ u with grp := Nat.min (u.grp + steps.length) (2 ^ 32 - 1) }, fl)

/-! ## mma (R239 to R241, R458) -/

/-- A descriptor operand's own conditions, in role 7: alignment and reserved bits. -/
def descForm (d : Word) (lane : Nat) : List Raise :=
  (if descOff d % 16 != 0 || field d 40 16 % 16 != 0 then [{ cause := 128, info := lane + 224, addr := d.toNat }] else [])
  ++ (if field d 56 8 != 0 then [{ cause := 134, info := lane + 224, addr := d.toNat }] else [])

/-- The bytes that a descriptor names lie within the allocation, where its format and K say how many they are. -/
def View.descBytes (v : View) (d : Word) (fmt k : Nat) (bsc : Bool) (reg : Nat) : List Raise :=
  let l := lineBytes fmt k
  let p := field d 40 16
  let last := descOff d + 63 * descPitch d l + l
  if 6 < fmt then []
  else
    (if (p != 0 && p < l) || v.t.scratchSize < last
        || (scaled fmt bsc && v.t.scratchSize < descSof d + 64 * (k / 16)) then
      [{ cause := 386, info := reg, addr := 0 }] else [])

def mmaChecks (ra : Bool) (v : View) (a : Args) (e : Mask) : List Raise :=
  let lane := (lanesOf e).headD 0
  let reg := a.d.regNum
  let f := v.sp.fmt
  let badK := !ra && (a.off % 16 != 0 || a.off < 16 || 256 < a.off)
  v.tileCheck a.d
  ++ (if badK then [{ cause := 385, info := reg, addr := 0 }] else [])
  ++ (if (!ra && 6 < fmtAfmt f) || 6 < fmtBfmt f then [{ cause := 135, info := 0, addr := 0 }] else [])
  ++ (if ra && v.g.latch.isNone then [{ cause := 387, info := reg, addr := 0 }] else [])
  ++ (if ra then [] else descForm (v.rdU a.a 7) lane) ++ descForm (v.rdU a.b 7) lane
  ++ (match (if ra then v.g.latch.map (fun x => x.k) else if badK then none else some a.off.toNat) with
      | some k => (if ra then [] else v.descBytes (v.rdU a.a 7) (fmtAfmt f) k (fmtBsc f) reg) ++ v.descBytes (v.rdU a.b 7) (fmtBfmt f) k (fmtBsc f) reg
      | none => [])

/-- Each byte an mma.ra reads is the latched one or the one in scratch; which one is free (R241) [13, DEDUCED]. -/
def pickBytes (base : Nat) (old now : List Byte) : List Byte :=
  ((old.zip now).zip (List.range old.length)).map (fun x =>
    if x.1.1 = x.1.2 then x.1.1 else if Config.freeBit (base + x.2) then x.1.1 else x.1.2)

/-- The A operand of an mma, and the groups of its operands (R237, R240, R241). -/
def View.mmaOperands (ra : Bool) (v : View) (a : Args) : Option (ALatch × List (List Group) × List (List Group)) :=
  let f := v.sp.fmt
  let latch := if ra then v.g.latch else
    let d := v.rdU a.a 7
    let bs := v.operandBytes d (fmtAfmt f) a.off.toNat (fmtBsc f)
    some { k := a.off.toNat, afmt := fmtAfmt f, w16 := fmtW16 f, bsc := fmtBsc f, desc := d, bytes := bs.1, scales := bs.2 }
  latch.map (fun lt =>
    let b := v.operandBytes (v.rdU a.b 7) (fmtBfmt f) lt.k (fmtBsc f)
    let now := v.operandBytes lt.desc lt.afmt lt.k lt.bsc
    let ab := if ra then pickBytes v.s.free lt.bytes now.1 else lt.bytes
    let sb := if ra then pickBytes (v.s.free + lt.bytes.length) lt.scales now.2 else lt.scales
    (lt, operandGroups lt.afmt lt.k lt.w16 ab sb, operandGroups (fmtBfmt f) lt.k (fmtW16 f) b.1 b.2))

/-- A choice or a reading of the model: [99, DESIGN CHOICE]. -/
def mmaBody (ra : Bool) (v : View) (a : Args) (_ : Mask) : Out :=
  let k := v.tileOf a.d
  let t := v.tile k
  let f := v.sp.fmt
  let db := v.rdU a.b 7
  match v.mmaOperands ra a with
  | none => .done v
  | some (lt, ga, gb) =>
    if t.poison || v.operandPoison db (fmtBfmt f) lt.k (fmtBsc f) || (!ra && v.operandPoison lt.desc lt.afmt lt.k lt.bsc) then
      .raise (raise256 (if t.poison then 261 else 258) 0)
    else
      let core := v.s.coreOf v.t.core
      let steps := groupSteps (aligned16 lt.afmt lt.w16) (aligned16 (fmtBfmt f) (fmtW16 f)) core.pipe ga gb
      let r := t.mma steps.1 ga gb
      match steps.2, r.1.misSum with
      | some x, _ => .raise (x.raise a.d.regNum k)
      | none, some (line, col) => .raise (assayRaise 391 a.d.regNum k line col)
      | none, none =>
        let v0 : View := if core.pipe.isEmpty then v else { v with s := v.s.setCore { core with pipe := [] } }
        let v1 := (v0.flag r.2).setTile k r.1
        if ra then .done { v1 with s := { v1.s with free := v1.s.free + lt.bytes.length + lt.scales.length } }
        else .done { v1 with g := { v1.g with latch := some lt } }

/-! ## Setting up and exporting tiles (R245 to R250) -/

def acczBody (v : View) (a : Args) (_ : Mask) : Out :=
  let k := v.tileOf a.d
  .done (v.setTile k { Tile.zero with anchor := fmtAnchor v.sp.fmt, tol := (v.tile k).tol
                                      rowSums := List.replicate 64 0, colSums := List.replicate 64 0 })

/-- The first address of an export or load, and its bytes per element. -/
def View.accAddr (v : View) (a : Args) (e : Mask) : Nat := v.addr a ((lanesOf e).headD 0)
def accWidth (ty : Nat) : Nat := if ty = 15 then 8 else tyBytes ty
def accRows (a : Args) : Nat := 64 - a.sub

/-- The conditions of the bytes of accld and accst (R455, R458). -/
def View.blockChecks (v : View) (a : Args) (e : Mask) (write : Bool) : List Raise :=
  let l := (lanesOf e).headD 0
  let x := v.accAddr a e
  let n := 64 * accRows a * accWidth a.ty
  v.spaceCheck a.spc x n 16 l (addrRole a) write
  ++ (if a.spc = 3 && x < 2 ^ 56 then (blocksOf x n).flatMap (fun y => v.dmCheck y l write) else [])

/-- Bytes cut at line ends: address and piece. -/
def lineRuns : Nat → Nat → List Byte → List (Nat × List Byte)
  | 0, _, _ => []
  | fuel + 1, x, bs =>
    match bs with
    | [] => []
    | _ =>
      let n := 128 - x % 128
      (x, bs.take n) :: lineRuns fuel (x + n) (bs.drop n)

/-- Read n bytes of team scratch or die memory line by line. -/
def View.readBlock (v : View) (a : Args) (x n : Nat) : List Byte × View :=
  if a.spc = 3 then
    let home := a.acq && a.wide
    (lineRuns (n / 128 + 2) x (List.replicate n 0)).foldl (fun (r : List Byte × View) p =>
      let q := r.2.close.readDm v.t.core v.t.asid a.pol home p.1 p.2.length
      (r.1 ++ q.1, r.2.onState (fun _ => q.2))) ([], v)
  else (v.t.scratch.readN x n, v)

/-- The lines of a block of n bytes. -/
def blockLines (x n : Nat) : List Nat := (lineRuns (n / 128 + 2) x (List.replicate n 0)).map (fun p => p.1)

/-- When the last line of a block that is loaded comes; a line that misses takes a register (R53, R83). -/
def View.blockTime (v : View) (a : Args) (x n : Nat) : Nat × View :=
  (blockLines x n).foldl (fun (r : Nat × View) y => let q := r.2.loadTime a (a.acq && a.wide) y; (Nat.max r.1 q.1, q.2)) (0, v)

def accldChecks (v : View) (a : Args) (e : Mask) : List Raise := v.tileCheck a.d ++ v.blockChecks a e false

/-- One loaded element (R246). -/
def accldElem (ty : Nat) (anchor : Int) (w : Word) : Int × Nat × Flags :=
  match ty with
  | 15 => (sval 64 w, 0, 0)
  | 10 =>
    let x := decodeF 10 w.toNat
    (match x with
     | .nan _ => (0, 3, 0)
     | .inf n => (0, if n then 2 else 1, 0)
     | _ => let r := toAq x anchor; (r.1, 0, r.2))
  | _ => let r := toAq (Ex.ofInt (tyVal ty w)) anchor; (r.1, 0, r.2)

def accldBody (v : View) (a : Args) (e : Mask) : Out :=
  let x := v.accAddr a e
  let w := accWidth a.ty
  let rows := accRows a
  let n := 64 * rows * w
  match (blocksOf x n).findSome? (fun y => v.parkOf a.spc y false) with
  | some w => .park v w
  | none =>
    let bad := v.nearPoison a.spc x n || (a.spc = 3 && (lineRuns (n / 128 + 2) x (List.replicate n 0)).any (fun p =>
      v.s.dmPoison v.t.core v.t.asid p.1 p.2.length ((a.acq && a.wide) || a.pol != 0)))
    if bad then .raise (raise256 (v.poisonSource a.spc x) x)
    else
      let due := v.blockTime a x n
      let r := (due.2.acquire (a.acq && a.wide)).readBlock a x n
      let k := v.tileOf a.d
      let anchor := fmtAnchor v.sp.fmt
      let el := (List.range (64 * rows)).map (fun i =>
        accldElem a.ty anchor (BitVec.ofNat 64 (ofBytesLE ((r.1.drop (i * w)).take w))))
      let fl := el.foldl (fun f x => Flags.join f x.2.2) 0
      let base : Tile := { Tile.zero with anchor := anchor, tol := (v.tile k).tol, rowSums := List.replicate 64 0, colSums := List.replicate 64 0 }
      .done (((r.2.flag fl).setTile k (base.setElems (fun i => match el[i]? with | some x => (x.1, x.2.1) | none => (0, 0)))).holdUntil due.1)

/-- One exported element (R124): the pattern, its flags, and whether a conversion to a float overflowed. -/
def accstElem (ty rm : Nat) (sat ftz : Bool) (anchor : Int) (scale : Option Nat) (n : Int) (cls : Nat) : Nat × Flags :=
  if ty = 15 then
    (match cls with
     | 3 => (0, 1)
     | 1 => (aqTop.toNat, 32)
     | 2 => ((ofInt 64 (-aqTop)).toNat, 32)
     | _ => ((ofInt 64 n).toNat, 0))
  else if tyIsInt ty then
    (match cls with
     | 3 => (0, 1)
     | 1 => ((ofInt (tyWidth ty) (tyMax ty)).toNat, 1)
     | 2 => ((ofInt (tyWidth ty) (tyMin ty)).toNat, 1)
     | _ => let r := cvtI (tyMin ty) (tyMax ty) rm (Ex.ofScaled n anchor); ((ofInt (tyWidth ty) r.1).toNat, r.2))
  else
    let x : Ex := match cls with | 3 => .nan false | 1 => .inf false | 2 => .inf true | _ => Ex.ofScaled n anchor
    let f := cvtF 10 0 false x
    let g : Nat × Flags := match scale with
      | some s =>
        let p := (decodeF 10 f.1).mul (decodeF 10 s)
        let c := cvtF 10 0 false p.1
        (c.1, Flags.join p.2 c.2)
      | none => (f.1, 0)
    let d := roundF ty rm sat ftz (decodeF 10 g.1)
    (d.1, Flags.join f.2 (Flags.join g.2 d.2))

/-- A finite value as an integer times 2^-440, below every exponent the check meets. -/
def fixEx (x : Ex) : Int := match x with | .num n m e => scaledTo n m e (-440) | _ => 0

/-- The conversion check of one row (R255): its elements as (integer, class, scale, written pattern, flags). -/
def rowPasses (ty : Nat) (ftz : Bool) (tol : BitVec 32) (anchor : Int) (row : List (Int × Nat × Option Nat × Nat × Flags)) : Bool :=
  let fin (x : Ex) : Bool := match x with | .num _ _ _ => true | _ => false
  let js := row.filter (fun x =>
    x.2.1 == 0 && (match x.2.2.1 with | some s => fin (decodeF 10 s) | none => true)
    && !(Nat.testBit x.2.2.2.2 2) && fin (decodeF ty x.2.2.2.1))
  let exact (x : Int × Nat × Option Nat × Nat × Flags) : Int :=
    match x.2.2.1 with
    | some s => fixEx ((Ex.ofScaled x.1 anchor).mul (decodeF 10 s)).1
    | none => fixEx (Ex.ofScaled x.1 anchor)
  let diff := js.foldl (fun s x => s + (fixEx (decodeF ty x.2.2.2.1) - exact x)) (0 : Int)
  let mass := js.foldl (fun (s : Nat) x => s + (exact x).natAbs) 0
  let f := ffmt ty
  let mu : Int := if ftz && ty < 11 then 1 - (f.bias : Int) else 1 - (f.bias : Int) - f.t
  let tau : Nat × Int := if tol = 0 then (1, 1 - (f.t : Int)) else
    match decodeF 10 tol.toNat with
    | .num _ m e => (m, e)
    | _ => (0, 0)
  -- |diff| 2^600 compared with tau mass 2^600 + 64 mu 2^600, all at 2^-440
  let lhs : Nat := diff.natAbs * 2 ^ 200
  let rhs : Nat := (tau.1 * mass) * 2 ^ (200 + tau.2).toNat + 64 * 2 ^ (mu + 440).toNat * 2 ^ 200
  decide (lhs ≤ rhs)

def accstChecks (v : View) (a : Args) (e : Mask) : List Raise :=
  let l := (lanesOf e).headD 0
  let s := (v.rdU a.c 7).toNat
  let named := a.c != .none
  let flt := tyIsFmt a.ty
  v.tileCheck a.b ++ v.blockChecks a e true
  ++ (if named && !flt then [{ cause := 389, info := a.b.regNum, addr := 0 }] else [])
  ++ (if named && s % 4 != 0 then [{ cause := 128, info := l + 96, addr := s }] else [])
  ++ (if named && v.t.scratchSize < s + 256 then [{ cause := 129, info := l + 96, addr := s }] else [])

/-- The tile that an operation reads: as it was at the operation's first issue, where the interval is replayed (R236). -/
def View.firstTile (v : View) (k : Nat) : Tile :=
  match v.sp.tileLog[v.sp.tilePos]? with
  | some (n, t) => if n = k then t else v.tile k
  | none => v.tile k

/-- The read is kept for a replay (R236). -/
def View.logTile (v : View) (k : Nat) : View :=
  { v with sp := { v.sp with tileLog := v.sp.tileLog.take v.sp.tilePos ++ [(k, v.firstTile k)] ++ v.sp.tileLog.drop (v.sp.tilePos + 1)
                             tilePos := v.sp.tilePos + 1 } }

def accstBody (v : View) (a : Args) (e : Mask) : Out :=
  let x := v.accAddr a e
  let w := accWidth a.ty
  let rows := accRows a
  let n := 64 * rows * w
  let k := v.tileOf a.b
  let t := v.firstTile k
  let v := v.logTile k
  let s := (v.rdU a.c 7).toNat
  let named := a.c != .none
  match (blocksOf x n).findSome? (fun y => v.parkOf a.spc y true) with
  | some w => .park v w
  | none =>
    if t.poison || (named && v.nearPoison 2 s 256) then .raise (raise256 (if t.poison then 261 else 258) x)
    else
      match t.misSum with
      | some (line, col) => .raise (assayRaise 391 a.b.regNum k line col)
      | none =>
        let f := v.sp.fmt
        let scale (j : Nat) : Option Nat := if named then some (v.t.scratch.readLE (s + 4 * j) 4) else none
        let scales := (List.range 64).map scale
        let el := (List.range (64 * rows)).map (fun i =>
          let m := t.elem i
          let sc := scales.getD (i % 64) none
          let r := accstElem a.ty (effRm f a.rm) (fmtSat f) (fmtFtz f) t.anchor sc m.1 m.2
          (m.1, m.2, sc, r.1, r.2))
        let flt := tyIsFmt a.ty
        let fails := if flt then (List.range rows).find? (fun i => !rowPasses a.ty (fmtFtz f) t.tol t.anchor ((el.drop (64 * i)).take 64))
                     else none
        match fails with
        | some i => .raise (assayRaise 392 a.b.regNum k i false)
        | none =>
          let fl := el.foldl (fun f x => Flags.join f x.2.2.2.2) 0
          let v1 := (v.flag fl).release (a.rel && a.wide)
          let v2 := if flt then v1.setTile k { v.tile k with rows := Nat.min ((v.tile k).rows + rows) 65535 } else v1
          let bs := el.flatMap (fun x => toBytesLE w x.2.2.2.1)
          let far := (blockLines x n).foldl (fun t y => Nat.max t (v.farTime a.spc y)) 0
          .done (((lineRuns (n / 128 + 2) x bs).foldl (fun v p => v.store a.spc a.pol (a.rel && a.wide) p.1 p.2) v2).holdUntil far)

/-- A tile read: poison, then the accumulation check (R490). -/
def readTile (o : Operand) (k : Nat) (t : Tile) (go : Out) : Out :=
  if t.poison then .raise (raise256 261 0)
  else match t.misSum with
    | some (line, col) => .raise (assayRaise 391 o.regNum k line col)
    | none => go

def accmaxBody (v : View) (a : Args) (e : Mask) : Out :=
  let t := v.firstTile (v.tileOf a.a)
  readTile a.a (v.tileOf a.a) t (
    let v := v.logTile (v.tileOf a.a)
    let es := (List.range 4096).map t.elem
    let top := es.foldl (fun (m : Nat) x => Nat.max m x.1.natAbs) 0
    let has (c : Nat) : Bool := es.any (fun x => x.2 == c)
    let r : Nat :=
      if a.ty = 6 then Nat.min top (2 ^ 63 - 1)
      else if has 3 then 0x7FC00000
      else if has 1 || has 2 then 0x7F800000
      else (cvtF 10 2 false (Ex.ofScaled top t.anchor)).1
    .done (v.put a.d a.ty e (fun _ => BitVec.ofNat 64 r)))

def accancChecks (v : View) (a : Args) (_ : Mask) : List Raise :=
  let b := sval 32 (v.rdU a.a 4)
  v.tileCheck a.d ++ (if b < -128 ∨ 127 < b then [{ cause := 385, info := a.d.regNum, addr := 0 }] else [])

/-- Re-anchor one integer (R121). -/
def reanchor (n a b : Int) : Int × Flags :=
  if b ≤ a then
    let x := n * (2 ^ (a - b).toNat : Nat)
    if x < -aqTop then (-aqTop, 32) else if aqTop < x then (aqTop, 32) else (x, 0)
  else (n / (2 ^ (b - a).toNat : Nat), 0)

def accancBody (v : View) (a : Args) (_ : Mask) : Out :=
  let k := v.tileOf a.d
  let t := v.tile k
  readTile a.d k t (
    let b := sval 32 (v.rdU a.a 4)
    let el := (List.range 4096).map (fun i => let m := t.elem i; (reanchor m.1 t.anchor b, m.2))
    let fl := el.foldl (fun f x => Flags.join f x.1.2) 0
    let u := t.setElems (fun i => match el[i]? with | some x => (x.1.1, x.2) | none => (0, 0))
    .done ((v.flag fl).setTile k { u with anchor := b }))

/-! ## Constant tiles and the crosscut (R251 to R253) -/

/-- The encoding of 1 (R252). -/
def oneOf (ty : Nat) : Nat := match ty with | 13 => 0x38 | 14 => 0x3C | 8 => 0x3C00 | 9 => 0x3F80 | _ => 1

/-- Element (x, k) is 1. -/
def triHolds (kind x k : Nat) : Bool :=
  match kind with
  | 0 => decide (k ≤ x) | 1 => decide (k < x) | 2 => decide (x ≤ k) | 3 => decide (x < k) | 4 => k == x | 5 => true | _ => false

def triChecks (v : View) (a : Args) (e : Mask) : List Raise :=
  let l := (lanesOf e).headD 0
  let x := v.accAddr { a with spc := 2 } e
  (if x % 16 != 0 then [{ cause := 128, info := l + 32 * addrRole a, addr := x }] else [])
  ++ (if v.t.scratchSize < x + 4096 * tyBytes a.ty then [{ cause := 386, info := 0, addr := x }] else [])

def triBody (v : View) (a : Args) (e : Mask) : Out :=
  let x := v.accAddr { a with spc := 2 } e
  let w := tyBytes a.ty
  let bs := (List.range 4096).flatMap (fun i => toBytesLE w (if triHolds a.sub (i / 64) (i % 64) then oneOf a.ty else 0))
  .done (v.nearStore 2 x bs)

def xcutChecks (v : View) (a : Args) (_ : Mask) : List Raise :=
  let w := tyWidth a.ty
  let ok (o : Operand) : Bool :=
    match o with
    | .reg n _ => v.decl n == some (.lane w) && decide (32 ≤ tileSize v.t.kern.decls n)
    | _ => true
  let bad (o : Operand) : List Raise := if ok o then [] else [{ cause := 388, info := o.regNum, addr := 0 }]
  (bad a.a ++ bad a.d).take 1

/-- xcut (R248); on the native machine each register moves 32 bits, and 32 results are in flight (R289, R310). -/
def xcutBody (v : View) (a : Args) (e : Mask) : Out :=
  let ty := if v.native then 5 else a.ty
  let src := (List.range 32).map (fun l => tab32 (fun k => v.rd (a.a.shift l) ty k))
  let regs := if v.native then List.range 32 else lanesOf e
  .done (regs.foldl (fun w k =>
    w.putLanes (a.d.shift k) ty (if e.getLsbD k then e else 0) (fun l => laneOf (src.getD l []) k)) v)

/-! ## asst (R256) -/

def asstStBody (v : View) (a : Args) (e : Mask) : Out :=
  let t := v.firstTile (v.tileOf a.a)
  if t.poison then .raise (raise256 261 0)
  else .done ((v.logTile (v.tileOf a.a)).put a.d 7 e (fun _ => BitVec.ofNat 64 (t.grp + t.rows * 2 ^ 32 + t.mis * 2 ^ 48)))

def asstTolChecks (v : View) (a : Args) (_ : Mask) : List Raise :=
  v.tileCheck a.d ++ (match decodeF 10 (v.rdU a.a 10).toNat with
    | .num _ _ _ => []
    | _ => [{ cause := 136, info := 0, addr := 0 }])

def asstTolBody (v : View) (a : Args) (_ : Mask) : Out :=
  .done (v.setTol (v.tileOf a.d) (BitVec.ofNat 32 ((v.rdU a.a 10).toNat % 2 ^ 31)))

def asstClrBody (v : View) (a : Args) (_ : Mask) : Out :=
  let k := v.tileOf a.d
  .done (v.setTile k { v.tile k with grp := 0, rows := 0, mis := 0 })

def dstTile (v : View) (a : Args) (_ : Mask) : List Raise := v.tileCheck a.d
def srcTile (v : View) (a : Args) (_ : Mask) : List Raise := v.tileCheck a.a

def execMma (f : Form) (s : State) : Result := runOp .mma f s (mmaChecks false) (mmaBody false)
/-- A choice or a reading of the model: [13, DEDUCED]. -/
def execMmaRa (f : Form) (s : State) : Result := runOp .mmaRa f s (mmaChecks true) (mmaBody true)
def execAccz (f : Form) (s : State) : Result := runOp .accz f s dstTile acczBody
def execAccld (f : Form) (s : State) : Result := runOp .accld f s accldChecks accldBody
def execAccst (f : Form) (s : State) : Result := runOp .accst f s accstChecks accstBody
def execAccmax (f : Form) (s : State) : Result := runOp .accmax f s srcTile accmaxBody
def execAccanc (f : Form) (s : State) : Result := runOp .accanc f s accancChecks accancBody
def execTri (f : Form) (s : State) : Result := runOp .tri f s triChecks triBody
def execXcut (f : Form) (s : State) : Result := runOp .xcut f s xcutChecks xcutBody
def execAsstSt (f : Form) (s : State) : Result := runOp .asstSt f s srcTile asstStBody
def execAsstTol (f : Form) (s : State) : Result := runOp .asstTol f s asstTolChecks asstTolBody
def execAsstClr (f : Form) (s : State) : Result := runOp .asstClr f s dstTile asstClrBody

end Sys2Proof.Machine
end

