-- ==== Sys2Proof/Machine/Haul.lean ====
section
/-! DEFINITION. Haul and chunk instructions at issue (R206 to R221): sides, conditions (R457), jobs; the reach of a side
(R78, R468), tensor maps (R93 to R95) and the completion of a job (R90, R91, R208, R469). -/

namespace Sys2Proof.Machine

/-! ## Handles and sides (R77, R78) -/

def hOff (h : Word) : Nat := field h 0 20
def hGen (h : Word) : Nat := field h 20 12
def hRid (h : Word) : Nat := field h 32 16
def hPkg (h : Word) : Nat := field h 48 6
def hRsv (h : Word) : Nat := field h 54 10

/-- A side named by a register: a handle under .ats, .bts or .nts, else a virtual address of the task. -/
def mkSide (asid : Nat) (isHandle : Bool) (w : Word) : Side := if isHandle then .handle w 0 else .va asid w.toNat

/-- The side some bytes further on. -/
def Side.plus (x : Side) (n : Nat) : Side :=
  match x with
  | .va a v => .va a (v + n)
  | .handle h m => .handle h (m + n)

/-- Its address or handle, as a record names it. -/
def Side.addr (x : Side) : Nat := match x with | .va _ v => v | .handle h _ => h.toNat

/-- What a transfer of some bytes meets at a side (R468, R483). -/
inductive Reach where
  | ok
  | held
  | bad (cause : Nat)
deriving DecidableEq, Repr

/-- The first that is not ok: a bad one before a held one. -/
def Reach.join (a b : Reach) : Reach :=
  match a, b with
  | .bad c, _ => .bad c
  | _, .bad c => .bad c
  | .held, _ => .held
  | _, x => x

/-- The way of a chunk to a package: what is on its way to one that has gone silent is held like that to one in recovery (R483, R485). -/
def State.haulRoute (s : State) (pkg va : Nat) : Option Acc :=
  match s.route pkg va with
  | none => none
  | some x =>
    match Tab.get PeerState.normal s.hub.peers pkg with
    | .silent _ => some (.park (.remote pkg va))
    | _ => some x

/-- One byte at a virtual address; host pages only where R390 lets the job reach them. -/
def State.reachVa (s : State) (asid va : Nat) (write host : Bool) : Reach :=
  if asid = 0 || 2 ^ 56 ≤ va then .bad 332
  else
    match s.page? asid va with
    | none => .bad 332
    | some p =>
      match p.place with
      | .host _ => if host && !(write && (p.readOnly || s.roRange asid va)) then .ok else .bad 332
      | q =>
        if s.firmwares p || (write && (p.readOnly || s.roRange asid va)) then .bad 332
        else
          match s.haulRoute q.pkg va with
          | none => .ok
          | some (.park _) => .held
          | some _ => .bad 332

/-- n bytes from an offset of a handle on: current generation, and for a write inside the allocation (R78). The answer of
another package's team is a free choice [21, DESIGN CHOICE]. -/
def State.reachHandle (s : State) (h : Word) (off n : Nat) (write : Bool) : Reach :=
  if hPkg h = s.hub.config.package then
    match s.team? (hRid h) with
    | some t => if t.gen != hGen h then .bad 327 else if write && t.scratchSize < hOff h + off + n then .bad 332 else .ok
    | none => .bad 327
  else
    match s.haulRoute (hPkg h) h.toNat with
    | none => if Config.freeBit s.free then .ok else .bad 327
    | some (.park _) => .held
    | some _ => .bad 332

/-- n bytes of a side from an offset on: every page they touch. -/
def State.reach (s : State) (x : Side) (off n : Nat) (write host : Bool) : Reach :=
  if n = 0 then .ok
  else
    match x with
    | .va asid v =>
      let blocks := (List.range ((v + off + n - 1) / 65536 - (v + off) / 65536 + 1)).map (fun i => Nat.max (v + off) (((v + off) / 65536 + i) * 65536))
      blocks.foldl (fun r y => r.join (s.reachVa asid y write host)) .ok
    | .handle h m => s.reachHandle h (m + off) n write

/-- The bytes of a side. Scratch of another package, and bytes past the allocation, are free values [21, DESIGN CHOICE]. -/
def State.sideBytes (s : State) (x : Side) (off n : Nat) : List Byte :=
  match x with
  | .va asid v => s.vaBytes asid (v + off) n
  | .handle h m =>
    let free (i : Nat) : Byte := (Config.freeWord (s.free + i)).truncate 8
    match s.team? (hRid h) with
    | some t =>
      if hPkg h = s.hub.config.package then
        (List.range n).map (fun i => if hOff h + m + off + i < t.scratchSize then t.scratch.read (hOff h + m + off + i) else free i)
      else (List.range n).map free
    | none => (List.range n).map free

/-- The bytes of a side that lie in poisoned granules, by number (R468). -/
def State.sidePoison (s : State) (x : Side) (off n : Nat) : List Nat :=
  match x with
  | .va asid v =>
    if s.poison.isEmpty then []
    else (List.range n).filter (fun i => match s.page? asid (v + off + i) with
      | some p => s.poison.contains (p.flat (v + off + i) / 8)
      | none => false)
  | .handle h m =>
    match s.team? (hRid h) with
    | some t => if hPkg h = s.hub.config.package && !t.scratchPoison.isEmpty then
        (List.range n).filter (fun i => t.scratchPoison.contains ((hOff h + m + off + i) / 8)) else []
    | none => []

/-- Add granules to a poison list. -/
def addPoison (ps gs : List Nat) : List Nat := gs.foldl (fun l g => if l.contains g then l else g :: l) ps

/-- A write lands in a team's scratch; bytes of bad poison their granules, and a whole granule written clears its own (R468, R471). -/
def Team.scratchLand (t : Team) (w : HeldWrite) : Team :=
  let old := (t.scratch.read w.off).toNat
  let code := ((w.bytes.getD 0 0).toNat) % 16
  let bs := if w.nib = 2 then w.bytes
    else if w.nib = 3 then (w.bytes.zip (t.scratch.readN w.off w.bytes.length)).map (fun x => x.1 ||| x.2)
    else [BitVec.ofNat 8 (if w.nib = 0 then old / 16 * 16 + code else old % 16 + code * 16)]
  let clean := if t.scratchPoison.isEmpty then [] else t.scratchPoison.filter (fun g => !(wholeGranules w.off bs.length).contains g)
  { t with scratch := t.scratch.writeN w.off bs, idempotent := false, scratchPoison := addPoison clean (w.bad.map (fun i => (w.off + i) / 8)) }

/-- A write into a team's scratch is an escape (R473); into a moving team's, it is held (R78) [61, DEDUCED]. -/
def State.scratchWrite (s : State) (rid : Nat) (w : HeldWrite) : State :=
  s.updTeam rid (fun t => if t.moving then { t with heldWrites := t.heldWrites ++ [w], idempotent := false } else t.scratchLand w)

/-- A chunk of a job writes bytes at a side, with which it ends where it is named; bytes of bad poison their granules (R468, R471)
[61, DEDUCED]. -/
def State.sideWrite (s : State) (part : Option (Nat × Nat)) (x : Side) (off : Nat) (bs : List Byte) (bad : List Nat) : State :=
  match x with
  | .va asid v =>
    let s1 := s.putVa asid (v + off) bs
    if bad.isEmpty then s1
    else { s1 with poison := addPoison s1.poison (bad.filterMap (fun i => (s1.page? asid (v + off + i)).map (fun p => p.flat (v + off + i) / 8))) }
  | .handle h m =>
    if hPkg h = s.hub.config.package then
      s.scratchWrite (hRid h) { off := hOff h + m + off, bytes := bs, nib := 2, bad := bad, part := part }
    else s

/-- A chunk merges one nibble into a byte of a side, as one operation (R214). -/
def State.sideNibble (s : State) (part : Option (Nat × Nat)) (x : Side) (off nib code : Nat) (bad : Bool) : State :=
  match x with
  | .va _ _ =>
    let old := ofBytesLE (s.sideBytes x off 1)
    s.sideWrite part x off (toBytesLE 1 (if nib = 0 then old / 16 * 16 + code % 16 else old % 16 + code % 16 * 16)) (if bad then [0] else [])
  | .handle h m =>
    if hPkg h = s.hub.config.package then
      s.scratchWrite (hRid h) { off := hOff h + m + off, bytes := toBytesLE 1 (code % 16), nib := nib, bad := if bad then [0] else []
                                part := part }
    else s

/-- Writes at the side are held: its team moves (R78). -/
def State.sideMoves (s : State) (x : Side) : Bool :=
  match x with
  | .va _ _ => false
  | .handle h _ => hPkg h == s.hub.config.package && ((s.team? (hRid h)).map (fun t => t.moving && t.gen == hGen h)).getD false

/-! ## Tensor maps (R93 to R95) -/

/-- A tensor map as the agents read it. -/
structure TMap where
  base : Nat
  dims : Nat
  zfill : Bool
  tscale : Nat
  tfmt : Nat
  dscale : Word
  dfmt : Nat
  strides : List Int
  steps : List Nat
  extents : List Nat
  wins : List Nat
deriving DecidableEq, Repr

def TMap.ofWords (ws : List Word) : TMap :=
  let w (i : Nat) : Word := ws.getD i 0
  let step (k : Nat) : Nat := if k < 3 then Nat.max 1 (field (w (3 + k)) 56 8) else 1
  { base := field (w 0) 0 56, dims := field (w 0) 56 3 + 1, zfill := (w 0).getLsbD 59
    tscale := field (w 1) 0 56, tfmt := field (w 1) 56 4
    dscale := BitVec.ofNat 64 (field (w 2) 0 56), dfmt := field (w 2) 56 4
    strides := (List.range 7).map (fun k => sval 56 (w (3 + k))), steps := (List.range 7).map step
    extents := (List.range 7).map (fun k => field (w (10 + k / 2)) (32 * (k % 2)) 32)
    wins := (List.range 7).map (fun k => field (w (14 + k / 4)) (16 * (k % 4)) 16) }

/-- A reserved bit of the map is set, step bytes of dimensions 3 and up below the rank among them (R93, R457). -/
def mapReserved (ws : List Word) : Bool :=
  let w (i : Nat) : Word := ws.getD i 0
  let dims := field (w 0) 56 3 + 1
  field (w 0) 60 4 != 0 || field (w 1) 60 4 != 0 || field (w 2) 60 4 != 0 || field (w 13) 32 32 != 0 || field (w 15) 48 16 != 0
  || (List.range 7).any (fun k => 3 ≤ k && k < dims && field (w (3 + k)) 56 8 != 0)

/-- Bits of an element of a haul format (R94). -/
def haulBits (f : Nat) : Nat :=
  match f with
  | 4 | 11 => 4
  | 5 | 6 | 12 => 16
  | 7 | 8 | 13 => 32
  | 14 => 64
  | _ => 8

def haulBlock (f : Nat) : Bool := f == 9 || f == 10 || f == 11
def haulFloat (f : Nat) : Bool := 2 ≤ f && f ≤ 11 && f != 8
def productOf (l : List Nat) : Nat := l.foldl (fun a b => a * b) 1

/-- Lowest address and one past the highest of the tensor side of a window (R457). -/
def TMap.span (m : TMap) (origin : List Int) : Int × Int :=
  let nib := haulBits m.tfmt = 4
  let size : Int := if nib then 1 else (haulBits m.tfmt / 8 : Nat)
  (List.range m.dims).foldl (fun (r : Int × Int) k =>
    let c0 := origin.getD k 0
    let c1 := c0 + ((m.wins.getD k 1 - 1 : Nat) : Int) * (m.steps.getD k 1 : Nat)
    let at1 (c : Int) : Int := if nib && k = 0 then c / 2 else c * m.strides.getD k 0
    (r.1 + min (at1 c0) (at1 c1), r.2 + max (at1 c0) (at1 c1))) ((m.base : Int), (m.base : Int) + size)

/-! ## What a job instruction asks for -/

/-- Lane and address or operand in info, for the causes of class 2 (R449). -/
def View.jobInfo (v : View) (role : Nat) : Nat := (lanesOf v.sp.mask).headD 0 + 32 * role

/-- The conditions of a side, with the lane and role that info names: a handle's (134, 834) or a virtual address's [19, DEDUCED]. -/
def View.sideAt (v : View) (info : Nat) (isHandle : Bool) (w : Word) : List Raise :=
  if isHandle then
    (if hRsv w != 0 then [{ cause := 134, info := info, addr := w.toNat }] else [])
    ++ (if v.s.hub.config.packages ≤ hPkg w then [{ cause := 834, info := hPkg w, addr := w.toNat }] else [])
  else if 2 ^ 56 ≤ w.toNat then [{ cause := 130, info := info, addr := w.toNat }]
  else []

/-- The conditions of a job's side: the job is issued for the lowest active lane (R206) [19, DEDUCED]. -/
def View.sideCheck (v : View) (role : Nat) (isHandle : Bool) (w : Word) : List Raise := v.sideAt (v.jobInfo role) isHandle w

/-- The notify pair's conditions: spc 2 a handle, 3 a virtual address (R207). -/
def View.notifyCheck (v : View) (a : Args) : List Raise :=
  if a.spc = 0 || a.d = .none then []
  else
    let w := v.rdU a.d 7
    v.sideCheck 0 (a.spc == 2) w
    ++ (if (if a.spc = 2 then hOff w else w.toNat) % 8 != 0 then [{ cause := 128, info := v.jobInfo 0, addr := w.toNat }] else [])

def View.notifyOf (v : View) (a : Args) : Option (Side × Word) :=
  if a.spc = 0 || a.d = .none then none
  else some (mkSide v.t.asid (a.spc == 2) (v.rdU a.d 7), v.rdU (a.d.shift 1) 7)

/-- The team declared no haul entry (R89). -/
def View.haulCheck (v : View) : List Raise := if v.t.hauls = 0 then [{ cause := 322, info := 0, addr := 0 }] else []

def aHandle (a : Args) : Bool := a.sub / 32 % 2 == 1
def bHandle (a : Args) : Bool := a.sub / 16 % 2 == 1

/-- k of hgath, hscat and hmcast: off, or a register on the native machine (R207, R289). -/
def View.haulK (v : View) (a : Args) : Nat :=
  if a.kreg = .none then (a.off % (2 ^ 32 : Nat)).toNat else (v.rdU a.kreg 7).toNat

/-- A choice or a reading of the model: [19, DEDUCED]. -/
def r320 : Raise := { cause := 320, info := 160, addr := 0 }
/-- A choice or a reading of the model: [19, DEDUCED]. -/
def r321 : Raise := { cause := 321, info := 160, addr := 0 }

/-- Two byte ranges meet. -/
def meet (a n b m : Nat) : Bool := decide (0 < n) && decide (0 < m) && decide (a < b + m) && decide (b < a + n)

/-- Both sides are virtual, or handles of one team, and their bytes meet (325). -/
def overlap (role : Nat) (x : Side) (n : Nat) (y : Side) (m : Nat) : List Raise :=
  let hit := match x, y with
    | .va _ p, .va _ q => meet p n q m
    | .handle g _, .handle h _ => g.toNat / 2 ^ 20 == h.toNat / 2 ^ 20 && meet (hOff g) n (hOff h) m
    | _, _ => false
  if hit then [{ cause := 325, info := 32 * role, addr := 0 }] else []

def View.sideA (v : View) (a : Args) : Side := mkSide v.t.asid (aHandle a) (v.rdU a.a 7)
def View.sideB (v : View) (a : Args) : Side := mkSide v.t.asid (bHandle a) (v.rdU a.b 7)

/-- A chunk side that is not 4 KiB aligned (323). -/
def chunkAlign (role : Nat) (x : Side) : List Raise :=
  let o := match x with | .va _ v => v | .handle h _ => hOff h
  if o % 4096 != 0 then [{ cause := 323, info := 32 * role, addr := x.addr }] else []

/-- The words of a list in die memory, as they stand at issue; none where it cannot be reached (R467), or not yet. -/
def State.listAt (s : State) (asid va n : Nat) : Option (List Byte) :=
  match s.reach (.va asid va) 0 n false false with
  | .ok => some (s.vaBytes asid va n)
  | _ => none

/-- The read of a list waits for its package (R483, R485): the instruction is held. -/
def View.listHeld (v : View) (va n : Nat) : Option Wait :=
  match v.s.reach (.va v.t.asid va) 0 n false false with
  | .held => some (.remote (((v.s.page? v.t.asid va).map (fun p => p.place.pkg)).getD 0) va)
  | _ => none

/-- The tensor map of an instruction (A operand); the empty list where it cannot be reached. -/
def View.mapWords (v : View) (a : Args) : List Word :=
  match v.s.listAt v.t.asid (v.rdU a.a 7).toNat 128 with
  | some bs => (List.range 16).map (wordAt bs)
  | none => []

/-- The entries, n of w bytes each, of a list in die memory that lie in poisoned granules (R468) [105, DEDUCED]. -/
def View.listTaint (v : View) (va n w : Nat) : List Nat :=
  if v.s.poison.isEmpty then [] else ((v.s.sidePoison (.va v.t.asid va) 0 (n * w)).map (fun b => b / w)).eraseDups

/-- The tensor map of an instruction lies in a poisoned granule [105, DEDUCED]. -/
def View.mapTaint (v : View) (a : Args) : Bool := !(v.listTaint (v.rdU a.a 7).toNat 1 128).isEmpty

/-- The origin registers o, o + 1, … (R213). -/
def View.originOf (v : View) (a : Args) (dims : Nat) : List Int :=
  (List.range dims).map (fun i => sval 32 (v.rdU (a.c.shift i) 4))

/-- The dense side is aligned to 16 bytes. -/
def View.denseCheck (v : View) (a : Args) : List Raise :=
  let o := match v.sideB a with | .va _ x => x | .handle h _ => hOff h
  if o % 16 != 0 then [{ cause := 128, info := v.jobInfo 2, addr := (v.rdU a.b 7).toNat }] else []

/-- The conditions of a tensor map (R457); rows tells hgath and hscat [19, DEDUCED]. -/
def View.mapChecks (v : View) (a : Args) (rows : Bool) : List Raise :=
  let ws := v.mapWords a
  let m := TMap.ofWords ws
  let x := (v.rdU a.a 7).toNat
  v.sideCheck 5 false (v.rdU a.a 7)
  ++ (if x % 128 != 0 then [{ cause := 128, info := v.jobInfo 5, addr := x }] else [])
  ++ v.denseCheck a
  ++ (if ws.isEmpty then []
      else
        (if mapReserved ws then [{ cause := 134, info := v.jobInfo 5, addr := x }] else [])
        ++ (if (m.extents.take m.dims).contains 0 || (m.wins.take m.dims).contains 0 || m.dims = 8 || m.tfmt = 15 || m.dfmt = 15
              || (rows && m.dims = 1) then [r320] else [])
        ++ (if (m.tfmt != m.dfmt && !(haulFloat m.tfmt && haulFloat m.dfmt))
              || ((haulBlock m.tfmt || haulBlock m.dfmt) && m.wins.getD 0 0 % 16 != 0) then [r321] else [])
        ++ (if haulBlock m.dfmt then v.sideCheck 5 (bHandle a) m.dscale else []))

/-! ## Issue -/

/-- The task's class is DEADLINE (R367). -/
def State.isDeadline (s : State) (task : Nat) : Bool := s.hub.tasks.any (fun k => k.id == task && k.cls == 0)

/-- Elements of the dense side that one chunk of a tensor job takes: 4 KiB of them [73, DESIGN CHOICE]. -/
def elemsPerChunk (dfmt : Nat) : Nat := 32768 / haulBits dfmt

/-- The JV PC a record names for a job (R462): on the native machine that of the commit point which issues it, unless a map entry of kind 4 for
the slot gives it. -/
def View.jobPc (v : View) (slot : Nat) : Nat :=
  if v.native then
    match v.sp.stage.bind (fun x => x.record), v.t.natCode with
    | some r, some c =>
      (match (c.mapsOf r).find? (fun e => e.kind == 4 && e.loc == slot) with
       | some e => e.jvreg
       | none => r.jvpc)
    | _, _ => 0
  else v.t.kern.jvOffset v.sp.pc

/-- Tokens of a mask that are complete. -/
def Gang.complete (g : Gang) (mask : Nat) : Nat :=
  (List.range 8).foldl (fun m k => if mask.testBit k && g.tokens.getD k 0 == 0 then m + 2 ^ k else m) 0

/-- Contexts parked by hwait go on when every token of their masks is complete (R60, R217). -/
def Gang.wakeTokens (g : Gang) (now : Nat) : Gang :=
  { g with splits := g.splits.map (fun sp => match sp.used, sp.wait with
      | true, .haul m => if (List.range 8).all (fun k => !m.testBit k || g.tokens.getD k 0 == 0) then sp.wake now else sp
      | _, _ => sp) }

/-- Count one token down. -/
def Gang.tokenDown (g : Gang) (k : Nat) : Gang := { g with tokens := g.tokens.set k (g.tokens.getD k 0 - 1) }
def Gang.tokenUp (g : Gang) (k : Nat) : Gang := { g with tokens := g.tokens.set k (g.tokens.getD k 0 + 1) }

/-- Bit 63 inverted, as a degraded job notifies (R469). -/
def degradedValue (v : Word) : Word := v ^^^ 0x8000000000000000

/-- The record of a fault an agent found after issue (R462, R468). -/
def State.logJob (s : State) (j : Job) (cause unit addr chunk : Nat) : State :=
  if j.foreign then s
  else s.log { cause := cause, task := j.task, team := j.team, gang := j.gang, jvpc := j.jvpc, unit := unit, addr := addr, word4 := chunk }

/-- Jobs whose sides may lie in host pages (R390); those of another package's jobs may not (R467). -/
def Job.hostOk (j : Job) : Bool := (match j.kind with | .copy | .fill _ => true | _ => false) && !j.foreign

def State.updJob (s : State) (id : Nat) (f : Job → Job) : State := { s with jobs := updFirst (fun j => j.id == id) f s.jobs }

/-- A job's last write, its token and its queue entry (R90, R91, R208, R469): the state while its notify word is held, for a team that
moves too, is unchanged. -/
def State.completeJob (s : State) (j : Job) : State :=
  let value (w : Word) : Word := if j.degraded then degradedValue w else w
  let r : Option State :=
    match j.notify with
    | none => some s
    | some (x, w) =>
      match s.reach x 0 8 true j.hostOk with
      | .held => none
      | .bad c => some (s.logJob j c 0 x.addr 0)
      | .ok => if s.sideMoves x then none else some (s.sideWrite none x 0 (toBytesLE 8 (value w).toNat) [])
  match r with
  | none => s
  | some s1 =>
    let s2 : State := { s1 with jobs := s1.jobs.filter (fun q => q.id != j.id) }
    s2.updTeam j.rid (fun t =>
      if t.gen != j.gen then t
      else
        let t1 := t.updGang j.gang (fun g => (g.tokenDown j.token).wakeTokens s1.now)
        ({ t1 with haulsUsed := t1.haulsUsed - 1 }).wakeIf s1.now (fun w => match w with | .full => true | _ => false))

/-- Chunks of a job (R21). -/
def JobKind.chunks (k : JobKind) (n : Nat) : Nat :=
  let pieces := (n + 4095) / 4096
  match k with
  | .copy | .fill _ => pieces
  | .mcast targets => pieces * targets.length
  | .copyCk | .red => n
  | .tens map _ _ | .rows map _ _ =>
    if map.isEmpty then 1 else let per := elemsPerChunk (TMap.ofWords map).dfmt; (n + per - 1) / per
  | .pack ty raw _ _ | .unpack ty raw _ _ =>
    let per := if ty = 4 then 1008 else if !raw then 504 else if ty = 10 then 1008 else 2016
    (n + per - 1) / per

/-- Issue one job (R206), or wait for a queue entry (R89). -/
def View.issueJob (v : View) (f : Form) (kind : JobKind) (src dst : Side) (n tok scope : Nat) (notify : Option (Side × Word)) (lost : Bool)
    (taintAll : Bool := false) (taint : List Nat := []) : Out :=
  if v.t.hauls ≤ v.t.haulsUsed then .park v .full
  else
    let j : Job :=
      { id := v.s.nextJob, rid := v.t.rid, gen := v.t.gen, asid := v.t.asid, task := v.t.task, team := v.t.index, gang := v.gang
        token := tok, jvpc := v.jobPc f.slot, die := CoreId.die v.t.core, deadline := v.s.isDeadline v.t.task, kind := kind
        src := src, dst := dst, n := n, fmt := v.sp.fmt, notify := notify, scope := scope
        chunks := kind.chunks n, taken := 0, done := 0
        degraded := false, lost := lost, foreign := false, taintAll := taintAll, taint := taint }
    let s1 : State := { v.s with jobs := v.s.jobs ++ [j], nextJob := v.s.nextJob + 1 }
    let v1 : View := { v with s := s1
                              t := { v.t with haulsUsed := v.t.haulsUsed + 1, idempotent := false }
                              g := v.g.tokenUp tok
                              sp := { v.sp with stalled := false } }
    .done (if j.chunks = 0 then v1.onState (fun s => s.completeJob j) else v1)

/-! ## The job instructions -/

def token (a : Args) : Nat := a.sub % 8
def View.count64 (v : View) (o : Operand) : Nat := (v.rdU o 7).toNat
/-- A 32-bit count (R155, R220). -/
def View.count32 (v : View) (o : Operand) : Nat := (v.rdU o 5).toNat % 2 ^ 32
/-- A choice or a reading of the model: [19, DEDUCED]. -/
def r324 (role n : Nat) : Raise := { cause := 324, info := 32 * role, addr := n }

/-- n above 2^32 - 1 (324). -/
def View.nCheck (v : View) (a : Args) : List Raise := if 2 ^ 32 ≤ v.count64 a.c then [r324 3 (v.count64 a.c)] else []

def hcopyChecks (ck : Bool) (v : View) (a : Args) (_ : Mask) : List Raise :=
  let n := v.count64 a.c
  let size := if ck then 4096 * n else n
  v.haulCheck ++ v.notifyCheck a ++ v.sideCheck 1 (aHandle a) (v.rdU a.a 7) ++ v.sideCheck 2 (bHandle a) (v.rdU a.b 7) ++ v.nCheck a
  ++ (if ck then chunkAlign 1 (v.sideA a) ++ chunkAlign 2 (v.sideB a) else [])
  ++ overlap 1 (v.sideA a) size (v.sideB a) size

def hcopyBody (f : Form) (kind : JobKind) (v : View) (a : Args) (_ : Mask) : Out :=
  v.issueJob f kind (v.sideA a) (v.sideB a) (v.count64 a.c) (token a) a.scp (v.notifyOf a) false

def hfillChecks (v : View) (a : Args) (_ : Mask) : List Raise :=
  v.haulCheck ++ v.notifyCheck a ++ v.sideCheck 1 (aHandle a) (v.rdU a.a 7) ++ v.nCheck a

def hfillBody (f : Form) (v : View) (a : Args) (_ : Mask) : Out :=
  v.issueJob f (.fill (v.rdU a.b 7)) (v.sideA a) (v.sideA a) (v.count64 a.c) (token a) a.scp (v.notifyOf a) false

def hredChecks (v : View) (a : Args) (_ : Mask) : List Raise :=
  let n := v.count64 a.c
  v.haulCheck ++ v.notifyCheck a ++ v.sideCheck 1 (aHandle a) (v.rdU a.a 7) ++ v.sideCheck 2 false (v.rdU a.b 7) ++ v.nCheck a
  ++ chunkAlign 1 (v.sideA a) ++ chunkAlign 2 (v.sideB a) ++ overlap 1 (v.sideA a) (4096 * n) (v.sideB a) (4096 * n)

/-- hred brings the pages of its B side into die memory first (R216): one page of a virtual range. -/
def State.bringPage (s : State) (asid va : Nat) : State :=
  { s with pages := s.pages.map (fun p =>
      if p.asid = asid ∧ p.vbase ≤ va ∧ va < p.vbase + p.size then { p with parked := some (p.parked.getD s.ptp) } else p) }

/-- The targets of hmcast (R212). -/
def View.targets (v : View) (a : Args) : List Word :=
  let k := v.haulK a
  if k = 0 ∨ 64 < k then []
  else match v.s.listAt v.t.asid (v.rdU a.b 7).toNat (8 * k) with
    | some bs => (List.range k).map (wordAt bs)
    | none => []

def hmcastChecks (v : View) (a : Args) (_ : Mask) : List Raise :=
  let k := v.haulK a
  v.haulCheck ++ v.notifyCheck a ++ v.sideCheck 1 (aHandle a) (v.rdU a.a 7) ++ v.sideCheck 6 false (v.rdU a.b 7) ++ v.nCheck a
  ++ (if k = 0 || 64 < k then [r324 4 k] else [])
  ++ (v.targets a).flatMap (fun h => v.sideCheck 6 true h)

def hmcastBody (f : Form) (v : View) (a : Args) (_ : Mask) : Out :=
  let ts := v.targets a
  match v.listHeld (v.rdU a.b 7).toNat (8 * v.haulK a) with
  | some w => .park v w
  | none =>
    v.issueJob f (.mcast (if ts.isEmpty then List.replicate (v.haulK a) 0 else ts)) (v.sideA a) (v.sideA a) (v.count64 a.c) (token a) a.scp (v.notifyOf a)
      ts.isEmpty false (v.listTaint (v.rdU a.b 7).toNat ts.length 8)

/-- Bytes of a dense block of a map. -/
def TMap.denseBytes (m : TMap) (n : Nat) : Nat := (n * haulBits m.dfmt + 7) / 8

def htensChecks (v : View) (a : Args) (_ : Mask) : List Raise :=
  let ws := v.mapWords a
  let m := TMap.ofWords ws
  let inRange := match a.c with
    | .reg n _ => decide (n + m.dims ≤ declTotal v.t.kern.decls)
    | _ => true
  let originBad := if ws.isEmpty || inRange then [] else [({ cause := 137, info := a.c.regNum + m.dims - 1, addr := 0 } : Raise)]
  let rest := if ws.isEmpty || !inRange then []
    else ((List.range m.dims).drop 1).flatMap (fun i => v.valCheck (a.c.shift i) 32 ++ (if v.isLane (a.c.shift i) then [r133] else []))
  let sp := m.span (v.originOf a m.dims)
  let n := productOf (m.wins.take m.dims)
  v.haulCheck ++ v.notifyCheck a ++ v.sideCheck 2 (bHandle a) (v.rdU a.b 7) ++ v.mapChecks a false ++ originBad ++ rest
  ++ (if ws.isEmpty then [] else overlap 5 (.va v.t.asid sp.1.toNat) (sp.2 - max sp.1 0).toNat (v.sideB a) (m.denseBytes n))
  ++ (if !ws.isEmpty && ((List.range m.dims).drop 1).any (fun i => v.poisonIn 32 v.sp.mask (a.c.shift i)) then [{ cause := 256, info := 261, addr := 0 }]
      else [])

def htensBody (f : Form) (store : Bool) (v : View) (a : Args) (_ : Mask) : Out :=
  let ws := v.mapWords a
  let m := TMap.ofWords ws
  let n := if ws.isEmpty then 0 else productOf (m.wins.take m.dims)
  match v.listHeld (v.rdU a.a 7).toNat 128 with
  | some w => .park v w
  | none => v.issueJob f (.tens ws store (v.originOf a m.dims)) (.va v.t.asid m.base) (v.sideB a) n (token a) a.scp (v.notifyOf a) ws.isEmpty (v.mapTaint a) []

def rowsChecks (v : View) (a : Args) (_ : Mask) : List Raise :=
  let k := v.haulK a
  v.haulCheck ++ v.notifyCheck a ++ v.sideCheck 2 (bHandle a) (v.rdU a.b 7) ++ v.sideCheck 3 false (v.rdU a.c 7) ++ v.mapChecks a true
  ++ (if k = 0 || 65535 < k then [r324 4 k] else [])

def rowsBody (f : Form) (store : Bool) (v : View) (a : Args) (_ : Mask) : Out :=
  let k := v.haulK a
  let lst := v.s.listAt v.t.asid (v.rdU a.c 7).toNat (4 * k)
  let ws := v.mapWords a
  let index := (List.range k).map (fun i => ofBytesLE (((lst.getD []).drop (4 * i)).take 4))
  let m := TMap.ofWords ws
  let n := if ws.isEmpty then 0 else m.wins.getD 0 0 * k
  match (v.listHeld (v.rdU a.a 7).toNat 128).orElse (fun _ => v.listHeld (v.rdU a.c 7).toNat (4 * k)) with
  | some w => .park v w
  | none => v.issueJob f (.rows ws store index) (.va v.t.asid m.base) (v.sideB a) n (token a) a.scp (v.notifyOf a) (ws.isEmpty || lst.isNone)
    (v.mapTaint a) (v.listTaint (v.rdU a.c 7).toNat k 4)

/-! ## Waiting on tokens (R217) -/

def haulMask (a : Args) : Nat := (a.off % (2 ^ 32 : Nat)).toNat

def maskChecks (_ : View) (a : Args) (_ : Mask) : List Raise := if 256 ≤ haulMask a then [r324 4 (haulMask a)] else []

def hwaitBody (v : View) (a : Args) (_ : Mask) : Out :=
  let m := haulMask a
  if v.sp.latched.isSome || v.g.complete m = m then .done (v.acquire a.wide) else .park v (.haul m)

def htestBody (v : View) (a : Args) (_ : Mask) : Out :=
  let m := v.g.complete (haulMask a)
  .done ((v.acquire a.wide).putUni a.d 5 (BitVec.ofNat 64 m))

/-! ## Chunk instructions (R218 to R221) -/

/-- Elements a chunk holds under TY and .raw (R218), and their size in the chunk. -/
def packPer (ty : Nat) (raw : Bool) : Nat := if ty = 4 then 1008 else if !raw then 504 else if ty = 10 then 1008 else 2016
def packType (ty : Nat) (raw : Bool) : Nat := if ty = 4 then 8 else if !raw then 14 else if ty = 10 then 7 else 5
def packSize (ty : Nat) (raw : Bool) : Nat := if ty = 4 then 4 else if !raw then 8 else if ty = 10 then 4 else 2

def ckRaw (a : Args) : Bool := a.sub / 16 % 2 == 1

def ckpackChecks (v : View) (a : Args) (_ : Mask) : List Raise :=
  let c := v.count64 a.d
  let x := (v.rdU a.a 7).toNat
  let y := (v.rdU a.b 7).toNat
  let p := packPer a.ty (ckRaw a)
  v.haulCheck ++ v.sideCheck 1 false (v.rdU a.a 7) ++ v.sideCheck 2 false (v.rdU a.b 7)
  ++ chunkAlign 2 (.va v.t.asid y)
  ++ (if c = 0 || 2 ^ 32 ≤ c then [r324 0 c] else [])
  ++ overlap 1 (.va v.t.asid x) (c * tyBytes a.ty) (.va v.t.asid y) ((c + p - 1) / p * 4096)

def ckpackBody (f : Form) (unpk : Bool) (v : View) (a : Args) (_ : Mask) : Out :=
  let c := v.count64 a.d
  let x : Side := .va v.t.asid (v.rdU a.a 7).toNat
  let y : Side := .va v.t.asid (v.rdU a.b 7).toNat
  let id := v.rdU a.c 7
  if unpk then v.issueJob f (.unpack a.ty (ckRaw a) c id) y x c (token a) a.scp none false
  else v.issueJob f (.pack a.ty (ckRaw a) c id) x y c (token a) a.scp none false

/-- n of ckver is read as N32. -/
def ckverChecks (v : View) (a : Args) (e : Mask) : List Raise :=
  let x := (v.rdU a.a 7).toNat
  let n := v.count32 a.b
  v.haulCheck ++ v.sideAt ((lanesOf e).headD 0 + 32) false (v.rdU a.a 7) ++ chunkAlign 1 (.va v.t.asid x)
  ++ (if n = 0 || 65535 < n then [r324 2 n] else [])
  ++ (if 2 ^ 56 ≤ x || 65535 < n then []
      else (blocksOf x (4096 * n)).flatMap (fun y => v.dmCheck y ((lanesOf e).headD 0) false))

/-- ckver takes one queue entry and holds the split until the agents have checked the chunks (R220). -/
def ckverBody (v : View) (a : Args) (_ : Mask) : Out :=
  let x := (v.rdU a.a 7).toNat
  let n := v.count32 a.b
  match (blocksOf x (4096 * n)).findSome? (fun y => v.parkOf 3 y false) with
  | some w => .park v w
  | none =>
    if v.t.hauls ≤ v.t.haulsUsed then .park v .full
    else
      let w : Wait := .ckver a.d (v.locsOf a.d 32) x n (v.rdU a.c 7)
      .done { v with t := { v.t with haulsUsed := v.t.haulsUsed + 1, idempotent := false }
                     sp := { v.sp with wait := w, waitStart := v.s.ptp, stalled := false } }

/-- A field of a stored header (R221, R371). -/
def ckField (sub : Nat) (bs : List Byte) : Word :=
  let w (i : Nat) : Word := wordAt bs i
  match sub with
  | 0 => BitVec.ofNat 64 (field (w 0) 0 32)
  | 1 => BitVec.ofNat 64 (field (w 0) 32 32)
  | 2 => BitVec.ofNat 64 (field (w 1) 0 8)
  | 3 => BitVec.ofNat 64 (field (w 1) 16 16)
  | 4 => ofInt 64 (sval 8 (BitVec.ofNat 64 (field (w 1) 8 8)))
  | 5 => BitVec.ofNat 64 (field (w 1) 32 8)
  | 6 => w 2
  | 7 => BitVec.ofNat 64 (field (w 1) 48 16)
  | 8 => BitVec.ofNat 64 (field (w 3) 0 61)
  | _ => BitVec.ofNat 64 (field (w 4) 0 61)

/-- Byte offset and length of the words that a selector reads. -/
def ckFieldAt (sub : Nat) : Nat :=
  match sub with
  | 0 | 1 => 0
  | 6 => 16
  | 8 => 24
  | 9 => 32
  | _ => 8

def ckinfoChecks (v : View) (a : Args) (e : Mask) : List Raise :=
  let x := (v.rdU a.a 7).toNat
  chunkAlign 1 (.va v.t.asid x)
  ++ (v.spaceCheck 3 x 8 1 ((lanesOf e).headD 0) 1 false)

/-- A choice or a reading of the model: [36, DEDUCED]. -/
def ckinfoBody (v : View) (a : Args) (_ : Mask) : Out :=
  let x := (v.rdU a.a 7).toNat
  match v.parkOf 3 x false with
  | some w => .park v w
  | none =>
    if v.s.dmPoison v.t.core v.t.asid (x + ckFieldAt a.sub) 8 true then .raise (raise256 0 (x + ckFieldAt a.sub))
    else
      let r := v.close.homeRead v.t.core v.t.asid x 128
      let due := ((v.s.homeOf v.t.asid x).map (fun h => v.s.now + v.s.homeLatency v.t.core h.1 h.2)).getD 0
      .done (({ v.onState (fun _ => r.2) with due := due }.putUni a.d 7 (ckField a.sub r.1)).holdUntil due)

def execHcopy (f : Form) (s : State) : Result := runOp .hcopy f s (hcopyChecks false) (hcopyBody f .copy)
def execHcopyCk (f : Form) (s : State) : Result := runOp .hcopyCk f s (hcopyChecks true) (hcopyBody f .copyCk)
def execHtens (f : Form) (s : State) : Result := runOp .htens f s htensChecks (htensBody f false)
def execHtensSt (f : Form) (s : State) : Result := runOp .htensSt f s htensChecks (htensBody f true)
def execHgath (f : Form) (s : State) : Result := runOp .hgath f s rowsChecks (rowsBody f false)
def execHscat (f : Form) (s : State) : Result := runOp .hscat f s rowsChecks (rowsBody f true)
def execHred (f : Form) (s : State) : Result := runOp .hred f s hredChecks (hcopyBody f .red)
def execHmcast (f : Form) (s : State) : Result := runOp .hmcast f s hmcastChecks (hmcastBody f)
def execHfill (f : Form) (s : State) : Result := runOp .hfill f s hfillChecks (hfillBody f)
def execHwait (f : Form) (s : State) : Result := runOp .hwait f s maskChecks hwaitBody
def execHtest (f : Form) (s : State) : Result := runOp .htest f s maskChecks htestBody
def execCkpack (f : Form) (s : State) : Result := runOp .ckpack f s ckpackChecks (ckpackBody f false)
def execCkpackUnpk (f : Form) (s : State) : Result := runOp .ckpackUnpk f s ckpackChecks (ckpackBody f true)
def execCkver (f : Form) (s : State) : Result := runOp .ckver f s ckverChecks ckverBody
def execCkinfo (f : Form) (s : State) : Result := runOp .ckinfo f s ckinfoChecks ckinfoBody

end Sys2Proof.Machine
end

