-- ==== Sys2Proof/Machine/Chunk.lean ====
section
/-! DEFINITION. The haul agents and face units at work on chunks: stored chunks (R370 to R374), hops (R375, R376), copies
(R377), reductions (R378), refusals (R493 to R497), degraded chunks (R468), the injector (R524, R525), and the completion of
ckver and of jobs. -/

namespace Sys2Proof.Machine

/-! ## Stored chunks -/

def chunkP : Nat := 2 ^ 61 - 1

/-- Element size and capacity of a chunk type (R372). -/
def chunkSize (ty : Nat) : Nat := match ty with | 14 => 8 | 8 => 4 | 7 => 4 | 5 => 2 | _ => 0
def chunkCap (ty : Nat) : Nat := match ty with | 14 => 504 | 8 => 1008 | 7 => 1008 | 5 => 2016 | _ => 0

/-- A header as its eight words (R371). -/
abbrev ChunkHdr := List Word

def ChunkHdr.tid (h : ChunkHdr) : Nat := field (h.getD 0 0) 0 32
def ChunkHdr.idx (h : ChunkHdr) : Nat := field (h.getD 0 0) 32 32
def ChunkHdr.type (h : ChunkHdr) : Nat := field (h.getD 1 0) 0 8
def ChunkHdr.anchor (h : ChunkHdr) : Int := sval 8 (BitVec.ofNat 64 (field (h.getD 1 0) 8 8))
def ChunkHdr.count (h : ChunkHdr) : Nat := field (h.getD 1 0) 16 16
def ChunkHdr.hops (h : ChunkHdr) : Nat := field (h.getD 1 0) 32 8
def ChunkHdr.flags (h : ChunkHdr) : Nat := field (h.getD 1 0) 48 16
def ChunkHdr.trail (h : ChunkHdr) : Nat := (h.getD 2 0).toNat
def ChunkHdr.s1 (h : ChunkHdr) : Nat := field (h.getD 3 0) 0 61
def ChunkHdr.s2 (h : ChunkHdr) : Nat := field (h.getD 4 0) 0 61

/-- The header with these fields. -/
def ChunkHdr.mk (tid idx type : Nat) (anchor : Int) (count hops flags trail s1 s2 : Nat) : ChunkHdr :=
  [mkWord (tid + idx * 2 ^ 32),
   mkWord (type + (ofInt 8 anchor).toNat * 2 ^ 8 + count * 2 ^ 16 + hops * 2 ^ 32 + flags * 2 ^ 48),
   mkWord trail, mkWord s1, mkWord s2, 0, 0, 0]

/-- A malformed header (R494): type, count, or a reserved bit. -/
def ChunkHdr.malformed (h : ChunkHdr) : Bool :=
  chunkSize h.type = 0 || h.count = 0 || chunkCap h.type < h.count
  || field (h.getD 1 0) 40 8 != 0 || 8 ≤ h.flags || field (h.getD 3 0) 61 3 != 0 || field (h.getD 4 0) 61 3 != 0
  || h.getD 5 0 != 0 || h.getD 6 0 != 0 || h.getD 7 0 != 0

/-- One hop passed (R376). -/
def ChunkHdr.hop (h : ChunkHdr) (id : Nat) : ChunkHdr :=
  ChunkHdr.mk h.tid h.idx h.type h.anchor h.count (Nat.min (h.hops + 1) 255) h.flags (h.trail % 2 ^ 48 * 2 ^ 16 + id) h.s1 h.s2

/-- The identity a seal holds (R493). -/
def ChunkHdr.seal (h : ChunkHdr) : Nat × Nat × Nat × Int × Nat := (h.tid, h.idx, h.type, h.anchor, h.count)

/-- Element i of a payload as an unsigned number. -/
def elemNat (size : Nat) (payload : List Byte) (i : Nat) : Nat := ofBytesLE ((payload.drop (size * i)).take size)

/-- v_i of R372. -/
def elemVal (ty : Nat) (payload : List Byte) (i : Nat) : Int :=
  let x := elemNat (chunkSize ty) payload i
  if ty = 14 then sval 64 (BitVec.ofNat 64 x) else if ty = 8 then sval 32 (BitVec.ofNat 64 x) else (x : Int)

/-- S1 and S2 of some values (R374). -/
def checksums (vals : List Int) : Nat × Nat :=
  let r := vals.foldl (fun (a : Int × Int × Int) v => (a.1 + v, a.2.1 + (a.2.2 + 1) * v, a.2.2 + 1)) (0, 0, 0)
  ((r.1 % (chunkP : Nat)).toNat, (r.2.1 % (chunkP : Nat)).toNat)

/-- S1 and S2 recomputed over a chunk's payload. -/
def payloadSums (h : ChunkHdr) (payload : List Byte) : Nat × Nat :=
  checksums ((List.range h.count).map (elemVal h.type payload))

/-- S1 and S2 of a plain piece: 512 N64 values (R377). -/
def pieceSums (payload : List Byte) : Nat × Nat := checksums ((List.range 512).map (fun i => (elemNat 8 payload i : Int)))

/-- The header and payload of a stored chunk. -/
def splitChunk (bs : List Byte) : ChunkHdr × List Byte := ((List.range 8).map (wordAt bs), bs.drop 64)

/-! ## Places and paths (R375, R376, R393) -/

/-- Package and die of a side; none for a host page [21, DESIGN CHOICE] [29, DESIGN CHOICE]. -/
def State.sidePlace (s : State) (x : Side) : Option (Nat × Nat) :=
  match x with
  | .va asid v =>
    (match s.page? asid v with
     | some p => (match p.place with
        | .die pkg d _ => some (pkg, d)
        | .hbm pkg k _ => some (pkg, k / 3)
        | .host _ => none)
     | none => some (s.hub.config.package, 0))
  | .handle h _ =>
    if hPkg h = s.hub.config.package then some (hPkg h, ((s.team? (hRid h)).map (fun t => CoreId.die t.core)).getD 0)
    else some (hPkg h, (Config.freeWord s.free).toNat % 4)

/-- A ready link of the mask toward a package; which one of several is a free choice (R393) [29, DESIGN CHOICE]. -/
def State.linkTo (s : State) (pkg : Nat) : Nat :=
  let mask := s.hub.config.routes.getD pkg 0
  let ls := (List.range 18).filter (fun l => mask.testBit l && (s.hub.links.getD l Link.down).ready)
  ls.getD ((Config.freeWord s.free).toNat % ls.length) 0

/-- The receiving ends of the links from another package to this one: that of an intermediate package first (R393) [29, DESIGN CHOICE]. -/
def State.inbound (s : State) (pkg : Nat) : List Hop :=
  let l := s.linkTo pkg
  let near := (s.hub.links.getD l Link.down).peerPkg
  let far : List Hop := if near = pkg then [] else [{ id := 0x1000 + (Config.freeWord (s.free + 1)).toNat % 18, pkg := near, via := none }]
  { id := 0x4004, pkg := pkg, via := none } :: far ++ [{ id := 0x1000 + l, pkg := s.hub.config.package, via := some l }]

/-- The receiving ends of the links from this package to another one [29, DESIGN CHOICE]. -/
def State.outbound (s : State) (pkg : Nat) : List Hop :=
  let k := s.linkTo pkg
  let l := s.hub.links.getD k Link.down
  let far : List Hop := if l.peerPkg = pkg then [] else [{ id := 0x1000 + (Config.freeWord (s.free + 2)).toNat % 18, pkg := pkg, via := none }]
  { id := 0x4004, pkg := s.hub.config.package, via := none } :: { id := 0x1000 + l.peerLink, pkg := l.peerPkg, via := some k } :: far

/-- A die's egress port of the switch. -/
def dieHop (pkg die : Nat) : Hop := { id := 0x4000 + die, pkg := pkg, via := none }

/-- The hops after the agent (R376), between two places by package and die: the switch's port where a chunk leaves its die (R25), and the links of a
source or a destination on another package, with an intermediate one (R393); a host page, which has no place, hangs on the hub's port
[29, DESIGN CHOICE]. -/
def State.hopPath (s : State) (agentDie : Nat) (src dst : Option (Nat × Nat)) : List Hop :=
  let own := s.hub.config.package
  let port : Hop := { id := 0x4004, pkg := own, via := none }
  match src, dst with
  | none, none => [port]
  | none, some (pkg, die) => if pkg = own then [dieHop pkg die] else s.outbound pkg ++ [dieHop pkg die]
  | some (q, _), none => if q = own then [port] else s.inbound q ++ [dieHop own agentDie, port]
  | some (q, d), some (pkg, die) =>
    if q = own ∧ pkg = own then (if d = die then [] else [dieHop pkg die])
    else if q = own then s.outbound pkg ++ [dieHop pkg die]
    else if pkg = own then s.inbound q ++ [dieHop pkg die]
    else s.inbound q ++ [dieHop own agentDie] ++ s.outbound pkg ++ [dieHop pkg die]

/-- The face unit, as a hop id, that is home to a side's address. -/
def State.sideFace (s : State) (x : Side) : Nat :=
  match x with
  | .va asid v => (match s.page? asid v with | some p => 0x2000 + faceUnitOf (p.flat v) | none => 0)
  | .handle _ _ => 0

/-! ## Ends of a chunk -/

/-- One more chunk of the job has been performed or set aside. -/
def State.chunkDone (s : State) (j : Job) : State := s.updJob j.id (fun q => { q with done := q.done + 1 })

/-- The chunk's writes have been made, or are held for a team that moves, and it ends with their release (R78, R90). -/
def State.chunkEnd (s : State) (j : Job) (c : Nat) : State :=
  if s.teams.any (fun t => t.heldWrites.any (fun w => w.part == some (j.id, c))) then s else s.chunkDone j

/-- An affected chunk (R468): one record, and the job will end degraded. -/
def State.degrade (s : State) (j : Job) (cause unit addr chunk : Nat) : State :=
  (s.logJob j cause unit addr chunk).updJob j.id (fun q => { q with degraded := true })

/-- A chunk on its way is set aside, with the one record that it gets: the first that it met (R468) [61, DEDUCED] [105, DEDUCED]. -/
def State.degradeOnce (s : State) (j : Job) (t : Transit) (cause unit addr : Nat) : State :=
  if t.noted then s.updJob j.id (fun q => { q with degraded := true }) else s.degrade j cause unit addr t.chunk

/-- Set mis in a stored destination chunk, as one write of bytes 14 and 15, with which the chunk ends (R495, R527). -/
def State.setMis (s : State) (part : Option (Nat × Nat)) (x : Side) : State :=
  match x with
  | .va _ _ => s.sideWrite part x 14 (toBytesLE 2 (ofBytesLE (s.sideBytes x 14 2) % 65536 ||| 4)) []
  | .handle h m =>
    if hPkg h = s.hub.config.package then
      s.scratchWrite (hRid h) { off := hOff h + m + 14, bytes := toBytesLE 2 4, nib := 3, bad := [], part := part }
    else s

/-- A refused chunk (R495 to R497): its refusal write is one of the job's payload writes (R527). -/
def State.refuse (s : State) (j : Job) (cause stage unit suspect chunk : Nat) (dst : Side) (tid idx trail : Nat) : State :=
  let stored := match j.kind with | .copyCk | .red | .pack _ _ _ _ => true | _ => false
  let s1 := if stored then s.setMis (some (j.id, chunk)) dst else s
  let s2 := if j.foreign then s1
    else s1.log { cause := cause, task := j.task, team := j.team, gang := j.gang, outcome := stage, unit := unit
                  jvpc := j.jvpc, addr := dst.addr, word4 := chunk + suspect * 2 ^ 32, word6 := tid + idx * 2 ^ 32, word7 := trail }
  (s2.updJob j.id (fun q => { q with degraded := true })).chunkEnd j chunk

/-! ## Transits -/

/-- Pieces of 4 KiB of a job's bytes. -/
def Job.pieces (j : Job) : Nat := (j.n + 4095) / 4096

/-- The source and destination of chunk c of a job, with its bytes on each, and the chunk's number within its target. -/
def Job.chunkAt (j : Job) (c : Nat) : Side × Nat × Side × Nat × Nat :=
  let piece (k : Nat) : Nat := Nat.min 4096 (j.n - 4096 * k)
  match j.kind with
  | .copy | .fill _ => (j.src.plus (4096 * c), piece c, j.dst.plus (4096 * c), piece c, c)
  | .mcast targets =>
    let k := c % Nat.max 1 j.pieces
    (j.src.plus (4096 * k), piece k, (Side.handle (targets.getD (c / Nat.max 1 j.pieces) 0) 0).plus (4096 * k), piece k, k)
  | .copyCk | .red => (j.src.plus (4096 * c), 4096, j.dst.plus (4096 * c), 4096, c)
  | .pack ty raw n _ =>
    let p := packPer ty raw
    (j.src.plus (p * tyBytes ty * c), tyBytes ty * Nat.min p (n - p * c), j.dst.plus (4096 * c), 4096, c)
  | .unpack ty raw n _ =>
    let p := packPer ty raw
    (j.src.plus (4096 * c), 4096, j.dst.plus (p * tyBytes ty * c), tyBytes ty * Nat.min p (n - p * c), c)
  | .tens _ _ _ | .rows _ _ _ => (j.src, 0, j.dst, 0, c)

/-- The sides of the next chunk of a job. -/
def Job.next (j : Job) : Side × Nat × Side × Nat × Nat := j.chunkAt j.taken

/-- The number of a transit's chunk among all of its job's. -/
def Transit.index (t : Transit) (j : Job) : Nat := match j.kind with | .mcast _ => t.target * Nat.max 1 j.pieces + t.chunk | _ => t.chunk

/-- The destination of a transit's chunk, and its bytes there. -/
def Transit.dst (t : Transit) (j : Job) : Side := (j.chunkAt (t.index j)).2.2.1
def Transit.size (t : Transit) (j : Job) : Nat := (j.chunkAt (t.index j)).2.2.2.1

/-- Bytes up to a place between two granules of a side that a free choice gives; all of them where it gives none (R209, R380). -/
def State.cutAt (s : State) (x : Side) (n : Nat) : Nat :=
  let a := match x with | .va _ v => v | .handle h m => hOff h + m
  Nat.min n (8 * (512 - (Config.freeWord s.free).toNat % 512) - a % 8)

/-- What a hop compares: the carried sums with those of the payload, and the header with its seal; the cause, if any. -/
def Transit.check (t : Transit) : Option Nat :=
  let sums := match t.header with | some h => payloadSums h t.payload | none => pieceSums t.payload
  if sums != (t.s1, t.s2) then some 704
  else match t.header, t.ident with
    | some h, some i => if ChunkHdr.seal h != i then some 705 else none
    | _, _ => none

/-- Trail word: that of the header, or the agent alone for a plain piece. -/
def Transit.trailWord (t : Transit) : Nat :=
  match t.header with | some h => ChunkHdr.trail h | none => 0x3000 + t.agent

def State.dropTransit (s : State) (id : Nat) : State := { s with transits := s.transits.filter (fun t => t.id != id) }

/-- A mismatch at stage 1: the suspect is the newest hop of the trail; one of .unpk remains 331 (R495). -/
def State.refuseTransit (s : State) (j : Job) (t : Transit) (cause unit : Nat) : State :=
  let i := t.ident.getD (0, 0, 0, 0, 0)
  match j.kind with
  | .unpack _ _ _ _ => ((s.dropTransit t.id).degradeOnce j t 331 unit (t.dst j).addr).chunkDone j
  | _ => (s.dropTransit t.id).refuse j cause 1 unit (t.trailWord % 2 ^ 16) t.chunk (t.dst j) i.1 i.2.1 t.trailWord

/-- The header with which hcopy.ck lands: that of its source, mis staying set where the chunk it is written over has it (R377, R498, R500)
[96, DEDUCED]. -/
def State.landHeader (s : State) (x : Side) (h : ChunkHdr) : ChunkHdr :=
  if (ChunkHdr.flags (splitChunk (s.sideBytes x 0 64)).1).testBit 2 then
    ChunkHdr.mk (ChunkHdr.tid h) (ChunkHdr.idx h) (ChunkHdr.type h) (ChunkHdr.anchor h) (ChunkHdr.count h) (ChunkHdr.hops h) (ChunkHdr.flags h ||| 4)
      (ChunkHdr.trail h) (ChunkHdr.s1 h) (ChunkHdr.s2 h)
  else h

/-- A transit whose last hop is passed lands: checked once more, then written (R377, R493), granules up to a cut first and the others
in a later step (R209, R380) [61, DEDUCED]. Of a chunk for a team's scratch every byte is written at once, so that it goes one way as a whole
(R78, R470) [96, DEDUCED]. -/
def State.landTransit (s : State) (j : Job) (t : Transit) : State :=
  let x := t.dst j
  let n := t.size j
  match s.reach x 0 n true j.hostOk with
  | .held => s
  | .bad c => ((s.dropTransit t.id).degradeOnce j t c 0 x.addr).chunkDone j
  | .ok =>
    match t.landed, t.check with
    | none, some c => s.refuseTransit j t c (s.sideFace x)
    | _, _ =>
      let bs := match t.header with
        | some h => bytesOfWords (s.landHeader x h) ++ t.payload
        | none => t.payload.take n
      let lo := t.landed.getD 0
      let whole := t.landed.isSome || (match x with | .handle _ _ => true | .va _ _ => false)
      let hi := if whole then n else s.cutAt x n
      let s1 := s.sideWrite (if hi < n then none else some (j.id, t.index j)) x lo ((bs.drop lo).take (hi - lo))
        ((t.poison.filter (fun i => lo ≤ i && i < hi)).map (fun i => i - lo))
      if hi < n then { s1 with free := s1.free + 1, transits := updFirst (fun q => q.id == t.id) (fun q => { q with landed := some hi }) s1.transits }
      else (s1.dropTransit t.id).chunkEnd j (t.index j)

/-! ## The injector (R524, R525) -/

def injArm (c : Word) : Bool := c.getLsbD 0
def injLink (c : Word) : Nat := field c 8 5
def injNth (c : Word) : Nat := field c 16 16
def injElem (c : Word) : Nat := field c 32 11

/-- The injector of a package: this one's stands in its registers, where the configuration record lets it (R526) [21, DESIGN CHOICE]. -/
def State.injector (s : State) (pkg : Nat) : Option PeerInj :=
  if pkg = s.hub.config.package then
    (if s.hub.config.testMode then some { pkg := pkg, ctl := s.hub.injCtl, key := s.hub.injKey, xor := s.hub.injXor, count := s.hub.injCount } else none)
  else s.peerInj.find? (fun i => i.pkg == pkg)

/-- The registers of an injector after it has counted or fired. -/
def State.setInjector (s : State) (i : PeerInj) : State :=
  if i.pkg = s.hub.config.package then { s with hub := { s.hub with injCtl := i.ctl, injCount := i.count } }
  else { s with peerInj := updFirst (fun x => x.pkg == i.pkg) (fun _ => i) s.peerInj }

/-- A chunk of hcopy.ck or hred arrives over a package's link l, bound for one of its dies. -/
def State.injArrive (s : State) (pkg : Nat) (t : Transit) (l : Nat) : State × Transit :=
  match t.header, s.injector pkg with
  | some h, some i =>
    if injArm i.ctl && injLink i.ctl = l && ChunkHdr.tid h = field i.key 0 32 && ChunkHdr.idx h = field i.key 32 32 then
      (s.setInjector { i with count := i.count + 1 },
       if i.count + 1 = injNth i.ctl then { t with marked := some (injElem i.ctl, i.xor) } else t)
    else (s, t)
  | _, _ => (s, t)

/-- A marked chunk leaves the egress port of its destination die with one element changed, as the registers stood when it arrived (R524, R525). -/
def State.injFire (s : State) (pkg : Nat) (t : Transit) : State × Transit :=
  match t.header, t.marked, s.injector pkg with
  | some h, some (elem, mask), some i =>
    let size := chunkSize (ChunkHdr.type h)
    let e := elem % ChunkHdr.count h
    let x := Nat.xor (elemNat size t.payload e) (mask.toNat % 2 ^ (8 * size))
    let payload := t.payload.take (size * e) ++ toBytesLE size x ++ t.payload.drop (size * (e + 1))
    (s.setInjector { i with ctl := BitVec.ofNat 64 (i.ctl.toNat / 4 * 4 + 2) }, { t with payload := payload, marked := none })
  | _, _, _ => (s, t)

/-! ## Hops -/

/-- A hop id of kind 1: the receiving end of a link. -/
def Hop.isLink (h : Hop) : Bool := h.id / 4096 == 1

/-- CHUNK_HOP: one hop of a transit (R376): the check, then the header. The injector of a package counts the chunks that come over a link of it for
one of its dies, before they are checked, and changes a marked one behind the check of its last port (R525). -/
def State.chunkHop (s : State) (j : Job) (t : Transit) (h : Hop) (rest : List Hop) : State :=
  let home := (s.sidePlace (t.dst j)).any (fun p => p.1 == h.pkg)
  let a := if home && h.isLink then s.injArrive h.pkg t (h.id % 4096) else (s, t)
  match a.2.check with
  | some c => a.1.refuseTransit j a.2 c h.id
  | none =>
    let t1 : Transit := { a.2 with header := a.2.header.map (fun x => ChunkHdr.hop x h.id), path := rest
                                   buffer := if h.isLink then some (h.pkg, h.id) else none }
    let b := if home && h.id / 4096 = 4 && rest.isEmpty then a.1.injFire h.pkg t1 else (a.1, t1)
    { b.1 with transits := updFirst (fun q => q.id == t.id) (fun _ => b.2) b.1.transits }

/-! ## Reductions (R378) -/

/-- Elements of two chunks added; none where a sum leaves its type's range (329). -/
def addPayloads (ty count : Nat) (a b : List Byte) : Option (List Byte) :=
  let size := chunkSize ty
  let lo : Int := if ty = 14 then -(2 ^ 63 - 1) else -(2 ^ 31)
  let hi : Int := if ty = 14 then 2 ^ 63 - 1 else 2 ^ 31 - 1
  let sums := (List.range count).map (fun i => elemVal ty a i + elemVal ty b i)
  if sums.any (fun x => decide (x < lo) || decide (hi < x)) then none
  else some (sums.flatMap (fun x => toBytesLE size (ofInt (8 * size) x).toNat) ++ b.drop (size * count))

/-- CHUNK_REDUCTION: a chunk that has passed its hops is added into its destination at the face unit. -/
def State.reduce (s : State) (j : Job) (t : Transit) : State :=
  let x := t.dst j
  let fu := s.sideFace x
  let s1 := s.dropTransit t.id
  let aside (c : Nat) : State := (s1.degradeOnce j t c fu x.addr).chunkDone j
  match s.reach x 0 4096 true false with
  | .held => s
  | .bad c => aside c
  | .ok =>
    match t.check, t.header with
    | some c, _ => s.refuseTransit j t c fu
    | none, none => s1.chunkDone j
    | none, some h =>
      let st := splitChunk (s.sideBytes x 0 4096)
      let b := st.1
      if !t.poison.isEmpty || !(s.sidePoison x 0 4096).isEmpty then aside 256
      else if ChunkHdr.malformed b then s1.refuse j 705 2 fu fu t.chunk x (ChunkHdr.tid b) (ChunkHdr.idx b) (ChunkHdr.trail h)
      else if payloadSums b st.2 != (ChunkHdr.s1 b, ChunkHdr.s2 b) then
        s1.refuse j 704 2 fu fu t.chunk x (ChunkHdr.tid h) (ChunkHdr.idx h) (ChunkHdr.trail h)
      else if ChunkHdr.seal h != ChunkHdr.seal b then aside 328
      else if ChunkHdr.type h != 14 && ChunkHdr.type h != 8 then aside 330
      else
        match addPayloads (ChunkHdr.type h) (ChunkHdr.count h) t.payload st.2 with
        | none => aside 329
        | some p =>
          let n1 := (ChunkHdr.s1 b + ChunkHdr.s1 h) % chunkP
          let n2 := (ChunkHdr.s2 b + ChunkHdr.s2 h) % chunkP
          if payloadSums b p != (n1, n2) then
            s1.refuse j 704 3 fu fu t.chunk x (ChunkHdr.tid h) (ChunkHdr.idx h) (ChunkHdr.trail h)
          else
            let hdr := ChunkHdr.mk (ChunkHdr.tid b) (ChunkHdr.idx b) (ChunkHdr.type b) (ChunkHdr.anchor b) (ChunkHdr.count b)
              (Nat.min (Nat.max (ChunkHdr.hops h) (ChunkHdr.hops b) + 1) 255)
              (ChunkHdr.flags b ||| ChunkHdr.flags h ||| 2) (ChunkHdr.trail h % 2 ^ 48 * 2 ^ 16 + fu) n1 n2
            (s1.sideWrite none x 0 (bytesOfWords hdr ++ p) []).chunkDone j

/-! ## Tensor transfers (R213 to R215) -/

/-- Window coordinates of element i of a job's window. -/
def winCoords (wins : List Nat) (dims i : Nat) : List Nat :=
  ((List.range dims).foldl (fun (r : List Nat × Nat) k =>
    let w := Nat.max 1 (wins.getD k 1)
    (r.1 ++ [r.2 % w], r.2 / w)) ([], i)).1

/-- Tensor coordinates of element i: from an origin, or from a list of rows. -/
def tensorCoords (m : TMap) (origin : List Int) (rows : Option (List Nat)) (i : Nat) : List Int :=
  match rows with
  | some index =>
    let w := Nat.max 1 (m.wins.getD 0 1)
    (List.range m.dims).map (fun k =>
      if k = 0 then ((i % w * m.steps.getD 0 1 : Nat) : Int) else if k = 1 then ((index.getD (i / w) 0 : Nat) : Int) else 0)
  | none =>
    let js := winCoords m.wins m.dims i
    (List.range m.dims).map (fun k => origin.getD k 0 + ((js.getD k 0 * m.steps.getD k 1 : Nat) : Int))

def insideTensor (m : TMap) (c : List Int) : Bool :=
  (List.range m.dims).all (fun k => decide (0 ≤ c.getD k 0) && decide (c.getD k 0 < (m.extents.getD k 0 : Int)))

/-- Byte address and nibble of a tensor element (R95, R105). -/
def tensorAddr (m : TMap) (c : List Int) : Nat × Nat :=
  let rest := ((List.range m.dims).drop 1).foldl (fun (s : Int) k => s + c.getD k 0 * m.strides.getD k 0) 0
  let c0 := c.getD 0 0
  if haulBits m.tfmt = 4 then ((((m.base : Int) + c0 / 2 + rest) % (2 ^ 64 : Nat)).toNat, (c0 % 2).toNat)
  else ((((m.base : Int) + c0 * m.strides.getD 0 0 + rest) % (2 ^ 64 : Nat)).toNat, 0)

/-- Byte offset and nibble of a dense position: two positions of E2M1 share a byte, across the ends of rows too [17, DEDUCED]
[92, DESIGN CHOICE]. -/
def denseAt (fmt p : Nat) : Nat × Nat :=
  if haulBits fmt = 4 then (p / 2, p % 2) else (p * (haulBits fmt / 8), 0)

/-- Place of the scale byte of the block that holds a coordinate, in a side of given sizes (R105) [17, DEDUCED]. -/
def scaleAt (sizes : List Nat) (c : List Int) : Nat :=
  let dims := c.length
  let r := ((List.range dims).drop 1).foldl (fun (a : Int × Nat) k =>
    let z := if k = 1 then (sizes.getD 0 0 + 15) / 16 else a.2 * sizes.getD (k - 1) 0
    (a.1 + c.getD k 0 * (z : Nat), z)) (c.getD 0 0 / 16, 0)
  r.1.toNat

/-- The floating type of a haul format's element. -/
def haulTy (f : Nat) : Nat := match f with | 2 | 10 => 13 | 3 => 14 | 4 | 11 => 16 | 5 => 9 | 6 => 8 | _ => 10

/-- The value of an element of a format under a scale byte (R104). -/
def haulValue (f code : Nat) (scale : Nat) : Ex :=
  if haulBlock f then
    if scale = 255 then .nan false
    else
      let x := if f = 9 then Ex.ofInt (sval 8 (BitVec.ofNat 64 code)) else decodeF (haulTy f) code
      match x with
      | .num n m e => .num n m (e + scale - 127)
      | y => y
  else decodeF (haulTy f) code

/-- Scale byte and codes of 16 values (R106) [17, DEDUCED]. -/
def blockConvert (f rm : Nat) (xs : List Ex) : Nat × List Nat :=
  let special := xs.any (fun x => match x with | .num _ _ _ => false | _ => true)
  if special then (255, xs.map (fun _ => 0))
  else if xs.all Ex.isZero then (0, xs.map (fun _ => 0))
  else
    let emax : Int := if f = 9 then 6 else if f = 10 then 8 else 2
    let top := xs.foldl (fun (a : Int) x => match x with
      | .num _ m e => if m = 0 then a else max a (e + Nat.log2 m)
      | _ => a) (-1000000)
    let sc := satInt (top - emax) (-127) 127
    let conv (x : Ex) : Nat :=
      match x with
      | .num n m e =>
        if f = 9 then (ofInt 8 (satInt (Ex.roundInt rm (.num n m (e - sc))).1 (-127) 127)).toNat
        else (cvtF (haulTy f) rm true (.num n m (e - sc))).1
      | _ => 0
    ((sc + 127).toNat, xs.map conv)

/-- An element to move: where it is read, where it is written, and whether it takes part. -/
structure TensElem where
  i : Nat
  coords : List Int
  inside : Bool
deriving DecidableEq, Repr

/-- Read one element's code. -/
def State.readElem (s : State) (x : Side) (off nib bits : Nat) : Nat :=
  if bits = 4 then ofBytesLE (s.sideBytes x off 1) / (if nib = 0 then 1 else 16) % 16
  else ofBytesLE (s.sideBytes x off (bits / 8))

/-- Write one element's code; a nibble is merged into its byte (R214). -/
def State.writeElem (s : State) (part : Option (Nat × Nat)) (x : Side) (off nib bits code : Nat) (bad : Bool) : State :=
  if bits = 4 then s.sideNibble part x off nib code bad
  else s.sideWrite part x off (toBytesLE (bits / 8) code) (if bad then List.range (bits / 8) else [])

/-- Element i of a tensor job. -/
def tensElem (m : TMap) (origin : List Int) (rows : Option (List Nat)) (i : Nat) : TensElem :=
  let c := tensorCoords m origin rows i
  { i := i, coords := c, inside := insideTensor m c }

/-- Element i is the high nibble of a byte of the tensor side whose low one is element i - 1: the job writes the byte whole, with the
chunk of the low one (R214). -/
def pairsBack (m : TMap) (origin : List Int) (rows : Option (List Nat)) (i : Nat) : Bool :=
  let e := tensElem m origin rows i
  haulBits m.tfmt == 4 && i % Nat.max 1 (m.wins.getD 0 1) != 0 && m.steps.getD 0 1 == 1 && e.coords.getD 0 0 % 2 == 1
    && e.inside && (tensElem m origin rows (i - 1)).inside

/-- The elements of chunk k of a tensor job; of a store to an E2M1 side, the other half of the last byte too. -/
def tensElems (m : TMap) (store : Bool) (origin : List Int) (rows : Option (List Nat)) (n chunk : Nat) : List TensElem :=
  let per := elemsPerChunk m.dfmt
  let hi := Nat.min n ((chunk + 1) * per)
  let more := if store && decide (hi < n) && pairsBack m origin rows hi then Nat.min 16 (n - hi) else 0
  (List.range (hi + more - chunk * per)).map (fun d => tensElem m origin rows (chunk * per + d))

/-- Sizes of the dense block: the windows, or win 0 and the rows. -/
def denseSizes (m : TMap) (rows : Option (List Nat)) : List Nat :=
  match rows with
  | some index => [m.wins.getD 0 0, index.length]
  | none => m.wins.take m.dims

def denseCoords (m : TMap) (rows : Option (List Nat)) (i : Nat) : List Int :=
  match rows with
  | some _ => let w := Nat.max 1 (m.wins.getD 0 1); [((i % w : Nat) : Int), ((i / w : Nat) : Int)]
  | none => (winCoords m.wins m.dims i).map (fun (x : Nat) => (x : Int))

/-- The dense side's scale array, named as the dense side is. -/
def scaleSide (j : Job) (m : TMap) : Side :=
  match j.dst with
  | .va a _ => .va a m.dscale.toNat
  | .handle _ _ => .handle m.dscale 0

/-- Side, byte offset and nibble of an element on the tensor side, and of its scale. -/
def tensorSide (j : Job) (m : TMap) (e : TensElem) : Side × Nat × Nat × Side × Nat :=
  let p := tensorAddr m e.coords
  (.va j.asid p.1, 0, p.2, .va j.asid m.tscale, scaleAt (m.extents.take m.dims) e.coords)
def denseSide (j : Job) (m : TMap) (rows : Option (List Nat)) (e : TensElem) : Side × Nat × Nat × Side × Nat :=
  let p := denseAt m.dfmt e.i
  (j.dst, p.1, p.2, scaleSide j m, scaleAt (denseSizes m rows) (denseCoords m rows e.i))

/-- What the bytes of one chunk of a tensor job meet. -/
def State.tensReach (s : State) (j : Job) (m : TMap) (store : Bool) (rows : Option (List Nat)) (es : List TensElem) : Reach × Nat :=
  let one (q : Side × Nat × Nat × Side × Nat) (f : Nat) (write : Bool) : Reach × Nat :=
    let n := (haulBits f + 7) / 8
    let r := s.reach q.1 q.2.1 n write false
    if r != .ok then (r, (q.1.plus q.2.1).addr)
    else if haulBlock f then (s.reach q.2.2.2.1 q.2.2.2.2 1 write false, (q.2.2.2.1.plus q.2.2.2.2).addr)
    else (.ok, 0)
  es.foldl (fun (a : Reach × Nat) e =>
    match a.1 with
    | .bad _ => a
    | _ =>
      let t := if e.inside then one (tensorSide j m e) m.tfmt store else (.ok, 0)
      let d := one (denseSide j m rows e) m.dfmt (!store)
      let r := (a.1.join t.1).join d.1
      (r, if a.1 != .ok then a.2 else if t.1 != .ok then t.2 else d.2)) (.ok, 0)

/-- The scale bytes of the blocks that a chunk writes, once for each run of elements of one dense block and one block of the side written:
block, place, byte and poison of each element (R105, R213) [74, DESIGN CHOICE]. -/
def State.writeScales (s : State) (part : Option (Nat × Nat)) (df : Nat) (l : List (Nat × (Side × Nat) × Nat × Bool)) : State :=
  if !haulBlock df then s
  else
    (l.foldl (fun (r : State × Option (Nat × Side × Nat)) x =>
      let k := (x.1, x.2.1.1, x.2.1.2)
      if r.2 = some k then r
      else (r.1.sideWrite part x.2.1.1 x.2.1.2 (toBytesLE 1 x.2.2.1) (if x.2.2.2 then [0] else []), some k)) (s, none)).1

/-- Move the elements of one chunk; the state, whether an element outside was read with zfill 0, and whether poison was
carried [74, DESIGN CHOICE]. -/
def State.tensMove (s : State) (j : Job) (m : TMap) (store : Bool) (rows : Option (List Nat)) (es : List TensElem) : State × Bool × Bool :=
  let sf := if store then m.dfmt else m.tfmt
  let df := if store then m.tfmt else m.dfmt
  let src (e : TensElem) := if store then denseSide j m rows e else tensorSide j m e
  let dst (e : TensElem) := if store then tensorSide j m e else denseSide j m rows e
  let rm := fmtRnd j.fmt
  let zero (e : TensElem) : Bool := !store && !e.inside
  let tainted (e : TensElem) : Bool := j.taintAll || (rows.isSome && j.taint.contains (e.i / Nat.max 1 (m.wins.getD 0 1)))
  let read (e : TensElem) : Nat × Nat × Bool :=
    if zero e then (0, if sf = df then 0 else 127, false)
    else
      let q := src e
      (s.readElem q.1 q.2.1 q.2.2.1 (haulBits sf), if haulBlock sf then ofBytesLE (s.sideBytes q.2.2.2.1 q.2.2.2.2 1) else 0,
       tainted e || !(s.sidePoison q.1 q.2.1 ((haulBits sf + 7) / 8)).isEmpty || (haulBlock sf && !(s.sidePoison q.2.2.2.1 q.2.2.2.2 1).isEmpty))
  let vals := es.map (fun e => (e, read e))
  -- codes and, for a block destination, the scale byte of each element's block
  let conv : List (TensElem × Nat × Nat × Bool) :=
    if sf = df then
      (List.range ((vals.length + 15) / 16)).flatMap (fun g =>
        let blk := (vals.drop (16 * g)).take 16
        let sc := ((blk.find? (fun x => !zero x.1)).map (fun x => x.2.2.1)).getD 127
        blk.map (fun x => (x.1, x.2.1, if store then x.2.2.1 else sc, x.2.2.2)))
    else if haulBlock df then
      (List.range ((vals.length + 15) / 16)).flatMap (fun g =>
        let blk := (vals.drop (16 * g)).take 16
        let r := blockConvert df rm (blk.map (fun x => if zero x.1 then Ex.zero false else haulValue sf x.2.1 x.2.2.1))
        let bad := blk.any (fun x => x.2.2.2)
        (blk.zip r.2).map (fun x => (x.1.1, x.2, r.1, bad)))
    else vals.map (fun x =>
      (x.1, if zero x.1 then 0 else (cvtF (haulTy df) rm (fmtSat j.fmt) (haulValue sf x.2.1 x.2.2.1)).1, 0, x.2.2.2))
  let hi := (j.taken + 1) * elemsPerChunk m.dfmt
  let mine (e : TensElem) : Bool :=
    let led := store && pairsBack m (match j.kind with | .tens _ _ o => o | _ => []) rows e.i
    if e.i = j.taken * elemsPerChunk m.dfmt then !(led && e.i != 0) else decide (e.i < hi) || (e.i == hi && led)
  let live := conv.filter (fun x => mine x.1 && !(store && !x.1.inside))
  let part := some (j.id, j.taken)
  let s1 := live.foldl (fun s x =>
    let q := dst x.1
    s.writeElem part q.1 q.2.1 q.2.2.1 (haulBits df) x.2.1 x.2.2.2) s
  (s1.writeScales part df (live.map (fun x => (x.1.i / 16, (dst x.1).2.2.2, x.2.2.1, x.2.2.2))), !store && !m.zfill && es.any (fun e => !e.inside), vals.any (fun x => x.2.2.2))

/-! ## Packing (R218, R219) -/

/-- Pack elements into one chunk: header and payload. -/
def packChunk (ty : Nat) (raw : Bool) (tid idx count : Nat) (anchor : Int) (codes : List Nat) : ChunkHdr × List Byte :=
  let t := packType ty raw
  let size := packSize ty raw
  let el (c : Nat) : Nat × Flags :=
    if t = 14 then let r := toAq (decodeF (if ty = 10 then 10 else 9) c) anchor; ((ofInt 64 r.1).toNat, r.2) else (c, 0)
  let es := codes.map el
  let payload := es.flatMap (fun x => toBytesLE size x.1) ++ List.replicate (4032 - size * codes.length) 0
  let cnv := es.any (fun x => x.2 % 2 = 1 || x.2 / 32 % 2 = 1)
  let sums := checksums ((List.range count).map (elemVal t payload))
  (ChunkHdr.mk tid (idx % 2 ^ 32) t (if t = 14 then anchor else 0) count 0 (if cnv then 1 else 0) 0 sums.1 sums.2, payload)

/-- Element i of a chunk as .unpk gives it. -/
def unpackElem (ty : Nat) (raw : Bool) (h : ChunkHdr) (payload : List Byte) (i : Nat) : Nat :=
  let x := elemNat (packSize ty raw) payload i
  if packType ty raw = 14 then
    let f := (cvtF 10 0 false (Ex.ofScaled (sval 64 (BitVec.ofNat 64 x)) (ChunkHdr.anchor h))).1
    if ty = 10 then f else (cvtF 9 0 false (decodeF 10 f)).1
  else x

/-- The identity a chunk has to have (R219). -/
def chunkIs (h : ChunkHdr) (tid idx type count : Nat) : Bool :=
  h.tid == tid && h.idx == idx % 2 ^ 32 && h.type == type && h.count == count

/-! ## HAUL_CHUNK -/

/-- What the next chunk of a job meets, and the address concerned. -/
def State.nextReach (s : State) (j : Job) : Reach × Nat :=
  if j.lost then (.bad 332, j.next.2.2.1.addr)
  else
    match j.kind with
    | .tens map store origin =>
      let m := TMap.ofWords map
      s.tensReach j m store none (tensElems m store origin none j.n j.taken)
    | .rows map store index =>
      let m := TMap.ofWords map
      s.tensReach j m store (some index) (tensElems m store [] (some index) j.n j.taken)
    | k =>
      let q := j.next
      let r := match k with
        | .fill _ => Reach.ok
        | _ => s.reach q.1 0 q.2.1 false j.hostOk
      if r != .ok then (r, q.1.addr) else (s.reach q.2.2.1 0 q.2.2.2.1 true j.hostOk, q.2.2.1.addr)

/-- The destination page of a reduction lies in HBM and has to be brought in first (R216). -/
def State.needsPage (s : State) (j : Job) : Option (Nat × Nat) :=
  match j.kind, j.next.2.2.1 with
  | .red, .va asid v =>
    (match s.page? asid v with
     | some p => (match p.place with | .hbm _ _ _ => some (asid, v) | _ => none)
     | none => none)
  | _, _ => none

/-- A chunk tag of a die is free: one of 8,192 for each chunk in flight (R21, R394). -/
def State.tagFree (s : State) (die : Nat) : Bool :=
  decide ((s.transits.filter (fun t => t.agent / 16 == die && !(s.jobs.any (fun j => j.id == t.job && j.foreign)))).length < 8192)

/-- The next chunk can be taken now. -/
def State.canTake (s : State) (j : Job) : Bool :=
  decide (j.taken < j.chunks) && (s.nextReach j).1 != .held
    && (match s.needsPage j with
        | some (asid, v) => ((s.page? asid v).map (fun p => p.parked.isNone)).getD true
        | none => true)

/-- The job whose chunk an agent of a die takes: its own die's queue first, DEADLINE jobs ahead, oldest first (R21, R367). -/
def State.pickJob (s : State) (die : Nat) : Option Job :=
  let ok := s.jobs.filter (fun j => s.canTake j)
  let own := ok.filter (fun j => j.die == die)
  let pick (l : List Job) : Option Job := (l.find? (fun j => j.deadline)).orElse (fun _ => l.head?)
  (pick own).orElse (fun _ => pick ok)

/-- The agent begins to read a chunk (R377, R493): the granules up to a cut, the others in a later step (R209, R380). -/
def State.startChunk (s : State) (j : Job) (die agent : Nat) : State :=
  let q := j.next
  let n := s.cutAt q.1 q.2.1
  let target := match j.kind with | .mcast _ => j.taken / Nat.max 1 j.pieces | _ => 0
  let t : Transit :=
    { id := s.nextTransit, job := j.id, chunk := q.2.2.2.2, target := target, header := none, ident := none, payload := s.sideBytes q.1 0 n
      s1 := 0, s2 := 0, path := [], trail := [], poison := s.sidePoison q.1 0 n, marked := none, agent := 16 * die + agent
      buffer := none, read := some n, landed := none, noted := false }
  { s with transits := s.transits ++ [t], nextTransit := s.nextTransit + 1, free := s.free + 4096 }

/-- A chunk whose source has been read: what the agent makes of it, and the bytes that carry poison; or how it ends here. -/
inductive Made where
  | go (header : Option ChunkHdr) (payload : List Byte) (poison : List Nat)
  | refuse (cause : Nat)
  | aside (cause : Nat)
deriving DecidableEq, Repr

/-- What the agent makes of the bytes of chunk c: a stored chunk is checked, ckpack packs or unpacks (R218, R219, R377, R493). -/
def Job.make (j : Job) (c : Nat) (raw : List Byte) (bad : List Nat) (hop : Nat) : Made :=
  let plain (bs : List Byte) (bad : List Nat) : Made := .go none (bs ++ List.replicate (4096 - bs.length) 0) bad
  match j.kind with
  | .copyCk | .red =>
    let x := splitChunk raw
    if ChunkHdr.malformed x.1 then .refuse 705
    else if payloadSums x.1 x.2 != (ChunkHdr.s1 x.1, ChunkHdr.s2 x.1) then .refuse 704
    else .go (some (ChunkHdr.hop x.1 hop)) x.2 bad
  | .pack ty raw1 n ident =>
    let p := packPer ty raw1
    let w := tyBytes ty
    let count := Nat.min p (n - p * c)
    let x := packChunk ty raw1 (field ident 0 32) (field ident 32 32 + c) count (fmtAnchor j.fmt) ((List.range count).map (elemNat w raw))
    plain (bytesOfWords x.1 ++ x.2) (bad.flatMap (fun i => (List.range (packSize ty raw1)).map (fun b => 64 + i / w * packSize ty raw1 + b)))
  | .unpack ty raw1 n ident =>
    let p := packPer ty raw1
    let w := tyBytes ty
    let size := packSize ty raw1
    let count := Nat.min p (n - p * c)
    let x := splitChunk raw
    if ChunkHdr.malformed x.1 || !chunkIs x.1 (field ident 0 32) (field ident 32 32 + c) (packType ty raw1) count
        || payloadSums x.1 x.2 != (ChunkHdr.s1 x.1, ChunkHdr.s2 x.1) then .aside 331
    else plain ((List.range count).flatMap (fun i => toBytesLE w (unpackElem ty raw1 x.1 x.2 i)))
      ((bad.filter (fun i => decide (64 ≤ i) && decide (i < 64 + size * count))).flatMap (fun i =>
        (List.range w).map (fun b => (i - 64) / size * w + b)))
  | _ => plain raw bad

/-- The agent reads the rest of a chunk and sends it on its way. -/
def State.sendChunk (s : State) (j : Job) (t : Transit) (got : Nat) : State :=
  let q := j.chunkAt (t.index j)
  let id := 0x3000 + t.agent
  let s0 := s.dropTransit t.id
  match s.reach q.1 0 q.2.1 false j.hostOk with
  | .held => s
  | .bad c => (s0.degrade j c id q.1.addr t.chunk).chunkDone j
  | .ok =>
    let raw := t.payload ++ s.sideBytes q.1 got (q.2.1 - got)
    let tainted := (match j.kind with | .mcast _ => true | _ => false) && j.taint.contains t.target
    let bad := if tainted then List.range q.2.1 else t.poison ++ (s.sidePoison q.1 got (q.2.1 - got)).map (fun i => got + i)
    match j.make t.chunk raw bad id with
    | .refuse c =>
      let h := (splitChunk raw).1
      s0.refuse j c 0 id 0 t.chunk q.2.2.1 (ChunkHdr.tid h) (ChunkHdr.idx h) (ChunkHdr.trail h)
    | .aside c => (s0.degrade j c id q.1.addr t.chunk).chunkDone j
    | .go h payload poison =>
      let s1 := if bad.isEmpty then s0 else s0.degrade j 256 id q.1.addr t.chunk
      if j.kind = .red ∧ !bad.isEmpty then s1.chunkDone j
      else
      let sums := match h with | some h => payloadSums h payload | none => pieceSums payload
      let u : Transit := { t with header := h, ident := h.map ChunkHdr.seal, payload := payload, s1 := sums.1, s2 := sums.2, poison := poison
                                  path := s.hopPath (t.agent / 16) (s.sidePlace q.1) (s.sidePlace q.2.2.1), read := none
                                  noted := !bad.isEmpty }
      { s1 with transits := s1.transits ++ [u], free := s1.free + 4096 }

/-- What a fill writes to a chunk: the value by the byte's place in an aligned word (R212). -/
def fillBytes (v : Word) (x : Side) (n : Nat) : List Byte :=
  let a := match x with | .va _ x => x | .handle h m => hOff h + m
  (List.range n).map (fun i => ((v >>> (8 * ((a + i) % 8))).truncate 8 : Byte))

/-- An agent sends a chunk that it need not read first: a fill, or a chunk of a tensor transfer, whose elements are moved at its end. -/
def State.sendAway (s : State) (j : Job) (die agent : Nat) (payload : List Byte) (path : List Hop) : State :=
  let sums := pieceSums payload
  let t : Transit :=
    { id := s.nextTransit, job := j.id, chunk := j.taken, target := 0, header := none, ident := none, payload := payload
      s1 := sums.1, s2 := sums.2, path := path, trail := [], poison := [], marked := none, agent := 16 * die + agent
      buffer := none, read := none, landed := none, noted := false }
  { s with transits := s.transits ++ [t], nextTransit := s.nextTransit + 1, free := s.free + 4096 }

/-- An agent performs a chunk, which is in transit from then on (R376, R394). -/
def State.doChunk (s : State) (j : Job) (die agent : Nat) : State :=
  let q := j.next
  let tens (store : Bool) : State :=
    let a := s.sidePlace j.src
    let b := s.sidePlace j.dst
    s.sendAway j die agent [] (if store then s.hopPath die b a else s.hopPath die a b)
  match j.kind with
  | .fill v => s.sendAway j die agent (fillBytes v q.2.2.1 q.2.2.2.1) (s.hopPath die (some (s.hub.config.package, die)) (s.sidePlace q.2.2.1))
  | .tens _ store _ => tens store
  | .rows _ store _ => tens store
  | _ => s.startChunk j die agent

/-- How many elements of a tensor chunk are moved in a first step: up to a place between two granules of the destination that a free choice gives,
or all of them. Into a team's scratch all go at once (R78, R209, R419) [61, DEDUCED]. -/
def State.tensCut (s : State) (j : Job) (m : TMap) (store : Bool) (rows : Option (List Nat)) (es : List TensElem) : Nat :=
  let start := 16 * (1 + (Config.freeWord s.free).toNat % Nat.max 1 (es.length / 16))
  let splits (e : TensElem) : Bool :=
    let q := if store then tensorSide j m e else denseSide j m rows e
    match q.1 with
    | .va _ a => (a + q.2.1) % 8 == 0 && q.2.2.1 == 0
    | .handle _ _ => false
  (((es.zip (List.range es.length)).find? (fun x => decide (start ≤ x.2) && x.2 % 16 == 0 && splits x.1)).map (fun x => x.2)).getD es.length

/-- A chunk of a tensor transfer ends: its elements are read, converted and written (R213 to R215, R468), those up to a cut first and the others in a
later step (R209, R380) [61, DEDUCED]. -/
def State.landTens (s : State) (j : Job) (t : Transit) (map : List Word) (store : Bool) (origin : List Int) (rows : Option (List Nat)) : State :=
  let j1 : Job := { j with taken := t.chunk }
  let id := 0x3000 + t.agent
  let m := TMap.ofWords map
  let es := tensElems m store origin rows j.n t.chunk
  match s.tensReach j1 m store rows es with
  | (.held, _) => s
  | (.bad c, a) => ((s.dropTransit t.id).degradeOnce j t c id a).chunkDone j
  | (.ok, _) =>
    let lo := t.landed.getD 0
    let hi := if t.landed.isSome then es.length else s.tensCut j1 m store rows es
    let r := s.tensMove j1 m store rows ((es.drop lo).take (hi - lo))
    let s1 := if r.2.1 then r.1.degradeOnce j t 326 id m.base else if r.2.2 then r.1.degradeOnce j t 256 id m.base else r.1
    if hi < es.length then
      { s1 with free := s1.free + 1
                transits := updFirst (fun q => q.id == t.id) (fun q => { q with landed := some hi, noted := t.noted || r.2.1 || r.2.2 }) s1.transits }
    else (s1.dropTransit t.id).chunkEnd j t.chunk

/-- A transit that has passed its last hop lands. -/
def State.land (s : State) (j : Job) (t : Transit) : State :=
  match j.kind with
  | .tens map store origin => s.landTens j t map store origin none
  | .rows map store index => s.landTens j t map store [] (some index)
  | _ => s.landTransit j t

/-- An agent takes the next chunk of a job. -/
def State.takeChunk (s : State) (j : Job) (die agent : Nat) : State :=
  match s.needsPage j with
  | some (asid, v) => s.bringPage asid v
  | none =>
    let s1 := s.updJob j.id (fun q => { q with taken := q.taken + 1 })
    let r := s.nextReach j
    let c := j.next.2.2.2.2
    match r.1 with
    | .held => s
    | .bad cause =>
      let s2 : State := { s1 with free := s1.free + 1 }
      (s2.degrade j cause (0x3000 + 16 * die + agent) r.2 c).chunkDone j
    | .ok =>
      let s2 : State := { s1 with free := s1.free + 1 }
      s2.doChunk j die agent

def job? (s : State) (id : Nat) : Option Job := s.jobs.find? (fun j => j.id == id)
def transit? (s : State) (id : Nat) : Option Transit := s.transits.find? (fun t => t.id == id)

/-- HAUL_CHUNK: an agent takes a chunk from a die chunk queue and performs it (R21), with a tag of its die. -/
def execHaulChunk (die agent : Nat) (s : State) : Result :=
  if 4 ≤ die ∨ 16 ≤ agent ∨ !s.tagFree die then .next s
  else match s.pickJob die with
    | some j => .next (s.takeChunk j die agent)
    | none => .next s

/-- A buffer is free at the receiving end of the link that the chunk has to cross next (R394) [86, DESIGN CHOICE]. -/
def State.bufferFree (s : State) (h : Hop) : Bool :=
  !h.isLink || decide ((s.transits.filter (fun t => t.buffer == some (h.pkg, h.id))).length < 128)

/-- The package on the far side of the link that a chunk has to cross next. -/
def State.farSide (s : State) (j : Job) (t : Transit) (h : Hop) : Nat :=
  let at? (x : Side) : Nat := ((s.sidePlace x).map (fun p => p.1)).getD s.hub.config.package
  if h.pkg = s.hub.config.package then at? (j.chunkAt (t.index j)).1 else at? (t.dst j)

/-- What a chunk meets at its next hop: a link of this package that is not ready carries nothing (R392), so that the chunk waits, takes another way,
or cannot go on where no link is left (R468, R483, R485). -/
inductive Crossing where
  | pass
  | wait
  | turn
  | lost
deriving DecidableEq, Repr

def State.crossing (s : State) (j : Job) (t : Transit) (h : Hop) : Crossing :=
  match h.via with
  | none => if s.bufferFree h then .pass else .wait
  | some l =>
    if (s.hub.links.getD l Link.down).ready then (if s.bufferFree h then .pass else .wait)
    else match s.haulRoute (s.farSide j t h) 0 with
      | none => if s.farSide j t h = s.hub.config.package then .wait else .turn
      | some (.park _) => .wait
      | some _ => .lost

/-- The rest of the path by another link of the mask. -/
def State.turnPath (s : State) (j : Job) (t : Transit) (h : Hop) : List Hop :=
  let q := j.chunkAt (t.index j)
  let inward (x : Hop) : Bool := x.via.isSome && x.pkg == s.hub.config.package
  let outward (x : Hop) : Bool := x.via.isSome && x.pkg != s.hub.config.package
  (s.hopPath (t.agent / 16) (s.sidePlace q.1) (s.sidePlace q.2.2.1)).dropWhile (fun x => !(if inward h then inward x else outward x))

/-- CHUNK_HOP: a chunk in transit is read to its end, passes its next hop (R376), or lands. -/
def execChunkHop (flight : Nat) (s : State) : Result :=
  match transit? s flight with
  | none => .next s
  | some t =>
    match job? s t.job, t.read, t.path with
    | some j, some got, _ => .next (s.sendChunk j t got)
    | some j, none, h :: rest =>
      (match s.crossing j t h with
       | .pass => .next (s.chunkHop j t h rest)
       | .wait => .next s
       | .turn => .next { s with transits := updFirst (fun q => q.id == t.id) (fun q => { q with path := s.turnPath j t h }) s.transits }
       | .lost => .next (((s.dropTransit t.id).degradeOnce j t 332 h.id (t.dst j).addr).chunkDone j))
    | some j, none, [] => if j.kind = .red then .next s else .next (s.land j t)
    | none, _, _ => .next (s.dropTransit flight)

/-- The face unit that is home to a side, by package and number. -/
def State.sideUnit (s : State) (x : Side) : Nat :=
  match x with
  | .va asid v => (match s.page? asid v with | some p => p.flat v / 2 ^ 32 * 256 + faceUnitOf (p.flat v) | none => 0)
  | .handle _ _ => 0

/-- A chunk of a reduction waits at its face unit. -/
def Transit.atUnit (t : Transit) (j : Job) : Bool := t.read.isNone && t.path.isEmpty && j.kind == .red

/-- A request of a DEADLINE team waits at a face unit (R367). -/
def State.deadlineAt (s : State) (unit : Nat) : Bool :=
  s.faceReqs.any (fun q => q.unit == unit && (s.route (q.unit / 256) 0).isNone && ((s.team? q.rid).map (fun t => s.isDeadline t.task)).getD false)
  || s.transits.any (fun t => match job? s t.job with
      | some j => t.atUnit j && j.deadline && s.sideUnit (t.dst j) == unit
      | none => false)

/-- CHUNK_REDUCTION: the face unit that is home to the destination adds the chunk (R378), DEADLINE requests first (R367). -/
def execChunkReduction (flight : Nat) (s : State) : Result :=
  match transit? s flight with
  | none => .next s
  | some t =>
    match job? s t.job with
    | some j => if t.atUnit j && (j.deadline || !s.deadlineAt (s.sideUnit (t.dst j))) then .next (s.reduce j t) else .next s
    | none => .next s

/-- HAUL_JOB_COMPLETE: every chunk has been performed or set aside (R90). -/
def execHaulJobComplete (id : Nat) (s : State) : Result :=
  match job? s id with
  | some j => if j.done = j.chunks then .next (s.completeJob j) else .next s
  | none => .next s

/-- The writes held for a moving team land in its scratch, and it moves no more (R78). -/
def Team.releaseHeld (t : Team) : Team := { t.heldWrites.foldl Team.scratchLand t with moving := false, rebuild := false, heldWrites := [] }

/-- The held writes of a team land, and with them the chunks end whose last held writes they are (R78, R90). -/
def State.releaseHeld (s : State) (t : Team) : State :=
  let s1 := s.updTeam t.rid Team.releaseHeld
  let ended := (t.heldWrites.filterMap (fun w => w.part)).eraseDups
  ended.foldl (fun s x => match job? s x.1 with
    | some j => s.chunkEnd j x.2
    | none => s) s1

/-- The team's held writes can land: its move is complete, or it has been given up. -/
def Team.releases (t : Team) : Bool := !t.rebuild && (t.moving || !t.heldWrites.isEmpty)

/-- HELD_WRITE_RELEASE: the move is complete, and the held writes land (R78). -/
def execHeldWriteRelease (rid : Nat) (s : State) : Result :=
  match s.team? rid with
  | some t => if t.releases then .next (s.releaseHeld t) else .next s
  | none => .next s

/-- PCIE_COMPLETION_TIMEOUT: the host does not complete an agent's read of a host page, of a chunk that is taken now or is being read; the chunk falls
under 332 (R467). -/
def execPcieCompletionTimeout (id chunk : Nat) (s : State) : Result :=
  match job? s id with
  | some j =>
    let q := j.next
    let fromHost := (s.sidePlace q.1).isNone
    if j.taken = chunk ∧ chunk < j.chunks ∧ j.kind = .copy ∧ fromHost then
      let s1 := s.updJob id (fun q => { q with taken := q.taken + 1 })
      .next ((s1.degrade j 332 0 q.1.addr chunk).chunkDone j)
    else
      match s.transits.find? (fun x => x.job == id && x.chunk == chunk && x.read.isSome) with
      | some t =>
        let x := (j.chunkAt (t.index j)).1
        if j.kind = .copy ∧ (s.sidePlace x).isNone then .next (((s.dropTransit t.id).degrade j 332 0 x.addr chunk).chunkDone j) else .next s
      | none => .next s
  | none => .next s

/-- The chunks of a ckver that fail (R220, R494) [36, DEDUCED]. -/
def State.ckverCount (s : State) (asid addr n : Nat) (id : Word) : Nat :=
  ((List.range n).filter (fun k =>
    let c := splitChunk (s.vaBytes asid (addr + 4096 * k) 4096)
    let h := c.1
    ChunkHdr.malformed h || ChunkHdr.tid h != field id 0 32 || ChunkHdr.idx h != (field id 32 32 + k) % 2 ^ 32
      || payloadSums h c.2 != (ChunkHdr.s1 h, ChunkHdr.s2 h))).length

/-- CKVER_DONE: the agents have checked the chunks as they stand at home, after a write-back of the issuing core's lines of them (R260,
R267); the count is written and the split goes on (R220). -/
def execCkverDone (rid gang split : Nat) (s : State) : Result :=
  match s.split? rid gang split, s.team? rid with
  | some sp, some t =>
    match sp.wait with
    | .ckver d locs addr n id =>
      let s0 := s.dropRange t.core t.asid addr (4096 * n)
      let x := BitVec.ofNat 64 (s0.ckverCount t.asid addr n id)
      let s1 := s0.updTeam rid (fun t =>
        let t1 := t.updGang gang (fun g => (g.putLate t.core.kind split d locs 5 sp.mask true true (fun _ => x)).updSplit split (fun q => q.wake s.now))
        ({ t1 with haulsUsed := t1.haulsUsed - 1 }).wakeIf s.now (fun w => match w with | .full => true | _ => false))
      .next s1
    | _ => .next s
  | _, _ => .next s

end Sys2Proof.Machine
end

