-- ==== Sys2Proof/Machine/Place.lean ====
section
/-! DEFINITION. Cores' resources (R18, R19, R50), placement of teams (R56, R68, R74, R356), suspension and resumption (R363,
R364), moves between core kinds (R337, R338), and the completion of mig (R228, R443). -/

namespace Sys2Proof.Machine

/-! ## Resources -/

def gangSlots (k : CoreKind) : Nat := match k with | .dcore => 16 | .lcore => 8
def coreTiles (k : CoreKind) : Nat := match k with | .dcore => 12 | .lcore => 4
def coreHauls (k : CoreKind) : Nat := match k with | .dcore => 64 | .lcore => 32
/-- Cores of a kind, numbered over the package (R26). -/
def coreCount (k : CoreKind) : Nat := match k with | .dcore => 128 | .lcore => 32
def scratchLimit (k : CoreKind) : Nat := match k with | .dcore => 1048576 | .lcore => 262144

/-- Scratch allocation of a kernel's teams (R75). -/
def Kernel.alloc (k : Kernel) : Nat := (k.scr + 4095) / 4096 * 4096

/-- The kinds on which a kernel's teams may be placed (R68, R328); a D-core comes first (R356). -/
def Kernel.kinds (k : Kernel) : List CoreKind :=
  let fitsL := decide (k.gangs ≤ 8) && decide (k.alloc ≤ 262144) && decide (k.acc ≤ 4) && decide (k.hauls ≤ 32)
  let d : List CoreKind := if k.kind = 0 ∨ k.kind = 2 then [.dcore] else []
  let l : List CoreKind := if (k.kind = 0 || k.kind = 1) && fitsL then [.lcore] else []
  match k.pinnedD, k.pinnedL with
  | some _, none => [.dcore]
  | none, some _ => if fitsL then [.lcore] else []
  | _, _ => d ++ l

def State.coreTeams (s : State) (c : CoreId) : List Team := s.teams.filter (fun t => t.core == c && t.onCore)

/-- Slots of a core that no gang holds, lowest first. -/
def State.freeSlots (s : State) (c : CoreId) : List Nat :=
  let used := (s.coreTeams c).flatMap (fun t => (t.gangs.filter (fun g => !g.exited)).map (fun g => g.slot))
  (List.range (gangSlots c.kind)).filter (fun k => !used.contains k)

/-- The lowest free run of n bytes below a limit (R75, R388) [22, DESIGN CHOICE]. -/
def firstFree (used : List (Nat × Nat)) (n limit : Nat) : Option Nat :=
  let starts := 0 :: used.map (fun r => r.1 + r.2)
  let fits (a : Nat) : Bool := decide (a + n ≤ limit) && used.all (fun r => decide (a + n ≤ r.1) || decide (r.1 + r.2 ≤ a))
  (starts.filter fits).foldl (fun (m : Option Nat) a => match m with | none => some a | some b => some (Nat.min a b)) none

/-- Where an allocation of n contiguous bytes fits (R50, R75): its bank, 2 standing for both banks of a D-core, and its start
[31, DESIGN CHOICE]. -/
def State.freeBank (s : State) (c : CoreId) (n : Nat) : Option (Nat × Nat) :=
  let ts := s.coreTeams c
  let used (b : Nat) : List (Nat × Nat) := (ts.filter (fun t => t.bank == b)).map (fun t => (t.scratchAt, t.scratchSize))
  match c.kind with
  | .lcore => (firstFree (used 0) n 262144).map (fun a => (0, a))
  | .dcore =>
    if 524288 < n then (if ts.isEmpty then some (2, 0) else none)
    else if ts.any (fun t => t.bank == 2) then none
    else [0, 1].findSome? (fun b => (firstFree (used b) n 524288).map (fun a => (b, a)))

/-- A team takes its place in a core's scratch; a preload's copy gives way (R360). -/
def State.takeBank (s : State) (c : CoreId) (rid bank start : Nat) : State :=
  let core := s.coreOf c
  let hit := (core.preload.bind (fun p => p.bank)).any (fun b => b == bank || bank == 2)
  (if hit then s.setCore { core with preload := core.preload.map (fun p => { p with bank := none }) } else s).updTeam rid
    (fun t => { t with bank := bank, scratchAt := start })

/-- The place freeBank names. -/
def State.settleBank (s : State) (c : CoreId) (rid n : Nat) : State :=
  match s.freeBank c n with
  | some (b, a) => s.takeBank c rid b a
  | none => s

/-- A kernel's team fits a core beside its residents (R50) [31, DESIGN CHOICE]. -/
def State.fits (s : State) (c : CoreId) (k : Kernel) : Bool :=
  let ts := s.coreTeams c
  decide (k.gangs ≤ (s.freeSlots c).length) && (s.freeBank c k.alloc).isSome
  && decide (ts.foldl (fun a t => a + t.kern.acc) 0 + k.acc ≤ coreTiles c.kind)
  && decide (ts.foldl (fun a t => a + t.hauls) 0 + k.hauls ≤ coreHauls c.kind)

/-- Pinned code of a kind. -/
def Kernel.pinned (k : Kernel) (kind : CoreKind) : Option NatCode := match kind with | .dcore => k.pinnedD | .lcore => k.pinnedL

/-- The size of the translation spill area in the header of a side-table section (R314, R319). -/
def sideSpill (side : List Byte) : Nat := ofBytesLE ((side.drop 12).take 4)

/-- Bytes of each gang's translation spill area under the translation that a task holds for a kind (R319) [101, DESIGN CHOICE]. -/
def State.transSpill (s : State) (k : Task) (kind : CoreKind) : Nat :=
  match k.kern.pinned kind with
  | some c => c.spillSize
  | none => (((k.held.find? (fun x => x.1 == kind)).bind (fun x => s.hub.lode.find? (fun (e : LodeEntry) => e.key == x.2))).map
      (fun (e : LodeEntry) => sideSpill e.side)).getD 0

/-- Spill pool bytes of a team: its spill stacks and translation spill areas (R73, R319). -/
def Kernel.spillBytes (k : Kernel) (trans : Nat) : Nat := k.gangs * (131072 + trans)
/-- Those of a task's teams on a kind. -/
def State.spillNeed (s : State) (k : Task) (kind : CoreKind) : Nat := k.kern.spillBytes (s.transSpill k kind)
/-- A team's translation spill area per gang on a kind. -/
def State.teamTrans (s : State) (t : Team) (kind : CoreKind) : Nat :=
  ((s.hub.tasks.find? (fun (k : Task) => k.id == t.task)).map (fun k => s.transSpill k kind)).getD
    (((t.kern.pinned kind).map (fun c => c.spillSize)).getD 0)
/-- Spill pool bytes in use on a die (R74) [79, DEDUCED]. -/
def State.spillUsed (s : State) (die : Nat) : Nat :=
  (s.teams.filter (fun t => t.spillDie == die)).foldl (fun a t => a + t.kern.spillBytes t.transSpill) 0

def State.spillFits (s : State) (die n : Nat) : Bool := decide (s.spillUsed die + n ≤ s.hub.config.spillPool)

/-- The pool of a team's spill stacks has room for its translation spill areas on a kind (R337). -/
def State.transFits (s : State) (t : Team) (kind : CoreKind) : Bool :=
  s.spillFits t.spillDie (t.kern.spillBytes (s.teamTrans t kind) - t.kern.spillBytes t.transSpill)

/-- Gangs resident on a core. -/
def State.residentGangs (s : State) (c : CoreId) : Nat := (s.coreTeams c).foldl (fun a t => a + (t.gangs.filter (fun g => !g.exited)).length) 0

/-- Cores of a kind on a die. -/
def coresOf (kind : CoreKind) (die : Nat) : List CoreId :=
  let n := coreCount kind / 4
  (List.range n).map (fun i => { kind := kind, num := n * die + i })

/-- The core with the fewest resident gangs, the lowest number first (R356). -/
def State.leastLoaded (s : State) (cs : List CoreId) : Option CoreId :=
  cs.foldl (fun (a : Option CoreId) c =>
    match a with
    | none => some c
    | some b => if s.residentGangs c < s.residentGangs b then some c else some b) none

/-- The core a die dispatcher chooses for a kernel's team among those that are not kept for others: a D-core if any fits, else an L-core
(R356) [32, DEDUCED]. -/
def State.chooseCore (s : State) (die : Nat) (k : Kernel) (kinds : List CoreKind) (keep : CoreId → Bool) : Option CoreId :=
  kinds.findSome? (fun kind => s.leastLoaded ((coresOf kind die).filter (fun c => s.fits c k && !keep c)))

/-! ## Placement -/

/-- The record a native context starts with at a bundle: the keyed record of its npc (R314). -/
def NatCode.keyedAt (c : NatCode) (npc : Nat) : Option Record := c.keyed.find? (fun r => r.npc == npc)

/-- A choice or a reading of the model: [1, DESIGN CHOICE]. -/
def NatRegs.empty : NatRegs := { vx := [], vy := [], vl := [], sr := [], pr := [] }

/-- The registers of a core that a team comes to by a move: those that its records do not name are open (R318, R337)
[3, DESIGN CHOICE]. -/
def NatRegs.open (kind : CoreKind) (base : Nat) : NatRegs :=
  let x (n l : Nat) : Word := Config.freeWord (base + 32 * n + l)
  let vecs (off n : Nat) : Tab Lanes :=
    (List.range n).foldl (fun t i => Tab.set zeroLanes t i (tab32 (fun l => lowBits 32 (x (off + i) l)))) []
  let r : NatRegs := { vx := [], vy := [], vl := []
                       sr := (List.range 64).foldl (fun t i => Tab.set 0 t i (x 128 i)) []
                       pr := (List.range 15).foldl (fun t i => Tab.set 0 t (i + 1) ((x 131 i).truncate 32)) [] }
  match kind with
  | .dcore => { r with vx := vecs 0 64, vy := vecs 64 64 }
  | .lcore => { r with vl := vecs 0 96 }

/-- The first split of a new gang (R37): every lane at the entry [1, DESIGN CHOICE]. -/
def firstSplit (k : Kernel) (native : Bool) (code : Option NatCode) (now : Nat) : Split :=
  let base : Split := { Split.unused with used := true, pc := if native then 0 else k.base, mask := BitVec.allOnes 32, stamp := now }
  if native then
    { base with snap := some { pc := 0, mask := BitVec.allOnes 32, fmt := 0, sig := 0, ret := [], lr := 0, rrb := 0, flight := []
                               regs := NatRegs.empty, record := code.bind (fun c => c.keyedAt 0), again := none } }
  else base

/-- A gang at its creation (R37): every register 0, every token complete [1, DESIGN CHOICE]. -/
def newGang (k : Kernel) (native : Bool) (code : Option NatCode) (slot now : Nat) : Gang :=
  { slot := slot, exited := false, gone := 0, splits := [firstSplit k native code now, Split.unused, Split.unused, Split.unused]
    jregs := [], nregs := NatRegs.empty, flg := 0, tokens := List.replicate 8 0, rcs := [], spill := [], tspill := [], tvec := 0
    tframe := 0, handler := none, entering := none, latch := none, arrived := [], arrKind := [], lastPhase := []
    issued := 0, conflicts := 0, spillPoison := [], regPoison := [], selAt := 0 }

/-- The residency id a new team gets: one never used, else the one that has been free longest (R76) [48, DESIGN CHOICE]. -/
def Hub.nextRid (h : Hub) : Option (Nat × Hub) :=
  if h.ridNext < 65536 then some (h.ridNext, { h with ridNext := h.ridNext + 1 })
  else match h.ridFree with
    | r :: rest => some (r, { h with ridFree := rest })
    | [] => none

/-- A team of a task placed on a core for the first time (R49, R75, R233, R473); no RID free leaves it waiting [2, DESIGN CHOICE]. -/
def State.placeTeam (s : State) (task : Task) (index : Nat) (c : CoreId) : Option State :=
  match s.hub.nextRid with
  | none => none
  | some (rid, hub) =>
    let k := task.kern
    let slots := s.freeSlots c
    let code := k.pinned c.kind
    let native := code.isSome
    let s0 : State := { s with hub := hub }
    let s1 := s0.invalidateAsid c task.asid
    let t : Team :=
      { rid := rid, gen := Tab.get 0 hub.ridGen rid, asid := task.asid, task := task.id, index := index, count := task.count
        argAddr := task.argAddr, dbg := task.dbg, kern := k, core := c, home := CoreId.die c, spillDie := CoreId.die c, transSpill := s.transSpill task c.kind, status := .resident
        native := native, gangs := (List.range k.gangs).map (fun i => newGang k native code (slots.getD i 0) s.now)
        scratch := [], scratchSize := k.alloc, bank := 0, scratchAt := 0, scratchPoison := [], heldWrites := [], moving := false
        rebuild := false, source := none, tiles := List.replicate k.acc Tile.zero, tileLate := []
        bars := List.replicate 16 Barrier.initial, hauls := k.hauls, haulsUsed := 0, haulStall := 0, residentNs := 0
        placedAt := s.ptp, prefUseful := 0, prefLate := 0, prefUnused := 0, tally := Counters.zero, ended := [], budget := task.budget * 1000, budgetUsed := 0
        overruns := 0, regions := [], nextRegion := 1, moveReq := none, chk := none, epoch := 0, idempotent := true, consumed := 0
        logged := [], loggedTiles := [], saveArea := [] }
    let tasks := s1.hub.tasks.map (fun (q : Task) => if q.id = task.id then { q with started := q.started ++ [index] } else q)
    let t1 : Team := match s.freeBank c k.alloc with
      | some (b, a) => { t with bank := b, scratchAt := a }
      | none => t
    let s2 : State := { s1 with teams := s1.teams ++ [t1.checkpoint], hub := { s1.hub with tasks := tasks } }
    some (s2.takeBank c rid t1.bank t1.scratchAt)

/-! ## Suspension and resumption (R311, R313, R363, R364) -/

/-- Results of a context land in its registers. -/
def Gang.landAll (g : Gang) (kind : CoreKind) (k : Nat) : Gang :=
  match g.splits[k]? with
  | none => g
  | some sp =>
    sp.flight.foldl (fun (x : Gang) f => x.setLoc kind k f.loc f.lanes f.value) { g with splits := g.splits.set k { sp with flight := [] } }

/-- Loads in flight complete into the saved state (R311) [34, DEDUCED]. -/
def Gang.landLoads (g : Gang) (kind : CoreKind) (k : Nat) : Gang :=
  match g.splits[k]? with
  | none => g
  | some sp =>
    sp.loads.foldl (fun (x : Gang) f => x.setLoc kind k f.loc f.lanes f.value) { g with splits := g.splits.set k { sp with loads := [] } }

/-- The context is the one its sequencer has selected. -/
def State.selected (s : State) (t : Team) (gang k : Nat) : Bool := (s.coreOf t.core).sel.contains (some (t.rid, gang, k))

/-- Forget the selections of a team on its core. -/
def State.deselect (s : State) (t : Team) : State :=
  let core := s.coreOf t.core
  if core.sel.any (fun (x : Option (Nat × Nat × Nat)) => (x.map (fun y => y.1 == t.rid)).getD false) then
    s.setCore { core with sel := core.sel.map (fun (x : Option (Nat × Nat × Nat)) => if (x.map (fun y => y.1 == t.rid)).getD false then none else x) }
  else s

/-- The split of a gang that a sequencer has selected, else the one that was when the gang stopped. -/
def State.selectedSplit (s : State) (t : Team) (i : Nat) (g : Gang) : Nat := ((List.range 4).find? (fun k => s.selected t i k)).getD g.selAt

/-- A gang stops: loads in flight finish into the saved state, and the selected contexts' exposed results become tailings
(R311, R363) [85, DEDUCED]. -/
def State.stopGang (s : State) (t : Team) (atCommit : Bool) (i : Nat) (g : Gang) : Gang :=
  let kind := t.core.kind
  let g1 := (List.range 4).foldl (fun g k => (if atCommit || s.selected t i k then g else g.landAll kind k).landLoads kind k) g
  { g1 with splits := g1.splits.map (fun (sp : Split) => { sp with tailings := sp.tailings ++ sp.flight, flight := [], sinceSel := 0 })
            selAt := s.selectedSplit t i g }

/-- A gated entry in the save area (R438): 160 bytes [77, DESIGN CHOICE]. -/
def gatedBytes (x : Gated) : List Byte :=
  let at? (b : Nat) : Option Byte := (x.bytes.find? (fun y => y.1 == b)).map (fun y => y.2.1)
  let mask := (List.range 128).foldl (fun m b => if (at? b).isSome then m + 2 ^ b else m) 0
  (List.range 128).map (fun b => (at? b).getD 0) ++ toBytesLE 16 mask
    ++ toBytesLE 8 (x.line % 2 ^ 56 + x.spc * 2 ^ 56 + x.pol * 2 ^ 58) ++ toBytesLE 8 (x.pos % 2 ^ 16)

/-- A split record in the save area: rnpc names the next bundle to issue (R438). -/
def saveRecord (t : Team) (sp : Split) : List Word :=
  if sp.used then
    (splitRecord t sp).set 4 (if t.native then mkWord sp.pc else Config.nativePc t.kern.handle t.core.kind sp.pc)
  else splitRecord t sp

/-- Insert a gated entry by its position in program order. -/
def insertGated (x : Gated) (l : List Gated) : List Gated :=
  match l with
  | [] => [x]
  | y :: r => if x.pos < y.pos then x :: y :: r else y :: insertGated x r

/-- A gang's part of the save area (R438), the tailings at the place that a frame has them and the gated entries after them
[77, DESIGN CHOICE]. -/
def saveBytes (t : Team) (g : Gang) : List Byte :=
  let sel := g.selAt
  let tails := (g.splits[sel]?.map (fun sp => sp.tailings)).getD []
  let gated := (g.splits.flatMap (fun sp => sp.gated)).foldl (fun l x => insertGated x l) []
  let live := (List.range 4).foldl (fun m k => if (g.splits[k]?.map (fun sp => sp.used)).getD false then m + 2 ^ k else m) 0
  let w0 := sel * 2 ^ 10 + (if t.core.kind = .dcore then 2 ^ 12 else 0) + tails.length * 2 ^ 14 + gated.length * 2 ^ 20 + live * 2 ^ 27
  bytesOfWords ([mkWord w0, allOnes, 0, 0, g.flg.zeroExtend 64, 0, 0, 0] ++ g.splits.flatMap (saveRecord t)) ++ List.replicate 704 0
    ++ (tails.zip (List.range tails.length)).flatMap (fun x => tailingBytes x.1 x.2) ++ gated.flatMap gatedBytes

/-- Save a team and give its core's resources free: a selected context's results in flight stay with their remaining counts
as tailings, those of the others land (R311); the L1 writes back the team's ASID (R261). A stop at commit points (R364) keeps
the results in flight of every snapshot. -/
def State.saveTeam (s : State) (rid : Nat) (st : TeamStatus) (atCommit : Bool) : State :=
  match s.team? rid with
  | none => s
  | some t =>
    let gangs := (t.gangs.zip (List.range t.gangs.length)).map (fun (x : Gang × Nat) => s.stopGang t atCommit x.2 x.1)
    let t1 : Team := { t with gangs := gangs, status := st, residentNs := t.residentNs + (s.ptp - t.placedAt), placedAt := s.ptp
                              budgetUsed := t.budgetUsed + (s.ptp - t.placedAt) }
    let image := gangs.map (saveBytes t1)
    let t1 : Team := { t1 with saveArea := if st = .suspended false then image else [] }
    ((s.deselect t).writeBackAsid t.core t.asid).updTeam rid (fun _ => t1)

/-- New slots for a team's gangs on a core. -/
def Team.toSlots (t : Team) (slots : List Nat) : Team :=
  { t with gangs := (t.gangs.zip slots).map (fun (x : Gang × Nat) => { x.1 with slot := x.2 }) ++ t.gangs.drop slots.length }

/-- A split that slept past its time is ready; the others keep their waits and take a new ready stamp; the time
away does not count in them (R482). -/
def Split.resume (sp : Split) (now ptp away : Nat) : Split :=
  let wait := match sp.wait with
    | .asleep time => if time ≤ ptp then .ready else .asleep time
    | w => w
  { sp with wait := wait, stamp := now
            waitStart := match sp.wait with | .page _ _ _ _ => sp.waitStart | _ => sp.waitStart + away }

/-- The prefetch counters go on as the machine has counted them (R232). -/
def Team.withPref (t u : Team) : Team := { t with prefUseful := u.prefUseful, prefLate := u.prefLate, prefUnused := u.prefUnused, tally := u.tally }

/-- A saved team becomes resident on a core of its kind; a fault held with the saved state is raised then (R427, R428) [64, DEDUCED]. -/
def State.resumeTeam (s : State) (rid : Nat) (c : CoreId) : State :=
  match s.team? rid with
  | none => s
  | some t =>
    let slots := s.freeSlots c
    let s1 := s.invalidateAsid c t.asid
    let t1 : Team := { t.toSlots slots with core := c, status := .resident, placedAt := s.ptp, saveArea := [] }
    let t2 : Team := { t1 with gangs := t1.gangs.map (fun (g : Gang) => { g with selAt := 0, splits := g.splits.map (fun sp => sp.resume s.now s.ptp (s.ptp - t.placedAt)) }) }
    let s2 := (s1.settleBank c rid t.scratchSize).updTeam rid (fun u => { t2.withPref u with bank := u.bank, scratchAt := u.scratchAt })
    let held := (t2.gangs.zip (List.range t2.gangs.length)).flatMap (fun (x : Gang × Nat) =>
      (x.1.splits.zip (List.range 4)).filterMap (fun (y : Split × Nat) => y.1.heldFault.map (fun r => (x.2, y.2, r))))
    let s3 := held.foldl (fun s h =>
      (s.updSplit rid h.1 h.2.1 (fun sp => { sp with heldFault := none })).deliver h.2.2.1
        { rid := rid, gang := h.1, split := h.2.1, npc := h.2.2.2.1, slot := h.2.2.2.2 }) s2
    s3.settleEntries

/-! ## Moves between core kinds (R337, R338) -/

/-- The bundle of the other encoding for a native PC at which a context or held lanes resume: the xpc of its keyed record, else the bundle
with a keyed record of the same JV PC (R302, R315, R318) [32, DEDUCED]. An indexed record at the PC is that of the bundle's own commit point,
whose xpc lies behind it. -/
def NatCode.xlate (c tgt : NatCode) (pc : Nat) : Nat :=
  match c.keyed.find? (fun r => r.npc == pc && r.xpc != 2 ^ 64 - 1) with
  | some r => r.xpc
  | none =>
    match c.keyedAt pc with
    | some r => ((tgt.keyed.find? (fun x => x.jvpc == r.jvpc)).map (fun x => x.npc)).getD pc
    | none => pc

/-- The join bundle of the other encoding for one of this: the one before a keyed record of the same JV PC (R302, R318)
[32, DEDUCED]. -/
def NatCode.xlateJoin (c tgt : NatCode) (src dst : CoreKind) (pc : Nat) : Nat :=
  match c.keyedAt (pc + bundleBytes src) with
  | some r =>
    let joins (x : Record) : Bool :=
      x.jvpc == r.jvpc && decide (bundleBytes dst ≤ x.npc)
        && ((tgt.code[(x.npc - bundleBytes dst) / 8]?).map (fun w =>
             match decodeSlot dst 0 w with | .ok (o, _) => o == .join | .error _ => false)).getD false
    ((tgt.keyed.find? joins).map (fun x => x.npc - bundleBytes dst)).getD (c.xlate tgt pc)
  | none => c.xlate tgt pc

/-- Move one context of a native gang to the other encoding (R337, steps 5 and 6). -/
def Gang.convertSplit (g : Gang) (src tgt : NatCode) (kind : CoreKind) (k : Nat) (fresh : NatRegs) : Option Gang :=
  match g.splits[k]? with
  | none => some g
  | some sp =>
    if !sp.used then some g
    else do
      let n ← sp.snap
      let r ← n.record
      let kr ← tgt.keyedAt r.xpc
      let ret := n.ret.map (fun (x : Nat × Nat × Nat) => (src.xlate tgt x.1, x.2.1, x.2.2))
      let atMig := match sp.wait with | .mig _ _ _ => true | _ => false
      let sp1 : Split := { sp with pc := r.xpc, lr := 0, rrb := kr.rrb, flight := [], tailings := [], gated := [], loads := [], adt := [], ret := ret
                                   stage := none, reissue := none, wait := if atMig || sp.wait.inInterval then .ready else sp.wait }
      let g1 : Gang := { g with splits := g.splits.set k sp1, nregs := if k = 0 then fresh else g.nregs }
      let g2 := (tgt.valuesOf kr).foldl (fun (g : Gang) e => g.toMap kind k e) g1
      let sp2 := g2.splits.getD k Split.unused
      let snap : Snapshot := { pc := r.xpc, mask := sp2.mask, fmt := sp2.fmt, sig := sp2.sig, ret := ret, lr := sp2.lr, rrb := kr.rrb
                               flight := [], regs := g2.nregs, record := some kr, again := none }
      let sp3 : Split := { sp2 with snap := some snap, wrote := [], sinceCommit := 0 }
      some { g2 with splits := g2.splits.set k sp3 }

/-- Where lanes held in an RCS entry go on: at the entry's resume bundle, or, once they have finished, behind its join (R44, R302). -/
def RcsEntry.heldAt (e : RcsEntry) (kind : CoreKind) : Nat := if e.phase then e.rpc + bundleBytes kind else e.resume

/-- The lanes held in an RCS entry, as a context that stands at the bundle of a record (R43, R302). -/
def Gang.heldSnap (g : Gang) (e : RcsEntry) (r : Record) : Snapshot :=
  let sp := g.splits.getD e.owner Split.unused
  { pc := r.npc, mask := e.held, fmt := e.fmt, sig := sp.sig, ret := sp.ret, lr := e.lr, rrb := e.rrb, flight := [], regs := g.nregs
    record := some r, again := none }

/-- The JV values of lanes held in RCS entries (R318, R337). -/
def Gang.heldFrom (g : Gang) (t : Team) (src : NatCode) : Gang :=
  (g.rcs.filter (fun e => !e.cv && e.held != 0)).foldl (fun x e =>
    match src.keyedAt (e.heldAt t.core.kind) with
    | some r => (src.valuesOf r).foldl (fun x m => x.fromMap t t.core.kind (g.heldSnap e r) e.held m) x
    | none => x) g

/-- One entry's held lanes in the target encoding: their registers, and LR and RRB of the record at which they stand (R337). -/
def Gang.heldEntryTo (tgt : NatCode) (kind : CoreKind) (a : Gang × List RcsEntry) (e : RcsEntry) : Gang × List RcsEntry :=
  match if e.cv || e.held == 0 then none else tgt.keyedAt (e.heldAt kind), a.1.splits[e.owner]? with
  | some r, some sp =>
    let x : Gang := { a.1 with splits := a.1.splits.set e.owner { sp with mask := e.held, lr := 0, rrb := r.rrb } }
    let y := (tgt.valuesOf r).foldl (fun y m => y.toMap kind e.owner m) x
    ({ y with splits := y.splits.set e.owner sp }, a.2 ++ [{ e with lr := (y.splits.getD e.owner sp).lr, rrb := r.rrb }])
  | _, _ => (a.1, a.2 ++ [e])

/-- The held lanes of a gang in the target encoding; rpc and resume are PCs of it (R337). -/
def Gang.heldTo (g : Gang) (tgt : NatCode) (kind : CoreKind) : Gang :=
  let r := g.rcs.foldl (Gang.heldEntryTo tgt kind) (g, [])
  { r.1 with rcs := r.2 }

/-- Move a gang: the JV state is rebuilt, of lanes held in the RCS too, and each context placed in the target encoding. -/
def Gang.convert (g : Gang) (t : Team) (src tgt : NatCode) (kind : CoreKind) (base : Nat) : Option Gang :=
  if g.exited then some g
  else
    let lowest := ([0, 1, 2, 3].find? (fun k => (g.splits.getD k Split.unused).used)).getD 0
    let g0 : Gang := { g with jregs := freeRegs t.kern.decls base }
    let g1 := (g0.heldFrom t src).materialise t lowest
    let rcs := g1.rcs.map (fun (e : RcsEntry) =>
      { e with rpc := src.xlateJoin tgt t.core.kind kind e.rpc, resume := src.xlate tgt e.resume })
    let g2 : Gang := { g1 with rcs := rcs, nregs := NatRegs.open kind (base + deadSpan t.kern.decls), tspill := [] }
    ([0, 1, 2, 3].foldl (fun (a : Option Gang) k => a.bind (fun g => g.convertSplit src tgt kind k g.nregs)) (some g2)).map
      (fun g => g.heldTo tgt kind)

/-- The free values that the move of one gang takes up. -/
def convertSpan (ds : List Decl) : Nat := deadSpan ds + 8192

/-- Some gangs of a team in the other encoding, their dead registers free from base on. -/
def Team.convertGangs (t : Team) (src tgt : NatCode) (kind : CoreKind) (base : Nat) (gangs : List Gang) : Option (List Gang) :=
  gangs.foldl (fun (a : Option (List Gang)) g => do
    let l ← a
    let x ← g.convert t src tgt kind (base + l.length * convertSpan t.kern.decls)
    some (l ++ [x])) (some [])

/-- The free values that the move of a team takes up, its checkpoint's among them. -/
def moveSpan (ds : List Decl) : Nat := 32 * convertSpan ds

/-- The team as it stands on a core of the other kind, its dead registers free from base on; none where the encodings name no equivalent
point [32, DEDUCED]. Its checkpoint goes with it where its snapshots stand at such points too; else nothing is left to roll back to
[71, DEDUCED]. -/
def Team.convert (t : Team) (kind : CoreKind) (base : Nat) : Option Team :=
  match t.native, t.natCode, t.kern.pinned kind with
  | true, some src, some tgt => do
    let gangs ← t.convertGangs src tgt kind base t.gangs
    let u : Team := { t with gangs := gangs }
    some (match t.chk with
      | none => u
      | some c =>
        match t.convertGangs src tgt kind (base + 16 * convertSpan t.kern.decls) c.gangs with
        | some gs => { u with chk := some { c with gangs := gs } }
        | none => { u with chk := none, idempotent := false })
  | _, _, _ => some t

/-- Move a team to a core of the other kind (R337, R338); none where no core has room, or no spill pool [32, DEDUCED]. -/
def State.moveTeam (s : State) (rid : Nat) : Option State := do
  let t ← s.team? rid
  let kind := CoreKind.other t.core.kind
  let die := CoreId.die t.core
  let c ← s.leastLoaded (([0, 1, 2, 3].map (fun d => (die + d) % 4)).flatMap (fun d =>
    if s.hub.ready.getLsbD (4 + d) then (coresOf kind d).filter (fun c => s.fits c t.kern) else []))
  if s.transFits t kind then
    let t1 ← t.convert kind s.free
    let slots := s.freeSlots c
    let s1 := ((s.deselect t).invalidateAsid t.core t.asid).invalidateAsid c t.asid
    let t2 : Team := { t1.toSlots slots with core := c, transSpill := s.teamTrans t kind, moving := true, rebuild := false, moveReq := none,
                                              source := some { core := t.core, gangs := t.gangs, trans := t.transSpill, chk := t.chk } }
    let t3 : Team := { t2 with gangs := t2.gangs.map (fun (g : Gang) => { g with splits := g.splits.map (fun sp => { sp with stamp := s.now, sinceSel := 0 }) }) }
    let s1 : State := { s1 with free := s.free + moveSpan t.kern.decls }
    some ((s1.settleBank c rid t.scratchSize).updTeam rid (fun u => { t3.withPref u with bank := u.bank, scratchAt := u.scratchAt }))
  else none

/-! ## mig (R228, R340, R443) -/

/-- The gang stands at a mig: k, the status register and its locations, and the split. -/
def Gang.atMig (g : Gang) : Option (Nat × Operand × List Nat × Nat) :=
  (g.splits.zip (List.range 4)).findSome? (fun (x : Split × Nat) =>
    match x.1.used, x.1.wait with
    | true, .mig k d locs => some (k, d, locs, x.2)
    | _, _ => none)

/-- Every gang that has not exited stands at a mig. -/
def Team.allAtMig (t : Team) : Bool :=
  let live := t.gangs.filter (fun g => !g.exited)
  !live.isEmpty && live.all (fun g => g.atMig.isSome)

/-- The mig is well formed: one k, each gang one split with no open entry (R228). -/
def Team.migWellFormed (t : Team) : Bool :=
  let live := t.gangs.filter (fun g => !g.exited)
  let ks := live.filterMap (fun g => g.atMig.map (fun m => m.1))
  ks.all (fun k => some k == ks.head?) && live.all (fun g => g.rcs.isEmpty && (g.splits.filter (fun sp => sp.used)).length == 1)

/-- The target kind of k. -/
def migTarget (k : Nat) (now : CoreKind) : CoreKind := match k with | 0 => .lcore | 1 => .dcore | _ => CoreKind.other now

/-- Every gang writes the status and goes on [32, DEDUCED]. -/
def Team.endMig (t : Team) (now status : Nat) : Team :=
  { t with gangs := t.gangs.map (fun (g : Gang) =>
      match g.atMig with
      | none => g
      | some (_, d, locs, j) =>
        let sp := g.splits.getD j Split.unused
        let g1 := g.putLate t.core.kind j d locs 5 sp.mask true true (fun _ => BitVec.ofNat 64 status)
        g1.updSplit j (fun sp => sp.wake now)) }

/-- A JV context leaves its mig for the next instruction; a native one for the bundle after it, with the keyed record. -/
def Team.passMig (t : Team) : Team :=
  { t with gangs := t.gangs.map (fun (g : Gang) =>
      match g.atMig with
      | none => g
      | some (_, _, _, j) =>
        g.updSplit j (fun sp =>
          if t.native then
            { sp with snap := sp.snap.map (fun n => { n with pc := sp.pc, again := none, record := (t.natCode.bind (fun c => c.keyedAt sp.pc)).orElse (fun _ => n.record) }) }
          else
            let len := match t.fetchWords sp.region sp.pc with
              | some ws => (match decodeJv ws with | .ok _ _ l => l | .bad _ l => l.getD 1)
              | none => 1
            { sp with pc := (sp.pc + 8 * len) % 2 ^ 56 })) }

/-- A JV instruction that faults after it was issued stands at its PC again, its SIG step undone (R226, R426). -/
def Gang.unissue (g : Gang) (k : Nat) (x : Word) : Gang :=
  { g.updSplit k (fun sp => { sp with sig := rotl64 51 (sp.sig ^^^ x) }) with issued := g.issued - 1 }

/-- An ill-formed mig: every gang faults with 450 against its mig bundle (R443) [32, DEDUCED]. -/
def State.failMig (s : State) (t : Team) : State :=
  let parked := (t.gangs.zip (List.range t.gangs.length)).filterMap (fun (x : Gang × Nat) => x.1.atMig.map (fun m => (x.2, m.2.2.2)))
  let s1 := s.updTeam t.rid (fun u => parked.foldl (fun u (p : Nat × Nat) => u.updGang p.1 (fun g =>
    (if t.native then g else g.unissue p.2 (sigX .mig 5)).updSplit p.2 (fun sp => sp.wake s.now))) { u with moveReq := none })
  parked.foldl (fun s (p : Nat × Nat) =>
    let npc : Word := match s.split? t.rid p.1 p.2 with
      | some sp => if t.native then mkWord (((sp.snap.bind (fun n => n.again)).map (fun x => x.bundle)).getD sp.pc)
          else Config.nativePc t.kern.handle t.core.kind sp.pc
      | none => allOnes
    s.deliver { cause := 450, info := 0, addr := 0 } { rid := t.rid, gang := p.1, split := p.2, npc := npc }) s1

/-- The mig completes without a move (R228). -/
def Team.stayMig (t : Team) (now status : Nat) : Team := ({ t with moveReq := none }.passMig.endMig now status).checkpoint

/-- The mig of a team in which every gang has arrived: it completes with a status, begins a move, or every gang faults with 450
[32, DEDUCED]. -/
def State.settleMig (s : State) (rid : Nat) : State :=
  match s.team? rid with
  | none => s
  | some t =>
    if !t.allAtMig || t.moving then s
    else if !t.migWellFormed then s.failMig t
    else
      let k := ((t.gangs.findSome? Gang.atMig).map (fun m => m.1)).getD 0
      let target := migTarget k t.core.kind
      if target = t.core.kind then s.updTeam rid (fun t => t.stayMig s.now 2)
      else if !(t.kern.kinds.contains target) then s.updTeam rid (fun t => t.stayMig s.now 0)
      else s.updTeam rid (fun t => { t with moving := true, rebuild := true, moveReq := none })

/-- A move that a mig began ends: with 3 where there is no room (R228, R337). -/
def State.endMigMove (s : State) (rid : Nat) (t : Team) : State :=
  -- the status stands in the source's location when the JV state is rebuilt
  match ((s.updTeam rid (fun t => t.endMig s.now 1)).moveTeam rid) with
  | some s2 =>
    let back := t.stayMig s.now 3
    let s3 := s2.updTeam rid (fun u => { u with source := u.source.map (fun x => { x with gangs := back.gangs, chk := back.chk }) })
    if t.native then s3.updTeam rid Team.checkpoint
    else s3.updTeam rid (fun u =>
      { u with gangs := ((t.passMig.endMig s.now 1).gangs.zip u.gangs).map (fun (x : Gang × Gang) => { x.1 with slot := x.2.slot }) }.checkpoint)
  | none => (s.releaseHeld t).updTeam rid (fun t => t.stayMig s.now 3)

/-- Contexts that parked for a dispatcher's request go on (R339). -/
def Team.goOn (t : Team) (now : Nat) : Team := { t with moveReq := none }.wakeIf now (fun w => w == Wait.moveReq)

/-- A move that a dispatcher asked for ends: where there is no room, the team goes on (R337, R339). -/
def State.endAskedMove (s : State) (rid : Nat) : State :=
  match s.moveTeam rid with
  | some s1 => s1.updTeam rid (fun t => { t.goOn s.now with
      source := t.source.map (fun x => { x with gangs := ({ t with gangs := x.gangs }.goOn s.now).gangs }) })
  | none =>
    match s.team? rid with
    | some t => (s.releaseHeld t).updTeam rid (fun t => t.goOn s.now)
    | none => s

/-- The JV state of a team that moves is rebuilt, and it takes its place on the target core (R337). -/
def State.finishMove (s : State) (rid : Nat) : State :=
  match s.team? rid with
  | some t => if !t.rebuild then s else if t.allAtMig then s.endMigMove rid t else s.endAskedMove rid
  | none => s

/-- A move is given up before its JV state is rebuilt: a mig returns 3 (R340). -/
def State.dropMove (s : State) (t : Team) : State :=
  if !t.rebuild then s
  else (s.releaseHeld t).updTeam t.rid (fun u => if t.allAtMig then u.stayMig s.now 3 else u.goOn s.now)

end Sys2Proof.Machine
end

