-- ==== Sys2Proof/Machine/System.lean ====
section
/-! DEFINITION. System instructions (R222 to R232): traps, handlers, signatures, migration, queries, launch, time, counters
and breakpoints. -/

namespace Sys2Proof.Machine

/-! ## trap, tvec, tret, brkpt (R223 to R225, R435, R436, R459) -/

/-- The number an instruction names, read as a 64-bit literal. -/
def View.num (v : View) (a : Args) : Nat := if a.ty = 5 then (v.rdU a.a 5).toNat % 2 ^ 32 else (v.rdU a.a 7).toNat

/-- A number outside 0 to n - 1 (132). -/
def View.numChecks (n : Nat) (v : View) (a : Args) (e : Mask) : List Raise :=
  if n ≤ v.num a then [{ cause := 132, info := (lanesOf e).headD 0 + 32, addr := v.num a }] else []

/-- trap n: cause 576 + n, raised after the trap (R224). -/
def trapBody (v : View) (a : Args) (_ : Mask) : Out :=
  .raiseAfter { v with t := v.t.escape } { cause := 576 + v.num a, info := v.num a, addr := 0 }

/-- The handler's address: a label, or a uniform value [82, DEDUCED]. -/
def View.handlerAddr (v : View) (a : Args) : Nat :=
  match a.a with
  | .imm 1 x => (v.sp.pc + x.toNat) % 2 ^ 56
  | o => (v.rdU o 7).toNat

def tvecChecks (v : View) (a : Args) (e : Mask) : List Raise :=
  let h := v.handlerAddr a
  let f := (v.rdU a.b 7).toNat
  let info := (lanesOf e).headD 0 + 64
  (if f % 16384 != 0 then [{ cause := 128, info := info, addr := f }] else [])
  ++ (if 2 ^ 56 ≤ f then [{ cause := 130, info := info, addr := f }] else [])
  ++ (if h != 0 && (v.t.codeAt h).isNone then [raise515 h] else [])

def tvecBody (v : View) (a : Args) (_ : Mask) : Out :=
  .done { v with g := { v.g with tvec := v.handlerAddr a, tframe := (v.rdU a.b 7).toNat } }

def tretChecks (v : View) (_ : Args) (_ : Mask) : List Raise :=
  if v.g.handler.isNone then [{ cause := 518, info := 0, addr := 0 }]
  else if v.g.entries.isEmpty then [] else [{ cause := 517, info := 0, addr := 0 }]

/-- tret ends the handler, or waits with nothing done while its frame's page is migrated (R435). -/
def tretBody (v : View) (_ : Args) (_ : Mask) : Out :=
  match v.s.frameWait v.t v.g with
  | some w => .park v w
  | none => .state (v.complete.close.endHandler v.t.rid v.gang)

/-- A team's status once a breakpoint has been reached: it is asked to stop, and the report stands behind those of earlier breakpoints
[84, DEDUCED]. -/
def TeamStatus.atBreak (x : TeamStatus) (brk : Nat × Nat × Nat) : TeamStatus :=
  match x with
  | .resident | .suspending => .stopping [brk] false
  | .stopping l host => .stopping (l ++ [brk]) host
  | _ => x

/-- brkpt: with debugging, the team is asked to stop virtual-precisely after it (R225, R364) [84, DEDUCED]. -/
def brkptBody (f : Form) (v : View) (a : Args) (_ : Mask) : Out :=
  if v.t.dbg then
    .done { v with t := { v.t with status := v.t.status.atBreak (v.num a, v.gang, if v.native then v.t.rjvpc v.sp else v.t.kern.jvOffset (v.fall f)) } }
  else .done v

/-! ## Signatures (R227, R488) [15, DEDUCED] -/

def chksigChecks (v : View) (a : Args) (_ : Mask) : List Raise :=
  if v.sp.sig != v.rdU a.a 7 then [{ cause := 640, info := 0, addr := (v.rdU a.a 7).toNat }] else []

def sigsetBody (v : View) (a : Args) (_ : Mask) : Out := .done { v with sp := { v.sp with sig := v.rdU a.a 7, sigOff := false } }

/-! ## mig, query, qkind (R228, R229) -/

def migChecks (v : View) (a : Args) (e : Mask) : List Raise :=
  v.numChecks 3 a e ++ (if v.g.handler.isSome then [{ cause := 452, info := 0xFFFF, addr := 0 }] else [])

/-- Park at the mig; the last gang to arrive settles it. -/
def migBody (v : View) (a : Args) (_ : Mask) : Out :=
  let w : Wait := .mig (v.num a) a.d (v.locsOf a.d 32)
  let v1 := { v.complete with sp := { v.complete.sp with wait := w, waitStart := v.s.ptp } }
  .state (v1.close.settleMig v.t.rid)

def queryBody (v : View) (a : Args) (_ : Mask) : Out :=
  let x : Word := match v.num a with
    | 0 => v.t.kern.feat0
    | 1 => v.t.kern.feat1
    | 2 => 0x10000
    | _ => BitVec.ofNat 64 v.s.hub.config.package
  .done (v.putUni a.d 7 x)

def qkindBody (v : View) (a : Args) (_ : Mask) : Out :=
  let c := v.t.core
  .done (v.putUni a.d 5 (BitVec.ofNat 64 ((if c.kind = .dcore then 1 else 0) + c.num * 2 ^ 8 + CoreId.die c * 2 ^ 16)))

/-! ## launch (R230, R343) -/

def Queue.pending (q : Queue) : Nat := (q.wr - q.rd).toNat

def launchQueue (v : View) (a : Args) : Option Queue := v.s.hub.queues.find? (fun q => q.num == uval 32 (v.rdU a.b 5))

def launchChecks (v : View) (a : Args) (e : Mask) : List Raise :=
  let p := (v.rdU a.a 7).toNat
  let n := uval 32 (v.rdU a.b 5)
  let l := (lanesOf e).headD 0
  let bad := match launchQueue v a with
    | some q => !q.device || q.asid != v.t.asid
    | none => true
  v.spaceCheck 3 p 64 64 l 1 false
  ++ (if 4096 ≤ n || bad then [{ cause := 132, info := l + 64, addr := n }] else [])

/-- A result that comes with its operation at once: into the register and the snapshot (R305). -/
def View.putNow (v : View) (a : Args) (x : Word) : View :=
  v.onGang (v.gangNow.putLate v.t.core.kind v.k a.d (v.locsOf a.d 32) 5 v.sp.mask true true (fun _ => x))

/-- A release at .pkg, then the packet is read and placed in the queue's next slot, unless the queue is full [36, DEDUCED]. -/
def launchBody (v : View) (a : Args) (_ : Mask) : Out :=
  let p := (v.rdU a.a 7).toNat
  match v.parkOf 3 p false, launchQueue v a with
  | some w, _ => .park v w
  | none, none => .done v
  | none, some q =>
    if v.s.dmPoison v.t.core v.t.asid p 64 true then .raise (raise256 0 p)
    else
      let v1 := v.release true
      let r := v1.close.homeRead v.t.core v.t.asid p 64
      let v2 := (v1.onState (fun _ => r.2)).holdUntil (v.farTime 3 p)
      if q.size ≤ q.pending then .done (v2.putNow a 1)
      else
        let v3 := v2.onState (fun s =>
          let s1 := s.putPkg q.asid (q.ring + 64 * (q.wr.toNat % q.size)) r.1
          { s1 with hub := { s1.hub with queues := updFirst (fun (x : Queue) => x.num == q.num) (fun (x : Queue) => { x with wr := x.wr + 1 }) s1.hub.queues } })
        .done (v3.putNow a 0)

/-! ## Time and counters (R231, R232) -/

def ptimeBody (v : View) (a : Args) (_ : Mask) : Out :=
  let x : Nat := match a.sub with
    | 0 => v.s.ptp
    | 1 => v.s.ptp / 1000000000 % 2 ^ 48
    | _ => v.s.ptp % 1000000000
  .done (v.putUni a.d 7 (BitVec.ofNat 64 x))

/-- Where a JV instruction goes on from its offset, when that does not depend on data. -/
def jvAfter (o : Op) (f : JvForm) (off n : Nat) : Option Nat :=
  let dest (x : Operand) : Option Nat := match x with | .imm _ d => some ((off + d.toNat) % 2 ^ 56) | _ => none
  match o with
  | .bra => if f.guard = .always then dest f.a else none
  | .call => dest f.a
  | .brx | .callx | .ret | .exit | .tret => none
  | _ => some (off + 8 * n)

/-- A JV instruction on a path that does not depend on data: its offset, whether it is a prfrd of selector 0, and what it does to SIG. -/
structure JvPoint where
  off : Nat
  counts : Bool
  sig : Option Word
deriving DecidableEq, Repr

/-- The path of JV code from an offset as far as it does not depend on data, with the offset behind its last instruction. -/
def jvPath (code : List Word) : Nat → Nat → List JvPoint × Option Nat
  | 0, off => ([], some off)
  | fuel + 1, off =>
    if off % 8 = 0 ∧ off / 8 < code.length then
      match decodeJv ((code.drop (off / 8)).take 4) with
      | .bad _ _ => ([], some off)
      | .ok o f n =>
        let p : JvPoint := { off := off, counts := o == .prfrd && (f.a == .lit 0 || (match f.a with | .imm _ x => x == 0 | _ => false))
                             sig := if o.stepsSig then some (sigX o f.ty) else none }
        match jvAfter o f off n with
        | some off' => let r := jvPath code fuel off'; (p :: r.1, r.2)
        | none => ([p], none)
    else ([], some off)

/-- No instruction of the code can go back: every path passes each instruction once at most. -/
def jvForward (code : List Word) : Bool :=
  (List.range code.length).all (fun i => match decodeJv ((code.drop i).take 4) with
    | .ok .bra f _ => (match f.a with | .imm _ d => decide (d.toNat < 2 ^ 55) && d != 0 | _ => false)
    | .ok .brx _ _ | .ok .call _ _ | .ok .callx _ _ | .ok .ret _ _ => false
    | _ => true)

/-- How many JV instructions lie between two resume points of a kernel, where its code says so: on the only path from the one, the place of the other that
SIG confirms, or its only place (R226, R232, R533) [70, DESIGN CHOICE]. -/
def jvSpan (code : List Word) (from' dest : Nat) (sig0 sig1 : Word) : Option Nat :=
  let r := jvPath code (code.length + 1) from'
  let offs := r.1.map (fun p => p.off) ++ r.2.toList
  let sigAt (i : Nat) : Word := (r.1.take i).foldl (fun s p => match p.sig with | some x => sigStep s x | none => s) sig0
  let places := (List.range offs.length).filter (fun i => offs.getD i 0 == dest)
  match places.find? (fun i => i != 0 && sigAt i == sig1 && sig1 != sig0) with
  | some i => some i
  | none => if jvForward code then places.head? else none

/-- How many JV instructions stand before the n-th prfrd of selector 0 behind a resume point, where the code says so (R232). -/
def jvBefore (code : List Word) (from' n : Nat) : Option Nat :=
  let l := (jvPath code (code.length + 1) from').1
  ((List.range l.length).filter (fun i => ((l[i]?).map (fun p => p.counts)).getD false))[n]?

/-- The open context's SIG at its last commit point. -/
def Split.sigThen (sp : Split) : Word := ((sp.snap.map (fun n => n.sig)).getD 0)

/-- What prfrd counts in native code since the last commit point: the kernel's own number of JV instructions from there to the prfrd
(R232, R333) [70, DESIGN CHOICE]. -/
def View.stepsHere (v : View) : Nat :=
  (jvBefore v.t.kern.code (v.t.rjvpc v.sp) v.sp.counts).getD
    (v.sp.steps + Config.jvSteps v.t.kern.code (v.t.rjvpc v.sp) (2 ^ 64 + v.sp.counts) v.sp.sigThen v.sp.sig)

/-- What the context's interval comes to at its commit point with a record (R232, R333) [70, DESIGN CHOICE]. -/
def View.stepsTo (v : View) (r : Option Record) : Nat :=
  let dest := (r.map (fun x => x.jvpc)).getD 0
  Nat.max v.sp.steps ((jvSpan v.t.kern.code (v.t.rjvpc v.sp) dest v.sp.sigThen v.sp.sig).getD
    (v.sp.steps + Config.jvSteps v.t.kern.code (v.t.rjvpc v.sp) dest v.sp.sigThen v.sp.sig))

/-- JV instructions that the gang has issued, those counted in the contexts' open intervals among them. -/
def View.issuedNow (v : View) : Nat :=
  (v.g.splits.set v.k v.sp).foldl (fun n sp => if sp.used then n + sp.steps else n) v.g.issued

/-- Selector 0 counts JV instructions; what it counts in native code is a free value, the same for the same inputs, which a later read does not
fall below [70, DESIGN CHOICE]. -/
def prfrdBody (v : View) (a : Args) (_ : Mask) : Out :=
  if v.native && v.num a = 0 then
    let w : View := { v with sp := { v.sp with steps := Nat.max v.sp.steps v.stepsHere, counts := v.sp.counts + 1 } }
    .done (w.putUni a.d 7 (BitVec.ofNat 64 w.issuedNow))
  else
    let x : Nat := match v.num a with
      | 0 => v.issuedNow
      | 1 => v.t.residentNs + (v.s.ptp - v.t.placedAt)
      | 2 => v.t.haulStall
      | 3 => v.t.prefUseful
      | 4 => v.t.prefLate
      | 5 => v.t.prefUnused
      | _ => v.g.conflicts
    .done (v.putUni a.d 7 (BitVec.ofNat 64 x))

def execTrap (f : Form) (s : State) : Result := runOp .trap f s (View.numChecks 64) trapBody
def execTvec (f : Form) (s : State) : Result := runOp .tvec f s tvecChecks tvecBody
def execTret (f : Form) (s : State) : Result := runOp .tret f s tretChecks tretBody
def execMig (f : Form) (s : State) : Result := runOp .mig f s migChecks migBody
def execQuery (f : Form) (s : State) : Result := runOp .query f s (View.numChecks 4) queryBody
def execQkind (f : Form) (s : State) : Result := runOp .qkind f s noChecks qkindBody
def execChksig (f : Form) (s : State) : Result := runOp .chksig f s chksigChecks (fun v _ _ => .done v)
def execSigset (f : Form) (s : State) : Result := runOp .sigset f s noChecks sigsetBody
def execLaunch (f : Form) (s : State) : Result := runOp .launch f s launchChecks launchBody
def execPtime (f : Form) (s : State) : Result := runOp .ptime f s noChecks ptimeBody
def execPrfrd (f : Form) (s : State) : Result := runOp .prfrd f s (View.numChecks 7) prfrdBody
def execBrkpt (f : Form) (s : State) : Result := runOp .brkpt f s (View.numChecks 64) (brkptBody f)

end Sys2Proof.Machine
end

