-- ==== Sys2Proof/Machine/Native.lean ====
section
/-! DEFINITION. The native-only operations (R297 to R301, R305, R307, R533), commit points (R302 to R305, R424), and the
landing of results in flight (R290 to R293, R312, R313). -/

namespace Sys2Proof.Machine

/-! ## Landing -/

/-- Write results to registers, LR among them, in their order: of two for one lane the last stays (R292). -/
def Gang.land (g : Gang) (kind : CoreKind) (k : Nat) (l : List Flight) : Gang :=
  l.foldl (fun x f => x.setLoc kind k f.loc f.lanes f.value) g

/-- n clocks of a context pass: counts fall, and exposed results whose count has run out land (R290, R520). -/
def Gang.clocks (g : Gang) (kind : CoreKind) (k n : Nat) : Gang :=
  match n with
  | 0 => g
  | n + 1 =>
    match g.splits[k]? with
    | none => g
    | some sp =>
      let less := sp.flight.map (fun (f : Flight) => { f with remain := f.remain - 1 })
      let g1 : Gang := { g with splits := g.splits.set k { sp with flight := less.filter (fun f => f.remain != 0) } }
      Gang.clocks (g1.land kind k (less.filter (fun f => f.remain == 0))) kind k n

/-- Interlocked results whose time has come land (R293) [34, DEDUCED]. -/
def Gang.landArrived (g : Gang) (kind : CoreKind) (k now : Nat) : Gang :=
  match g.splits[k]? with
  | none => g
  | some sp =>
    let here := sp.loads.filter (fun f => f.remain == 0 && decide (f.due ≤ now))
    here.foldl (fun (x : Gang) f => x.setLoc kind k f.loc f.lanes f.value)
      { g with splits := g.splits.set k { sp with loads := sp.loads.filter (fun f => !(f.remain == 0 && decide (f.due ≤ now))) } }

/-- n clocks of the core pass for the loads of a context. -/
def Gang.loadClocks (g : Gang) (kind : CoreKind) (k now n : Nat) : Gang :=
  match g.splits[k]? with
  | none => g
  | some sp =>
    if sp.loads.isEmpty then g
    else
      let g1 : Gang := { g with splits := g.splits.set k { sp with loads := sp.loads.map (fun (f : PendLoad) => { f with remain := f.remain - n }) } }
      g1.landArrived kind k now

/-- n clocks of the core, at the boundary of a bundle, for the contexts of a sequencer (R56, R291, R520); held names a context whose own clock
stands. A gang whose handler runs has no result in flight that counts (R432). -/
def State.tickCore (s : State) (c : CoreId) (q n : Nat) (held : Option Cur) : State :=
  { s with teams := s.teams.map (fun (t : Team) =>
      if t.core = c ∧ t.onCore ∧ t.native then
        { t with gangs := (t.gangs.zip (List.range t.gangs.length)).map (fun (x : Gang × Nat) =>
            if seqOf c.kind x.1.slot = q ∧ x.1.handler.isNone then
              (List.range 4).foldl (fun g k =>
                let g1 := g.loadClocks c.kind k s.now n
                if held = some { rid := t.rid, gang := x.2, split := k } then g1 else g1.clocks c.kind k n) x.1
            else x.1) }
      else t) }

/-- The context's clock reaches the cycle in which its next exposed result is due. -/
def Gang.landNext (g : Gang) (kind : CoreKind) (k : Nat) : Gang :=
  match g.splits[k]? with
  | none => g
  | some sp =>
    match sp.flight with
    | [] => g
    | f :: r => g.clocks kind k (r.foldl (fun n x => Nat.min n x.remain) f.remain)

/-- EXPOSED_RESULT_LAND: a result whose latency has passed is written to its register (R290); the clock of a context that is
selected runs with its bundles only [6, DESIGN CHOICE]. -/
def execExposedResultLand (rid gang split : Nat) (s : State) : Result :=
  match s.team? rid with
  | some t =>
    if t.onCore && !s.selected t gang split then .next (s.updTeam rid (fun u => u.updGang gang (fun g => g.landNext t.core.kind split)))
    else .next s
  | none => .next s

/-- LOAD_RESULT_ARRIVE: interlocked results are written to their registers (R293). -/
def execLoadResultArrive (rid gang split : Nat) (s : State) : Result :=
  match s.team? rid with
  | some t => .next (s.updTeam rid (fun u => u.updGang gang (fun g => g.landLoads t.core.kind split)))
  | none => .next s

/-- From its first bundle on the tailings of a context are results in flight like others (R313). -/
def Gang.startTailings (g : Gang) (k : Nat) : Gang :=
  g.updSplit k (fun sp => { sp with flight := sp.tailings ++ sp.flight, tailings := [] })

/-- TAILING_LAND: a result of a resumed context whose count has run out is written to its register (R313); before the context's
first bundle no tailing counts. -/
def execTailingLand (rid gang split : Nat) (s : State) : Result := execExposedResultLand rid gang split s

/-! ## Commit points (R305, R424) -/

/-- A map entry whose kind or location is unassigned (769). -/
def MapEntry.bad (e : MapEntry) (kind : CoreKind) : Bool :=
  match e.kind with
  | 0 | 1 => decide (208 < e.loc) || (kind == .lcore && decide (96 ≤ e.loc) && decide (e.loc < 128))
  | 2 => decide (coreTiles kind ≤ e.loc)
  | 3 => false
  | 4 => decide ((match kind with | .dcore => 8 | .lcore => 4) ≤ e.loc)
  | _ => true

def defect (c : Nat) : Raise := { cause := c, info := 0, addr := 0 }

/-- The record of a commit point, checked: missing 768, unassigned location or kind 769. -/
def View.useRecord (v : View) (r : Option Record) : Except Raise Record :=
  match r, v.t.natCode with
  | some r, some c => if (c.mapsOf r).any (fun e => e.bad v.t.core.kind) then .error (defect 769) else .ok r
  | _, _ => .error (defect 768)

/-- The addresses at which an access to a gated line is judged: that of the store that opened it, and a byte of it that lies in a read-only section. -/
def View.gatedPoints (v : View) (e : Gated) : List Nat :=
  e.addr :: ((e.bytes.find? (fun b => v.s.roRange v.t.asid (e.line + b.1))).map (fun b => e.line + b.1)).toList

/-- What the check of the gated entries finds (R424): the first fault in the order of R448, a page among them, or a package to wait for. -/
def View.gatedCheck (v : View) : Option (Raise ⊕ Wait) :=
  let found : List (Raise ⊕ Wait) := v.sp.gated.flatMap (fun e =>
    if e.spc = 3 then
      (v.gatedPoints e).filterMap (fun x =>
        match v.s.access v.t.asid x true with
        | .ok _ => none
        | .park w => some (match w with | .page _ _ _ _ => .inl { cause := 192, info := 0, addr := x } | _ => .inr w)
        | .raise c =>
          let info := if c < 256 then e.lane + 256 else ((v.s.page? v.t.asid x).map (fun p => p.place.pkg)).getD 0
          some (.inl { cause := c, info := info, addr := x }))
    else [])
  match Raise.first (found.filterMap (fun x => match x with | .inl r => some r | .inr _ => none)) with
  | some r =>
    if r.cause = 192 then (match v.s.access v.t.asid r.addr true with | .park w => some (.inr w) | _ => none) else some (.inl r)
  | none => found.find? (fun x => match x with | .inr _ => true | .inl _ => false)

/-- A snapshot of the open context as it stands (R305). -/
def View.snapshot (v : View) (pc : Nat) (r : Option Record) (again : Option Stage) : Snapshot :=
  { pc := pc, mask := v.sp.mask, fmt := v.sp.fmt, sig := v.sp.sig, ret := v.sp.ret, lr := v.sp.lr, rrb := v.sp.rrb
    flight := v.sp.flight, regs := v.g.nregs, record := r, again := again }

/-- When the last performed store to another package is over (R53). -/
def View.gatedFar (v : View) : Nat := v.sp.gated.foldl (fun n e => Nat.max n (v.farTime e.spc e.addr)) 0

/-- The end of a commit point of the open context: its loads have arrived, its gated entries are performed, its flags join FLG, and its snapshot is taken
with this resume address and record (R305). -/
def View.commit (v : View) (pc : Nat) (r : Option Record) (again : Option Stage) : View :=
  let v1 := (v.onGang (v.gangNow.landLoads v.t.core.kind v.k)).flush
  let n := v1.stepsTo r
  let v2 : View := { v1 with g := { v1.g with flg := v1.g.flg ||| v1.sp.held, issued := v1.g.issued + n }
                             sp := { v1.sp with held := 0, adt := [], wrote := [], tileLog := [], tilePos := 0, sinceCommit := 0, steps := 0, counts := 0 } }
  { v2 with sp := { v2.sp with snap := some (v2.snapshot pc r again) } }

/-- The interval that ended is counted at its record (R334). -/
def View.endInterval (v : View) (r : Record) : View :=
  match v.t.natCode.bind (fun c => c.numberOf r) with
  | some n => { v with t := v.t.endInterval v.sp n, sp := { v.sp with tally := Counters.zero } }
  | none => v

/-- An equivalence point finds no exposed result in flight behind its bundle, and RRB as its record says (R307). -/
def View.equivalent (v : View) (r : Record) : Bool :=
  v.sp.tailings.isEmpty && v.sp.flight.all (fun f => decide (f.remain ≤ 1)) && v.sp.rrb == r.rrb

/-- cmt n and eqp n name the indexed record n: what the check before the commit point finds (R302, R305, R307, R424). -/
def commitBody (equiv : Bool) (v : View) (a : Args) (_ : Mask) : Out :=
  match v.useRecord (v.t.natCode.bind (fun c => c.indexed[a.off.toNat]?)) with
  | .error r => .raise r
  | .ok r =>
    if equiv && !v.equivalent r then .raise (defect 771)
    else
      match v.gatedCheck with
      | some (.inl x) => .raise x
      | some (.inr w) => .park v w
      | none => .done ((v.commit v.sp.pc (some r) none).endInterval r)

/-! ## Loops, rotation, crosscopy, SIG -/

def rotating (k : CoreKind) : Nat := match k with | .dcore => 32 | .lcore => 48

def loopChecks (v : View) (a : Args) (e : Mask) : List Raise :=
  (if 15 < a.off then [{ cause := 132, info := (lanesOf e).headD 0 + 128, addr := a.off.toNat }] else [])
  ++ (if v.sp.lr != 0 && (v.target? (v.label a.a)).isNone then [raise515 (v.label a.a)] else [])

/-- loop: counts LR, rotates RRB and the stage predicates of the active lanes, and branches while LR was above 0 (R300). -/
def loopBody (v : View) (a : Args) (_ : Mask) : Out :=
  let lr := v.sp.lr
  let taken := lr != 0
  let lr1 := if taken then lr - 1 else lr
  let stage := taken && decide (a.off.toNat ≤ lr1.toNat)
  let m := v.sp.mask
  let old (i : Nat) : Mask := Tab.get 0#32 v.g.nregs.pr i
  let src (i : Nat) : Mask := if i = 8 then (if stage then BitVec.allOnes 32 else 0) else old (i - 1)
  let pr := [8, 9, 10, 11, 12, 13, 14, 15].foldl (fun p i => Tab.set 0#32 p i ((old i &&& ~~~m) ||| (src i &&& m))) v.g.nregs.pr
  let v1 : View := { v with g := { v.g with nregs := { v.g.nregs with pr := pr } }
                            sp := { v.sp with lr := lr1, rrb := (v.sp.rrb + 1) % rotating v.t.core.kind } }
  if taken then .jump (v1.goto (v.label a.a)) else .jump v1

def rrbsetChecks (v : View) (a : Args) (e : Mask) : List Raise :=
  if rotating v.t.core.kind ≤ a.off.toNat then [{ cause := 132, info := (lanesOf e).headD 0 + 128, addr := a.off.toNat }] else []

def rrbsetBody (v : View) (a : Args) (_ : Mask) : Out := .done { v with sp := { v.sp with rrb := a.off.toNat } }

/-- movx: 32 bits of each lane of E from the other cluster (R301). -/
def movxBody (v : View) (a : Args) (e : Mask) : Out := .done (v.putLanes a.d 5 e (fun l => v.rd a.a 5 l))

/-- sigadv n, c: n instruction steps at once (R533). -/
def sigadvBody (v : View) (a : Args) (_ : Mask) : Out :=
  .done { v with sp := { v.sp with sig := rotl64 (13 * a.off.toNat % 64) v.sp.sig ^^^ v.rdU a.a 7 } }

def execLoop (f : Form) (s : State) : Result := runOp .loop f s loopChecks loopBody
def execRrbset (f : Form) (s : State) : Result := runOp .rrbset f s rrbsetChecks rrbsetBody
def execCmt (f : Form) (s : State) : Result := runOp .cmt f s noChecks (commitBody false)
def execEqp (f : Form) (s : State) : Result := runOp .eqp f s noChecks (commitBody true)
def execMovx (f : Form) (s : State) : Result := runOp .movx f s noChecks movxBody
def execSigadv (f : Form) (s : State) : Result := runOp .sigadv f s noChecks sigadvBody
def execNop (f : Form) (s : State) : Result := runOp .nop f s noChecks (fun v _ _ => .done v)

end Sys2Proof.Machine
end

