-- ==== Sys2Proof/Machine/Lode.lean ====
section
/-! DEFINITION. The lode (R329 to R335, R476, R477): keys, entries, their copies in HBM, and how the lode comes to hold one. -/

namespace Sys2Proof.Machine

/-! ## Keys (R330) -/

def kindByte (k : CoreKind) : Byte := match k with | .lcore => 1 | .dcore => 2

/-- Items 2 to 5 of what a key is the digest of: stepping, kind, options, feature words. -/
def keyTail (k : Kernel) (kind : CoreKind) (dbg pinned : Bool) (gen : Nat) : List Byte :=
  let options := (if dbg then 1 else 0) + (if pinned then 2 else 0) + gen * 4
  toBytesLE 2 0x0101 ++ [kindByte kind] ++ toBytesLE 8 options ++ toBytesLE 8 k.feat0.toNat ++ toBytesLE 8 k.feat1.toNat

/-- The key of a kernel's translation. -/
def lodeKey (k : Kernel) (kind : CoreKind) (dbg pinned : Bool) (gen : Nat) : BitVec 256 :=
  Config.sha256 (bytesOfWords k.code ++ keyTail k kind dbg pinned gen)

/-- The key of a codeload region's translation: its bytes and the key of the issuing kernel's translation; a region's translation is of
generation 0 (R335) [70, DESIGN CHOICE]. -/
def regionKey (k : Kernel) (kind : CoreKind) (dbg : Bool) (code : List Word) (parent : BitVec 256) : BitVec 256 :=
  Config.sha256 (bytesOfWords code ++ toBytesLE 32 parent.toNat ++ keyTail k kind dbg false 0)

/-! ## Side tables as bytes (R314 to R316) and counters (R334) -/

def Record.bytes (r : Record) : List Byte :=
  let bit (b : Bool) : Nat := if b then 1 else 0
  toBytesLE 8 (r.jvpc % 2 ^ 56 + bit r.eq * 2 ^ 56 + bit r.keyed * 2 ^ 57) ++ toBytesLE 8 (r.npc % 2 ^ 56) ++ toBytesLE 8 r.xpc
  ++ toBytesLE 8 (r.safe % 2 ^ 56) ++ toBytesLE 8 (r.nmap % 2 ^ 16 + r.rrb % 64 * 2 ^ 16 + r.first % 2 ^ 32 * 2 ^ 32)

def MapEntry.toBytes (e : MapEntry) : List Byte :=
  toBytesLE 4 e.jvreg ++ toBytesLE 2 e.loc ++ toBytesLE 2 (e.kind % 8 + (if e.hi then 8 else 0))

/-- The side-table section of a translation (R314). -/
def NatCode.side (c : NatCode) : List Byte :=
  let n := c.indexed.length + c.keyed.length
  toBytesLE 4 c.indexed.length ++ toBytesLE 4 c.keyed.length ++ toBytesLE 4 (16 + 40 * n) ++ toBytesLE 4 c.spillSize
  ++ (c.indexed ++ c.keyed).flatMap Record.bytes ++ c.maps.flatMap MapEntry.toBytes

/-- Indexed and keyed records of a side-table section. -/
def recordCount (side : List Byte) : Nat := ofBytesLE (side.take 4) + ofBytesLE ((side.drop 4).take 4)

/-- The 48-byte counter record of R334. -/
def Counters.bytes (c : Counters) : List Byte := [c.exec, c.adt, c.hstall, c.puse, c.plate, c.pnone].flatMap (toBytesLE 8)

/-- The digest that an entry holds of its code, its side tables and its counters (R331): it is a function of them and not stored beside
them. -/
def LodeEntry.digest (e : LodeEntry) : BitVec 256 := Config.sha256 (bytesOfWords e.code ++ e.side ++ e.counters.flatMap Counters.bytes)

/-! ## Entries -/

/-- The entry is a translation of a kernel for a kind. -/
def LodeEntry.isFor (e : LodeEntry) (k : Kernel) (kind : CoreKind) (dbg : Bool) : Bool :=
  e.pinned == (k.pinned kind).isSome && e.key == lodeKey k kind dbg e.pinned e.gen

/-- The entry serves admissions: it is not marked defective, or keeps its defect (R476). -/
def LodeEntry.usable (e : LodeEntry) : Bool := !e.defective || e.pinned || e.gen == 15

/-- The entry that serves an admission: that of the latest generation (R335), and none once that is marked defective (R476). -/
def State.serving (s : State) (k : Kernel) (kind : CoreKind) (dbg : Bool) : Option LodeEntry :=
  ((s.hub.lode.filter (fun (e : LodeEntry) => e.isFor k kind dbg)).foldl (fun (a : Option LodeEntry) e =>
    match a with
    | none => some e
    | some b => if b.gen < e.gen then some e else some b) none).filter LodeEntry.usable

def State.lodeHas (s : State) (k : Kernel) (kind : CoreKind) (dbg : Bool) : Bool := (s.serving k kind dbg).isSome

/-- A task holds the entry until it completes (R329). -/
def Task.holds (k : Task) (key : BitVec 256) : Bool := k.held.any (fun x => x.2 == key)
def State.lodeHeld (s : State) (e : LodeEntry) : Bool := s.hub.tasks.any (fun (k : Task) => k.holds e.key)

/-- Entries the lode holds, 1 MiB for each copy [22, DESIGN CHOICE]. -/
def lodeSize : Nat := 4096

/-- The entry that a full lode gives up: the unheld one that has gone longest without a launch (R331) [104, DESIGN CHOICE]. -/
def State.lodeOldest (s : State) : Option LodeEntry :=
  (s.hub.lode.filter (fun (x : LodeEntry) => !s.lodeHeld x)).foldl (fun (a : Option LodeEntry) x => match a with
    | none => some x
    | some b => if x.lastLaunch < b.lastLaunch then some x else some b) none

/-- The lode can take an entry. -/
def State.lodeRoom (s : State) : Bool := decide (s.hub.lode.length < lodeSize) || s.lodeOldest.isSome

/-- The granules of one of the two copies of a slot: the lode is the top 4 GiB of stacks 0 and 3, of different dies (R477)
[22, DESIGN CHOICE]. -/
def State.inCopy (s : State) (slot stack g : Nat) : Bool :=
  let base := (Place.hbm s.hub.config.package stack (44 * 2 ^ 30 + slot * 2 ^ 20)).flat / 8
  decide (base ≤ g) && decide (g < base + 2 ^ 17)

/-- A copy has lost bytes, so that its digest fails. -/
def State.copyBad (s : State) (slot stack : Nat) : Bool := s.poison.any (s.inCopy slot stack)

/-- A copy is written anew. -/
def State.rewriteCopy (s : State) (slot stack : Nat) : State :=
  if s.copyBad slot stack then { s with poison := s.poison.filter (fun g => !s.inCopy slot stack g) } else s

/-- Add an entry, in the lowest free slot; nothing is added where every entry is held. -/
def State.lodeAdd (s : State) (e : LodeEntry) : State :=
  let l := s.hub.lode
  let l1 := if l.length < lodeSize then l else match s.lodeOldest with
    | some x => l.erase x
    | none => l
  match (List.range lodeSize).find? (fun n => !l1.any (fun (x : LodeEntry) => x.slot == n)) with
  | some n =>
    let s1 : State := { s with hub := { s.hub with lode := l1 ++ [{ e with slot := n, lastLaunch := s.ptp }] } }
    (s1.rewriteCopy n 0).rewriteCopy n 3
  | none => s

/-- The generation the next translation of a kernel gets: one more after a defect or a hot translation (R335, R476) [70, DESIGN CHOICE]. -/
def State.nextGen (s : State) (k : Kernel) (kind : CoreKind) (dbg : Bool) : Nat :=
  (s.hub.lode.filter (fun (e : LodeEntry) => e.isFor k kind dbg)).foldl (fun n (e : LodeEntry) => Nat.max n (Nat.min 15 (e.gen + 1))) 0

/-- A side-table section made by Tiarlo names a translation spill area of a legal size (R319). -/
def legalSide (side : List Byte) : List Byte :=
  let x := side ++ List.replicate (16 - side.length) 0
  x.take 12 ++ toBytesLE 4 (sideSpill x % 513 * 128) ++ x.drop 16

/-- An entry with counters 0. -/
def freshEntry (key : BitVec 256) (pinned : Bool) (gen : Nat) (code : List Word) (side : List Byte) : LodeEntry :=
  { key := key, slot := 0, pinned := pinned, gen := gen, code := code, side := side, counters := List.replicate (recordCount side) Counters.zero
    defective := false, lastLaunch := 0 }

/-- The translation of a kernel that an admission asks for: its pinned section, or what Tiarlo makes. -/
def State.newEntry (s : State) (k : Kernel) (kind : CoreKind) (dbg : Bool) : LodeEntry :=
  match k.pinned kind with
  | some c => freshEntry (lodeKey k kind dbg true 0) true 0 c.code c.side
  | none =>
    let gen := s.nextGen k kind dbg
    let key := lodeKey k kind dbg false gen
    freshEntry key false gen (Config.tiarloCode key s.free) (legalSide (Config.tiarloSide key s.free))

/-- The translation of a codeload region by a team. -/
def State.regionEntry (s : State) (t : Team) (code : List Word) : LodeEntry :=
  let key := regionKey t.kern t.core.kind t.dbg code ((s.heldKey t).getD 0)
  freshEntry key false 0 (Config.tiarloCode key s.free) (legalSide (Config.tiarloSide key s.free))

def State.dropAsk (s : State) (key : BitVec 256) : State :=
  { s with hub := { s.hub with asks := s.hub.asks.filter (fun (b : PeerAsk) => b.want.key != key) } }

/-- A question for a key is out, and the time for replies is not over. -/
def State.asking (s : State) (key : BitVec 256) : Bool := s.hub.asks.any (fun (a : PeerAsk) => a.want.key == key && !a.late)

/-- Change the hub. -/
def State.onHub (s : State) (f : Hub → Hub) : State := { s with hub := f s.hub }

/-- The next free value. -/
def State.nextFree (s : State) : State := { s with free := s.free + 1 }

/-- The lode comes to hold an entry that it lacks: the other packages are asked for its key first, and Tiarlo makes it when no reply
came in time (R332). -/
def State.obtain (s : State) (e : LodeEntry) : State :=
  if s.hub.lode.any (fun (x : LodeEntry) => x.key == e.key) then s
  else match s.hub.asks.find? (fun (a : PeerAsk) => a.want.key == e.key) with
    | some a => if a.late then ((s.dropAsk e.key).lodeAdd e).nextFree else s
    | none =>
      if s.hub.config.packages ≤ 1 then (s.lodeAdd e).nextFree
      else { s with hub := { s.hub with asks := s.hub.asks ++ [{ want := e, since := s.ptp, late := false }] } }

/-! ## Counters (R334) -/

/-- Count what ended at a record of the entry of a key. -/
def State.countAt (s : State) (key : BitVec 256) (n : Nat) (c : Counters) : State :=
  { s with hub := { s.hub with lode := s.hub.lode.map (fun (e : LodeEntry) =>
      if e.key = key then (match e.counters[n]? with
        | some old => { e with counters := e.counters.set n (old.plus c) }
        | none => e) else e) } }

end Sys2Proof.Machine
end

