-- ==== Sys2Proof/Machine/Engines.lean ====
section
/-! DEFINITION. The engines' own events: face units (R87), wakes (R60), pages (R81, R463 to R465), ECC errors (R471), retirement
(R52, R351), watchdogs (R437, R479, R482), the dispatchers (R355 to R366) and moves they ask for (R339). -/

namespace Sys2Proof.Machine

/-- An event that its condition enables; one that it does not has no effect [6, DESIGN CHOICE]. -/
def when (s : State) (p : Bool) (t : State) : Result := .next (if p then t else s)

/-! ## Face units (R87, R196 to R203) -/

/-- A request can be performed: its package answers (R483, R485). -/
def State.faceReady (s : State) (q : FaceReq) : Bool :=
  match s.route (q.unit / 256) 0 with
  | none => true
  | some _ => false

/-- The request a face unit takes: those of DEADLINE teams first, oldest first, and none of another class while a DEADLINE team's reduction
waits (R87, R367). -/
def State.pickFace (s : State) (unit : Nat) : Option FaceReq :=
  let mine := s.faceReqs.filter (fun q => q.unit == unit && s.faceReady q)
  (mine.find? (fun q => ((s.team? q.rid).map (fun t => s.isDeadline t.task)).getD false)).orElse (fun _ =>
    if s.deadlineAt unit then none else mine.head?)

/-- The request has been taken. -/
def State.dropFace (s : State) (q : FaceReq) : State := { s with faceReqs := s.faceReqs.erase q }

/-- Change the n-th element. -/
def updNth {α : Type} (n : Nat) (f : α → α) (l : List α) : List α :=
  match n, l with
  | _, [] => []
  | 0, x :: r => f x :: r
  | n + 1, x :: r => x :: updNth n f r

/-- Perform a request's operations in lane order at the home bytes, each on the word as the one before left it; the result,
the flags and the ready stamp go to the context, and an acquire is made when its last request is done (R193, R200, R305). The
result of a request that was under way at its team's checkpoint belongs to what a rollback restores (R474). -/
def State.facePerform (s : State) (q : FaceReq) : State :=
  match s.team? q.rid with
  | none => s.dropFace q
  | some t =>
    let n := tyBytes q.ty
    let r := q.parts.foldl (fun (r : State × List (Nat × Word) × Flags) (p : Nat × Nat × FaceOp) =>
      let s1 := r.1.dropLine t.core t.asid (p.2.1 / 128)
      let old : Word := BitVec.ofNat 64 (s1.vaLE t.asid p.2.1 n)
      let x := p.2.2.apply q.ty old
      let s2 := match x.1 with | some w => s1.putVa t.asid p.2.1 (toBytesLE n w.toNat) | none => s1
      (s2, r.2.1 ++ [(p.1, old)], Flags.join r.2.2 x.2)) (s.dropFace q, [], 0)
    let lanes := maskOf (fun l => q.parts.any (fun p => p.1 == l))
    let give (g : Gang) : Gang :=
      let g1 := g.putLate t.core.kind q.split q.d q.locs q.ty lanes q.uniform (q.parts.any (fun p => p.2.2 != .read)) (laneVal r.2.1)
      { g1 with flg := g1.flg ||| r.2.2 }
    let s1 := r.1.updTeam q.rid (fun t => { t.updGang q.gang give with
      chk := if q.epoch < t.epoch then t.chk.map (fun c => { c with gangs := updNth q.gang give c.gangs }) else t.chk })
    let more := s1.faceReqs.any (fun x => x.rid == q.rid && x.gang == q.gang && x.split == q.split)
    (if q.acq && !more then s1.invalidateAsid t.core t.asid else s1).settleEntries

/-- FACE_UNIT_OPERATION: a face unit performs its next request. -/
def execFaceUnitOperation (unit : Nat) (s : State) : Result :=
  match s.pickFace unit with
  | some q => .next (s.facePerform q)
  | none => .next s

/-! ## Wakes (R60, R188, R189, R204) -/

/-- NSLEEP_WAKE: the time has passed (R188). -/
def execNsleepWake (rid gang split : Nat) (s : State) : Result :=
  match s.split? rid gang split with
  | some sp =>
    (match sp.wait with
     | .asleep time => when s (decide (time ≤ s.ptp)) (s.updSplit rid gang split (fun sp => sp.wake s.now))
     | _ => .next s)
  | none => .next s

/-- The watched word satisfies the comparison of a parked waita. -/
def State.waitHolds (s : State) (t : Team) (spc addr ty cmp : Nat) (v : Word) : Bool :=
  let n := tyBytes ty
  let x := if spc = 3 then s.vaLE t.asid addr n else t.scratch.readLE addr n
  cmpInt cmp (tyVal ty (BitVec.ofNat 64 x)) (tyVal ty v)

/-- WAITA_WAKE: a write has made the condition hold, and the waita is executed again (R189). -/
def execWaitaWake (rid gang split : Nat) (s : State) : Result :=
  match s.team? rid, s.split? rid gang split with
  | some t, some sp =>
    (match sp.wait with
     | .word spc addr ty cmp v => when s (s.waitHolds t spc addr ty cmp v) (s.updSplit rid gang split (fun sp => sp.wake s.now))
     | _ => .next s)
  | _, _ => .next s

/-- L1_EVICTION: a line is written back and leaves its L1 (R261) [37, DESIGN CHOICE]. -/
def execL1Eviction (core : CoreId) (asid line : Nat) (s : State) : Result :=
  when s ((s.coreOf core).l1.any (fun l => l.is asid line)) (s.dropLine core asid line)

/-! ## Page frames (R80, R81, R388) -/

/-- Bytes of die memory for page frames on each die: all but the spill pool (R74). -/
def State.dieRoom (s : State) : Nat := 805306368 - s.hub.config.spillPool
/-- Bytes of a stack for page frames (R331) [22, DESIGN CHOICE]. -/
def hbmRoom (stack : Nat) : Nat := if stack = 0 ∨ stack = 3 then lodeFloor else 48 * 2 ^ 30

/-- Ranges of frames in use on a die or stack: start and length. -/
def State.framesUsed (s : State) (p : Page → Option Nat) : List (Nat × Nat) :=
  s.pages.filterMap (fun q => (p q).map (fun f => (f, q.size)))

/-- A choice or a reading of the model: [22, DESIGN CHOICE]. -/
def State.freeDie (s : State) (pkg die n : Nat) : Option Nat :=
  firstFree (s.framesUsed (fun q => match q.place with
    | .die p d f => if p = pkg ∧ d = die then some f else none
    | _ => none)) n s.dieRoom
/-- A choice or a reading of the model: [22, DESIGN CHOICE]. -/
def State.freeHbm (s : State) (pkg stack n : Nat) : Option Nat :=
  firstFree (s.framesUsed (fun q => match q.place with
    | .hbm p k f => if p = pkg ∧ k = stack then some f else none
    | _ => none)) n (hbmRoom stack)

/-- Readiness of a unit of a package: this one's by READY, another one's as its links stand (R400, R509). -/
def State.dieReady (s : State) (pkg die : Nat) : Bool :=
  if pkg = s.hub.config.package then s.hub.ready.getLsbD (4 + die) else s.hub.reaches pkg
def State.stackReady (s : State) (pkg stack : Nat) : Bool :=
  if pkg = s.hub.config.package then s.hub.ready.getLsbD (8 + stack) else s.hub.reaches pkg

/-- A die-memory place for n bytes on the first ready die that has room. -/
def State.placeDie (s : State) (pkg n : Nat) : Option Place :=
  [0, 1, 2, 3].findSome? (fun d => if s.dieReady pkg d then (s.freeDie pkg d n).map (fun f => Place.die pkg d f) else none)
def State.placeHbm (s : State) (pkg n : Nat) : Option Place :=
  (List.range 12).findSome? (fun k => if s.stackReady pkg k then (s.freeHbm pkg k n).map (fun f => Place.hbm pkg k f) else none)

/-- The bytes of a range, at another address; the range and the target's old bytes are 0 after it. -/
def Memory.moveRange (m : Memory) (src dst n : Nat) : Memory :=
  let inside (a x : Nat) : Bool := decide (a ≤ x) && decide (x < a + n)
  let rest := m.filter (fun c => !inside src c.1 && !inside dst c.1)
  (m.filter (fun c => inside src c.1)).foldl (fun m c => m.write (dst + (c.1 - src)) c.2) rest

/-- Bytes of a range become 0. -/
def Memory.clearRange (m : Memory) (a n : Nat) : Memory := m.filter (fun c => !(decide (a ≤ c.1) && decide (c.1 < a + n)))

def samePage (asid vbase : Nat) (p : Page) : Bool := p.asid == asid && p.vbase == vbase

/-- Move a page's bytes and poison to another place (R81, R471). -/
def State.movePage (s : State) (p : Page) (dest : Place) : State :=
  let src := p.place.flat
  let dst := dest.flat
  let inside (a g : Nat) : Bool := decide (a / 8 ≤ g) && decide (g < (a + p.size) / 8)
  { s with mem := s.mem.moveRange src dst p.size
           poison := (s.poison.filter (fun g => !inside dst g)).map (fun g => if inside src g then dst / 8 + (g - src / 8) else g)
           pages := updFirst (samePage p.asid p.vbase) (fun (q : Page) => { q with place := dest, parked := none }) s.pages }

/-- A face request still has to reach the page. -/
def State.pageBusy (s : State) (p : Page) : Bool :=
  s.faceReqs.any (fun q => ((s.team? q.rid).map (fun t => t.asid == p.asid)).getD false
    && q.parts.any (fun x => decide (p.vbase ≤ x.2.1) && decide (x.2.1 < p.vbase + p.size)))

/-- PAGE_MOVE_TO_HBM: firmware moves a page out of die memory (R81). -/
def execPageMoveToHbm (asid vbase stack : Nat) (s : State) : Result :=
  match s.pages.find? (samePage asid vbase) with
  | some p =>
    (match p.place with
     | .die pkg _ _ =>
       (match s.freeHbm pkg stack p.size with
        | some f => when s (decide (stack < 12) && s.stackReady pkg stack && !p.pinned && p.parked.isNone && !s.pageBusy p) (s.movePage p (.hbm pkg stack f))
        | none => .next s)
     | _ => .next s)
  | none => .next s

/-- A split parked on this page. -/
def parkedOn (asid vbase : Nat) (w : Wait) : Bool := match w with | .page a v _ _ => a == asid && v == vbase | _ => false

/-- Wake every gang parked on a page; held handler entries go on. -/
def State.wakePage (s : State) (asid vbase : Nat) : State :=
  State.settleEntries { s with teams := s.teams.map (fun t => t.wakeIf s.now (parkedOn asid vbase)) }

/-- The package answers: not in recovery (R465, R483). -/
def State.pkgAnswers (s : State) (pkg : Nat) : Bool :=
  match Tab.get PeerState.normal s.hub.peers pkg with
  | .recovering _ | .silent _ => false
  | _ => true

/-- PAGE_MIGRATION_COMPLETE: a page with parked accesses arrives in die memory (R464) [5, DESIGN CHOICE]. -/
def execPageMigrationComplete (asid vbase : Nat) (s : State) : Result :=
  match s.pages.find? (samePage asid vbase) with
  | some p =>
    (match p.place, p.parked, s.placeDie p.place.pkg p.size with
     | .hbm pkg _ _, some _, some dest => when s (s.pkgAnswers pkg) ((s.movePage p dest).wakePage asid vbase)
     | _, _, _ => .next s)
  | none => .next s

/-- The gang's handler entry waits for a page of its frame (R427). -/
def Gang.enteringOn (g : Gang) (asid vbase size gang : Nat) (t : Team) : Bool :=
  let frame := g.tframe + 16384 * gang
  g.entering.isSome && t.asid == asid && decide (vbase ≤ frame) && decide (frame < vbase + size)

/-- The first gang of a team that is parked on a page: its number, the split whose access parked it, the address, and whether its handler entry
waits for the page. -/
def Team.parkedGang (t : Team) (p : Page) : Option (Nat × Nat × Nat × Bool) :=
  (t.gangs.zip (List.range t.gangs.length)).findSome? (fun x =>
    match x.1.entering with
    | some (_, fa) => if x.1.enteringOn p.asid p.vbase p.size x.2 t then some (x.2, fa.split, x.1.tframe + 16384 * x.2, true) else none
    | none => x.1.splits.findSome? (fun sp =>
        match sp.wait with
        | .page a v k addr => if sp.used && a == p.asid && v == p.vbase then some (x.2, k, addr, false) else none
        | _ => none))

/-- Terminate every team with a gang parked on a page, naming the gang and its faulting split; a gang whose frame cannot be
migrated ends its team with 964 (R423, R427, R465, R466) [78, DEDUCED]. -/
def State.failPage (s : State) (p : Page) (cause : Nat) : State :=
  s.teams.foldl (fun s (t : Team) =>
    match t.status, t.parkedGang p with
    | .ending _ _ _ _ _ _, _ => s
    | _, none => s
    | _, some (g, k, addr, entering) =>
      let jvpc := ((t.gangs[g]?).bind (fun x => x.splits[k]?.map t.rjvpc)).getD (2 ^ 64 - 1)
      s.terminateAt t.rid (if entering && cause == 197 then 964 else cause) 0 g jvpc addr) s

/-- MIGRATION_TIMEOUT: no frame has become free within 10 ms of the first parking (R465). -/
def execMigrationTimeout (asid vbase : Nat) (s : State) : Result :=
  match s.pages.find? (samePage asid vbase) with
  | some p =>
    (match p.place, p.parked with
     | .hbm pkg _ _, some t0 =>
       let s1 := s.failPage p 197
       let s2 : State := { s1 with pages := updFirst (samePage asid vbase) (fun (q : Page) => { q with parked := none }) s1.pages }
       when s (decide (t0 + 10000000 ≤ s.ptp) && (s.placeDie pkg p.size).isNone && s.pkgAnswers pkg) s2
     | _, _ => .next s)
  | none => .next s

/-! ## A fault in a move's state transfer (R444) -/

/-- The team stands on its source kind again, saved at its equivalence points, and waits for a core of that kind; its tokens have gone on
(R206, R444) [71, DEDUCED]. -/
def Team.backToSource (t : Team) (x : MoveSource) : Team :=
  { t with core := x.core, transSpill := x.trans, chk := x.chk, status := .suspended false, source := none
           gangs := (x.gangs.zip t.gangs).map (fun (y : Gang × Gang) => { y.1 with tokens := y.2.tokens }) }

/-- An uncorrectable error in the registers of a team that moves: the transfer has failed with 772, and the team goes back to its source,
unless an error has destroyed that too (R444) [71, DEDUCED]. -/
def State.transferFault (s : State) (t : Team) (x : MoveSource) : State :=
  if x.gangs.any (fun g => !g.regPoison.isEmpty) then s.terminate t.rid 261 0 0 (2 ^ 64 - 1)
  else (((s.log { cause := 772, task := t.task, team := t.index }).deselect t).releaseHeld t).updTeam t.rid (fun u => u.backToSource x)

/-! ## ECC errors (R471) -/

/-- The source code of a site (R462) and the team and gang it belongs to [51, DESIGN CHOICE]. -/
def State.siteRecord (s : State) (site : EccSite) (cause : Nat) : LogEntry :=
  let team (rid gang src : Nat) : LogEntry :=
    match s.team? rid with
    | some t => { cause := cause, source := src, task := t.task, team := t.index, gang := gang }
    | none => { cause := cause, source := src }
  match site with
  | .mem g => { cause := cause, source := if 2 ^ 44 ≤ 8 * g ∧ 8 * g < 2 ^ 60 then 260 else 0 }
  | .scratch rid _ => team rid 0 258
  | .spill rid gang _ => team rid gang 0
  | .line _ _ vline _ => { cause := cause, source := 259, addr := vline * 128 }
  | .regs rid gang _ _ => team rid gang 261
  | .tile rid _ => team rid 0 261
  | .preload _ | .pipe _ _ | .sums _ _ _ _ _ | .sig _ _ _ _ => { cause := cause, source := 261 }

/-- The unit of a site, for the limit of one record per unit per second: slices, stacks, cores, by number [51, DESIGN CHOICE]. -/
def State.siteUnit (s : State) (site : EccSite) : Nat :=
  let coreKey (c : CoreId) : Nat := (if c.kind = .dcore then 0x20000 else 0x30000) + c.num
  let team (rid : Nat) : Nat := ((s.team? rid).map (fun t => coreKey t.core)).getD 0x40000
  match site with
  | .mem g => if 8 * g < 2 ^ 44 then 0x10000 + 8 * g / 2 ^ 32 * 256 + faceUnitOf (8 * g) else 0x50000 + (8 * g - 2 ^ 44) / 2 ^ 36
  | .scratch rid _ | .spill rid _ _ | .regs rid _ _ _ | .tile rid _ | .sums rid _ _ _ _ | .sig rid _ _ _ => team rid
  | .line c _ _ _ | .preload c | .pipe c _ => coreKey c

/-- Lanes of a register that a granule holds: two of 32 bits or fewer, one of 64, all of a register of one value; none where the register holds no
such granule (R471) [54, DEDUCED]. -/
def Team.granuleLanes (t : Team) (reg granule : Nat) : Mask :=
  let two : Mask := if granule < 16 then (3#32 <<< (2 * granule)) else 0
  let whole : Mask := if granule = 0 then BitVec.allOnes 32 else 0
  if 1024 ≤ reg then
    match declAt t.kern.decls (reg - 1024) 0 with
    | some (.lane w, _) => if w = 64 then (if granule < 32 then 1#32 <<< granule else 0) else two
    | some (.uni _, _) | some (.pred, _) => whole
    | _ => 0
  else if reg < 128 then two
  else if reg < 208 then whole
  else 0

/-- Poison a site [106, DEDUCED]. -/
def State.poisonSite (s : State) (site : EccSite) : State :=
  match site with
  | .mem g => { s with poison := addPoison s.poison [g] }
  | .scratch rid g => s.updTeam rid (fun t => { t with scratchPoison := addPoison t.scratchPoison [g] })
  | .spill rid gang g => s.updTeam rid (fun t => t.updGang gang (fun x => { x with spillPoison := addPoison x.spillPoison [g] }))
  | .line c asid vline granule =>
    let core := s.coreOf c
    let mark (x : L1Line) : L1Line := { x with poison := addPoison x.poison [granule % 16], sick := x.sick || !x.dirty.isEmpty }
    if core.l1.any (fun x => x.is asid vline) then s.setCore { core with l1 := updFirst (fun x => x.is asid vline) mark core.l1 } else s
  | .regs rid gang reg granule => s.updTeam rid (fun t => t.updGang gang (fun g =>
      { g with regPoison := Tab.set 0#32 g.regPoison reg (Tab.get 0#32 g.regPoison reg ||| t.granuleLanes reg granule) }))
  | .sig rid gang split x => s.updSplit rid gang split (fun sp => { sp with sig := sp.sig ^^^ x, sigOff := sp.sigOff || x != 0 })
  | .tile rid k => s.updTeam rid (fun t =>
      match t.tiles[k]? with
      | some x => { t with tiles := t.tiles.set k { x with poison := true } }
      | none => t)
  | .preload c => s.setCore { s.coreOf c with preload := none }
  | .pipe c x => s.setCore { s.coreOf c with pipe := (s.coreOf c).pipe ++ [x] }
  | .sums rid k line col delta => s.updTeam rid (fun t =>
      match t.tiles[k]? with
      | some x => { t with tiles := t.tiles.set k (x.offSum line col delta) }
      | none => t)

/-- A site that no ECC covers: an error there is silent, and only the tile assay or a signature check finds it. -/
def siteSilent (site : EccSite) : Bool :=
  match site with
  | .pipe _ _ | .sums _ _ _ _ _ | .sig _ _ _ _ => true
  | _ => false

/-- ECC_ERROR: a corrected error is logged, an uncorrectable one poisons its granule. -/
def execEccError (site : EccSite) (corrected : Bool) (s : State) : Result :=
  if corrected then .next (if siteSilent site then s else s.logLimited (0x1000000 + s.siteUnit site) 1000000000 (s.siteRecord site 262))
  else
    match site with
    | .regs rid _ _ _ =>
      (match (s.team? rid).map (fun t => (t, t.source)) with
       | some (t, some x) => .next (s.transferFault t x)
       | _ => .next (s.poisonSite site))
    | _ => .next (s.poisonSite site)

/-! ## Completion of tasks (R351, R534) and retirement (R52, R423) -/

/-- A page that the command processor or the host waits for is asked for as by a parked access (R464, R513). -/
def State.wantPage (s : State) (p : Page) : State :=
  { s with pages := updFirst (samePage p.asid p.vbase) (fun (q : Page) => { q with parked := some (q.parked.getD s.ptp) }) s.pages }

/-- A page in HBM that the package itself reaches is migrated first; none where no frame is free or the package does not answer
(R81, R385, R534) [38, DEDUCED]. -/
def State.bring (s : State) (asid va : Nat) : Option State :=
  match s.page? asid va with
  | some p =>
    (match p.place with
     | .hbm pkg _ _ =>
       if s.pkgAnswers pkg then (s.placeDie pkg p.size).map (fun dest => (s.movePage p dest).wakePage p.asid p.vbase) else none
     | _ => some s)
  | none => some s

/-- The queue's vector is raised. -/
def State.queueIrq (s : State) (queue : Nat) : State :=
  match s.hub.queues.find? (fun (q : Queue) => q.num == queue) with
  | some q => s.raiseVector q.vector
  | none => s

/-- A write that cannot be made is dropped, with a record at most once a millisecond (R534). -/
def State.dropCpWrite (s : State) (w : CpWrite) : State :=
  let last := (s.hub.queues.find? (fun (q : Queue) => q.num == w.queue)).bind (fun q => q.lastDrop)
  if (last.map (fun t0 => decide (s.ptp < t0 + 1000000))).getD false then s
  else
    let s1 := s.log { cause := 0, reason := 24, addr := w.va }
    { s1 with hub := { s1.hub with queues := s1.hub.queues.map (fun (q : Queue) => if q.num = w.queue then { q with lastDrop := some s.ptp } else q) } }

/-- A write of the command processor is over: the vector that was asked for is raised (R351, R534). -/
def State.endCpWrite (s : State) (w : CpWrite) : State := if w.irq then s.queueIrq w.queue else s

/-- A write of the command processor waits. -/
def State.holdCpWrite (s : State) (w : CpWrite) : State := { s with hub := { s.hub with cpHeld := s.hub.cpHeld ++ [w] } }

/-- A write of the command processor, in the order of its queue's writes (R342, R348, R351, R352); one that cannot be made is dropped, and so is one
whose page has not come into die memory within the 10 ms after which a migration fails; until then it waits (R465, R534) [38, DEDUCED]. -/
def State.cpWriteFrom (s : State) (w : CpWrite) : State :=
  let ok : Option Page := (s.page? w.asid w.va).bind (fun p =>
    if p.readOnly || s.roRange w.asid w.va then none
    else match p.place with
      | .host _ => some p
      | _ => (match s.route p.place.pkg w.va with | some (.raise _) => none | _ => some p))
  if s.hub.cpHeld.any (fun x => x.queue == w.queue) then s.holdCpWrite { w with since := s.ptp }
  else match ok with
  | some p =>
    (match s.bring w.asid w.va with
     | some s1 => (s1.putVa w.asid w.va w.bytes).endCpWrite w
     | none =>
       if decide (w.since + 10000000 ≤ s.ptp) && s.pkgAnswers p.place.pkg then (s.dropCpWrite w).endCpWrite w
       else (s.wantPage p).holdCpWrite w)
  | none => (s.dropCpWrite w).endCpWrite w

/-- A write of the command processor, now [38, DEDUCED]. -/
def State.cpWrite (s : State) (queue asid va : Nat) (bs : List Byte) (irq signal : Bool) : State :=
  s.cpWriteFrom { queue := queue, asid := asid, va := va, bytes := bs, since := s.ptp, irq := irq, signal := signal }

/-- The writes of the command processor that wait are tried again, in order. -/
def State.cpRetry (s : State) : State := s.hub.cpHeld.foldl State.cpWriteFrom { s with hub := { s.hub with cpHeld := [] } }

/-- Every core's L1 writes back an ASID: the release of R273 when a task completes. -/
def State.writeBackEverywhere (s : State) (asid : Nat) : State :=
  s.cores.foldl (fun s (c : CoreSt) => s.writeBackAsid c.id asid) s

/-- The argument block's page of a task (R69): taken when the task is admitted, given back when it completes [14, DESIGN CHOICE]. -/
def argBase (task : Nat) : Nat := 0xFF000000000000 + task * 65536

/-- A task completes when all of its teams have retired or been terminated (R351) [14, DESIGN CHOICE]. -/
def State.completeTask (s : State) (k : Task) (value : Word) : State :=
  let s1 := s.writeBackEverywhere k.asid
  let s3 := if k.cadr = 0 then (if k.irq then s1.queueIrq k.queue else s1)
    else s1.cpWrite k.queue k.asid k.cadr (toBytesLE 8 value.toNat) k.irq false
  let args := s3.pages.filter (fun p => samePage k.asid (argBase k.id) p)
  State.dropPreloads (fun p => p.task == k.id)
    { s3 with
      mem := args.foldl (fun (m : Memory) p => m.clearRange p.place.flat p.size) s3.mem
      pages := s3.pages.filter (fun p => !samePage k.asid (argBase k.id) p)
      hub := { s3.hub with tasks := s3.hub.tasks.filter (fun (q : Task) => q.id != k.id)
                           overran := s3.hub.overran.filter (fun x => x.1 != k.id) } }

/-- The team is done: every gang has exited, or it was terminated, and its jobs and its operations at face units are complete (R52,
R273, R423). -/
def State.retirable (s : State) (t : Team) : Bool :=
  let gone := match t.status with
    | .ending _ _ _ _ _ _ => true
    | _ => t.gangs.all (fun g => g.exited)
  gone && !(s.jobs.any (fun j => j.rid == t.rid && j.gen == t.gen)) && !(s.faceReqs.any (fun q => q.rid == t.rid)) && !t.moving

/-- A team's resources, RID and lines are given back; a terminated team's event is written, and its task may complete. -/
def State.retireTeam (s : State) (t : Team) : State :=
  let s1 := (s.deselect t).writeBackAsid t.core t.asid
  let s2 : State := { s1 with
    teams := s1.teams.filter (fun u => u.rid != t.rid)
    faceReqs := s1.faceReqs.filter (fun q => q.rid != t.rid), lostReqs := s1.lostReqs.filter (fun q => q.rid != t.rid)
    hub := { s1.hub with ridGen := Tab.set 0 s1.hub.ridGen t.rid ((t.gen + 1) % 4096), ridFree := s1.hub.ridFree ++ [t.rid]
                         tasks := s1.hub.tasks.map (fun (q : Task) => if q.id = t.task then { q with retired := q.retired + 1 } else q) } }
  let s3 := match t.status with
    | .ending cause masked gang jvpc _ _ => s2.event 5 0 gang t.task t.index (mkWord jvpc) (mkWord (cause + (if cause = 961 then masked * 2 ^ 16 else 0)))
    | _ => s2
  match s3.hub.tasks.find? (fun (q : Task) => q.id == t.task) with
  | some q => if q.retired = (if q.ended then q.started.length else q.count) then s3.completeTask q q.cval else s3
  | none => s3

/-- TEAM_RETIRE -/
def execTeamRetire (rid : Nat) (s : State) : Result :=
  match s.team? rid with
  | some t => when s (s.retirable t) (s.retireTeam t)
  | none => .next s

/-! ## Reading the lode (R477) -/

/-- Every team of a task ends with 773, and none of its other teams starts [70, DESIGN CHOICE]. -/
def State.endTask (s : State) (k : Task) : State :=
  let s1 : State := { s with hub := { s.hub with tasks := s.hub.tasks.map (fun (q : Task) => if q.id = k.id then { q with ended := true } else q) } }
  let mine := s1.teams.filter (fun t => t.task == k.id)
  let s2 := mine.foldl (fun s (t : Team) => s.terminate t.rid 773 0 0 (2 ^ 64 - 1)) s1
  if mine.isEmpty then s2.completeTask k k.cval else s2

/-- A read of an entry checks the digests of its copies: a bad copy is rewritten from the other one, two bad copies discard the entry and end
the tasks that hold it. -/
def State.readEntry (s : State) (e : LodeEntry) : State :=
  match s.copyBad e.slot 0, s.copyBad e.slot 3 with
  | false, false => s
  | true, false => (s.log { cause := 773 }).rewriteCopy e.slot 0
  | false, true => (s.log { cause := 773 }).rewriteCopy e.slot 3
  | true, true =>
    let s1 := s.log { cause := 773 }
    let s2 : State := { s1 with hub := { s1.hub with lode := s1.hub.lode.filter (fun x => x != e) } }
    (s1.hub.tasks.filter (fun (k : Task) => k.holds e.key)).foldl State.endTask s2

/-- Read the entry of a key. -/
def State.readKey (s : State) (key : BitVec 256) : State :=
  match s.hub.lode.find? (fun (e : LodeEntry) => e.key == key) with
  | some e => s.readEntry e
  | none => s

/-- Read the translation of a task for a kind. -/
def State.readHeld (s : State) (k : Task) (kind : CoreKind) : State :=
  match k.held.find? (fun x => x.1 == kind) with
  | some x => s.readKey x.2
  | none => s

/-- CODELOAD_DONE: the region's translation is taken from the lode, which first comes to hold it; the region becomes part of the kernel for the
team, and d reads 0 (R204, R205, R332). -/
def execCodeloadDone (rid gang split : Nat) (s : State) : Result :=
  match s.team? rid, s.split? rid gang split with
  | some t0, some sp =>
    (match sp.wait with
     | .codeload d locs addr code =>
       let e := s.regionEntry t0 code
       let s0 := s.readKey e.key
       let s1 := s0.obtain e
       if s1.asking e.key || (s0.team? rid).map (fun t => t.status) != some t0.status then .next s1
       else .next (s1.updTeam rid (fun t =>
         let t1 : Team := { t with regions := t.regions ++ [{ serial := t.nextRegion, key := e.key, base := addr, code := code }], nextRegion := t.nextRegion + 1 }
         t1.updGang gang (fun g => (g.putLate t.core.kind split d locs 5 sp.mask true true (fun _ => 0)).updSplit split (fun q => q.wake s.now))))
     | _ => .next s)
  | _, _ => .next s

/-- The task is still there and not terminated. -/
def State.alive (s : State) (k : Task) : Bool := s.hub.tasks.any (fun (q : Task) => q.id == k.id && !q.ended)

/-! ## Watchdogs and budgets (R437, R479, R482) -/

/-- A handler has been masked for 2,048 D-clocks, or 4,096 L-clocks, which take as long; the clocks before a clock step count as they
were (R30, R437). -/
def State.maskExpired (s : State) (g : Gang) : Bool :=
  match g.handler with
  | some h => decide (2048 * 1000 ≤ s.dclocks - h.start)
  | none => false

def execMaskWatchdogExpiry (rid gang : Nat) (s : State) : Result :=
  match (s.team? rid).bind (fun t => (t.gangs[gang]?).map (fun g => (t, g))) with
  | some (t, g) =>
    let k := (g.handler.map (fun h => h.split)).getD 0
    when s (s.maskExpired g) (s.terminate rid 960 0 gang ((g.splits[k]?.map t.rjvpc).getD 0))
  | none => .next s

/-- The packages that n bytes of a side lie on. -/
def State.rangePkgs (s : State) (x : Side) (n : Nat) : List Nat :=
  if n = 0 then []
  else match x with
    | .va asid a => s.pages.filterMap (fun p =>
        if p.asid == asid && decide (p.vbase < a + n) && decide (a < p.vbase + p.size) then
          (match p.place with | .host _ => none | pl => some pl.pkg)
        else none)
    | .handle h _ => [hPkg h]

/-- The packages on which the elements of a tensor job and the scales of their blocks lie. -/
def State.tensPkgs (s : State) (j : Job) (m : TMap) (store : Bool) (origin : List Int) (rows : Option (List Nat)) : List Nat :=
  let one (f : Nat) (q : Side × Nat × Nat × Side × Nat) : List Nat :=
    s.rangePkgs (q.1.plus q.2.1) ((haulBits f + 7) / 8) ++ (if haulBlock f then s.rangePkgs (q.2.2.2.1.plus q.2.2.2.2) 1 else [])
  (List.range j.chunks).flatMap (fun c => (tensElems m store origin rows j.n c).flatMap (fun e =>
    (if e.inside then one m.tfmt (tensorSide j m e) else []) ++ one m.dfmt (denseSide j m rows e)))

/-- The packages on which a job has a side or its notify word (R483). -/
def State.jobPkgs (s : State) (j : Job) : List Nat :=
  (match j.kind with
   | .tens map store origin => s.tensPkgs j (TMap.ofWords map) store origin none
   | .rows map store index => s.tensPkgs j (TMap.ofWords map) store [] (some index)
   | k => (List.range j.chunks).flatMap (fun c =>
       let q := j.chunkAt c
       (match k with | .fill _ => [] | _ => s.rangePkgs q.1 q.2.1) ++ s.rangePkgs q.2.2.1 q.2.2.2.1))
  ++ (match j.notify with | some (x, _) => s.rangePkgs x 8 | none => [])

/-- The package a wait depends on (R483). -/
def State.waitPkgs (s : State) (t : Team) (gang : Nat) (w : Wait) : List Nat :=
  match w with
  | .word 3 addr _ _ _ => ((s.page? t.asid addr).map (fun p => p.place.pkg)).toList
  | .remote pkg _ => [pkg]
  | .haul m => (s.jobs.filter (fun j => j.rid == t.rid && j.gang == gang && m.testBit j.token)).flatMap s.jobPkgs
  | _ => []

/-- The packages of the requests that a context waits for at face units. -/
def State.facePkgs (s : State) (rid gang split : Nat) : List Nat :=
  (s.faceReqs.filter (fun q => q.rid == rid && q.gang == gang && q.split == split && q.unit / 256 != s.hub.config.package)).map (fun q => q.unit / 256)

/-- The watched waits and what the record's addr holds for each (R482). -/
def waitAddr (w : Wait) : Option Nat :=
  let code (kind value : Nat) : Option Nat := some (2 ^ 63 + 2 ^ 16 * kind + value)
  match w with
  | .bar n _ | .barwt n _ => code 1 n
  | .mig _ _ _ => code 2 0
  | .haul m => code 3 m
  | .full => code 4 0
  | .word _ a _ _ _ => some a
  | .remote _ a => some a
  | _ => none

/-- The address of a remote access a context waits for at a face unit. -/
def State.remoteAddr (s : State) (rid gang split : Nat) : Option Nat :=
  (s.faceReqs.find? (fun q => q.rid == rid && q.gang == gang && q.split == split && q.unit / 256 != s.hub.config.package)).map
    (fun q => ((q.parts.head?).map (fun p => p.2.1)).getD 0)

/-- The clock of a context's wait stands, because the wait depends on a package that does not answer (R483, R485). -/
def State.clockStands (s : State) (t : Team) (gang split : Nat) (sp : Split) : Bool :=
  s.hub.peers.any (fun x => !s.pkgAnswers x.1)
    && (s.waitPkgs t gang sp.wait ++ s.facePkgs t.rid gang split).any (fun p => !s.pkgAnswers p)

/-- The wait has passed the limit while its clock ran. -/
def State.waitExpired (s : State) (t : Team) (gang split : Nat) (sp : Split) : Option Nat :=
  if sp.used && t.onCore && decide (sp.waitStart + s.hub.config.watchdogNs ≤ s.ptp) && !s.clockStands t gang split sp then
    (waitAddr sp.wait).orElse (fun _ => s.remoteAddr t.rid gang split)
  else none

def execWaitWatchdogExpiry (rid gang split : Nat) (s : State) : Result :=
  match s.team? rid, s.split? rid gang split with
  | some t, some sp =>
    (match s.waitExpired t gang split sp with
     | some a => .next (s.terminateAt rid 962 0 gang (t.rjvpc sp) a)
     | none => .next s)
  | _, _ => .next s

/-- The ids of the teams suspended with a team: itself, or its whole cooperative task (R66). -/
def State.suspendSet (s : State) (t : Team) : List Nat :=
  if s.hub.tasks.any (fun (k : Task) => k.id == t.task && k.coop) then
    (s.teams.filter (fun u => u.task == t.task && u.status == .resident)).map (fun u => u.rid)
  else [t.rid]

/-- A commit point of the team is under way. -/
def Team.committing (t : Team) : Bool := t.gangs.any (fun g => g.splits.any (fun sp => sp.used && sp.performing))

/-- A native suspend can take the team: it is resident at bundle boundaries; a move whose JV state is rebuilt is seen to its end first
(R340, R363). -/
def Team.stoppable (t : Team) : Bool := t.status == .resident && (!t.moving || t.rebuild) && !t.committing

/-- A gang has traps masked (R437) [64, DEDUCED]. -/
def Team.masked (t : Team) : Bool := t.gangs.any (fun g => g.handler.isSome)

/-- A save frees a core: it is kept for the team that then ranks highest (R365). -/
def State.freeCore (s : State) (c : CoreId) : State :=
  if s.hub.freed.contains c then s else { s with hub := { s.hub with freed := s.hub.freed ++ [c] } }

/-- One team is suspended natively; while a gang is masked the others stop at once and it runs on (R366, R440) [23, DEDUCED] [64, DEDUCED]. -/
def State.suspendOne (s : State) (rid : Nat) : State :=
  match s.team? rid with
  | none => s
  | some t0 =>
    let s := s.dropMove t0
    let t := (s.team? rid).getD t0
    let s1 := if t.masked then
        (s.deselect t).updTeam rid (fun (u : Team) => { u with
          status := .suspending
          gangs := (u.gangs.zip (List.range u.gangs.length)).map (fun (x : Gang × Nat) =>
            if x.1.handler.isSome then x.1 else s.stopGang t false x.2 x.1) })
      else s.saveTeam rid (.suspended false) false
    (s1.updTeam rid (fun (u : Team) => u.goOn s.now)).freeCore t.core

/-- Suspend a team natively, with its cooperative task (R363, R66). -/
def State.suspendNative (s : State) (t : Team) : State := (s.suspendSet t).foldl State.suspendOne s

/-- The team has used its budget (R479). -/
def State.overBudget (s : State) (t : Team) : Bool :=
  decide (t.budget ≠ 0) && t.status == .resident && decide (t.budget ≤ t.budgetUsed + (s.ptp - t.placedAt))

/-! ## Dispatch (R355 to R358, R65, R509) -/

/-- What a dispatcher places next. -/
inductive Pick where
  | start (task : Task) (index : Nat) (core : CoreId)
  | resume (rid : Nat) (core : CoreId)
deriving DecidableEq, Repr

/-- The ready dies, in order. -/
def State.readyDies (s : State) : List Nat := [0, 1, 2, 3].filter (fun d => s.hub.ready.getLsbD (4 + d))

/-- The die of team t (R356, R509). -/
def State.dieOf (s : State) (t : Nat) : Nat :=
  let ds := s.readyDies
  ds.getD (t / 64 % Nat.max 1 ds.length) 0

/-- The rank of a task's waiting teams, of those that overran their budgets apart: class, overrun, deadline or priority, admission (R355,
R479). -/
def rankKey (k : Task) (late : Bool) : Nat :=
  let mid := if k.cls = 0 then k.deadline else 7 - k.prio
  ((k.cls * 2 + if late then 1 else 0) * 2 ^ 90 + mid) * 2 ^ 64 + k.order

/-- A team of a task has overrun its budget and not resumed since (R479). -/
def State.late (s : State) (t : Team) : Bool := s.hub.overran.contains (t.task, t.index)

/-- The i-th index of a task's teams that belong to a die, counting from 0: r is the number of ready dies and p the die's
place among them. -/
def dieIndex (r p i : Nat) : Nat := (i / 64 * r + p) * 64 + i % 64

/-- The lowest team of a task, assigned to a die, that has not started; the highest one when stealing. -/
def State.unstarted (s : State) (k : Task) (die : Nat) : Option Nat :=
  let ds := s.readyDies
  match (if k.ended then none else ds.findIdx? (fun d => d == die)) with
  | none => none
  | some p => (List.range (k.started.length + 1)).findSome? (fun i =>
      let t := dieIndex ds.length p i
      if t < k.count ∧ !k.started.contains t then some t else none)

/-- Suspended. -/
def Team.waits (t : Team) : Bool := match t.status with | .suspended _ => true | _ => false

/-- Teams of a task on a die that are not placed: those not started, and those suspended. -/
def State.unplacedOn (s : State) (k : Task) (die : Nat) : Nat :=
  let ds := s.readyDies
  match ds.findIdx? (fun d => d == die) with
  | none => 0
  | some p =>
    let r := ds.length
    let full := k.count / (64 * r) * 64
    let rest := k.count % (64 * r)
    (if k.ended then 0 else full + Nat.min 64 (rest - 64 * p) - (k.started.filter (fun t => s.dieOf t == die)).length)
    + (s.teams.filter (fun t => t.task == k.id && t.waits && t.home == die)).length

/-- The highest-indexed team of a task on a die that has not started. -/
def State.lastUnstarted (s : State) (k : Task) (die : Nat) : Option Nat :=
  let ds := s.readyDies
  match (if k.ended then none else ds.findIdx? (fun d => d == die)) with
  | none => none
  | some p =>
    let r := ds.length
    let n := k.count / (64 * r) * 64 + Nat.min 64 (k.count % (64 * r) - 64 * p)
    (List.range (k.started.length + 1)).findSome? (fun i =>
      let t := dieIndex r p (n - 1 - i)
      if i < n ∧ t < k.count ∧ !k.started.contains t then some t else none)

/-- The kinds a suspended team may resume on: its own, and, after a stop at equivalence points, the other one, where the encodings name equivalent
points and the spill pool has room (R337, R339, R363, R364). -/
def State.resumeKinds (s : State) (t : Team) : List CoreKind :=
  match t.status with
  | .suspended true => t.kern.kinds.filter (fun kind => kind == t.core.kind || (s.transFits t kind && (t.convert kind s.free).isSome))
  | _ => [t.core.kind]

/-- The core is kept for the team that ranks highest when it comes free (R365). -/
def State.kept (s : State) (c : CoreId) : Bool := s.hub.freed.contains c

/-- A core of a die for a suspended team, once its loads in flight are complete (R311). -/
def State.resumeCore (s : State) (die : Nat) (t : Team) : Option CoreId :=
  if s.faceReqs.any (fun q => q.rid == t.rid) then none else s.chooseCore die t.kern (s.resumeKinds t) s.kept

/-- A core of a die for a new team of a task, of a kind for which the die's spill pool has room (R74, R356). -/
def State.startCore (s : State) (die : Nat) (k : Task) : Option CoreId :=
  k.kern.kinds.findSome? (fun kind => if s.spillFits die (s.spillNeed k kind) then s.chooseCore die k.kern [kind] s.kept else none)

/-- Every suspended team of a cooperative task can be placed at once (R66). -/
def State.coopFits (s : State) (k : Task) : Bool :=
  let mine := s.teams.filter (fun t => t.task == k.id && !t.onCore)
  (mine.foldl (fun (a : Option State) t => a.bind (fun s =>
    (s.readyDies.findSome? (fun d => s.resumeCore d t)).map (fun c => s.resumeTeam t.rid c))) (some s)).isSome

/-- Of some teams, the one of the lowest index, or the highest. -/
def lowestIndex (l : List Team) : Option Team :=
  l.foldl (fun (a : Option Team) t => match a with | none => some t | some b => if t.index < b.index then some t else some b) none
def highestIndex (l : List Team) : Option Team :=
  l.foldl (fun (a : Option Team) t => match a with | none => some t | some b => if b.index < t.index then some t else some b) none

/-- The suspended teams of a task that belong to a die and meet a condition. -/
def State.waitingOn (s : State) (k : Task) (die : Nat) (p : Team → Bool) : List Team :=
  s.teams.filter (fun t => t.task == k.id && t.waits && t.home == die && p t && (!k.coop || s.coopFits k))

/-- What is taken from one task for a die's own teams: suspended teams first, each time the lowest index (R356); those that overran stand apart
and have no others behind them (R479). -/
def State.ownPick (s : State) (die : Nat) (x : Task × Bool) (resume : Team → Option CoreId) (start : Option CoreId) : Option Pick :=
  match lowestIndex (s.waitingOn x.1 die (fun t => s.late t == x.2 && (resume t).isSome)) with
  | some t => (resume t).map (fun c => Pick.resume t.rid c)
  | none => if x.2 then none else (s.unstarted x.1 die).bind (fun i => start.map (fun c => Pick.start x.1 i c))

/-- What a die's dispatcher takes from one task for the die's own teams. -/
def State.pickOwn (s : State) (die : Nat) (x : Task × Bool) : Option Pick := s.ownPick die x (s.resumeCore die) (s.startCore die x.1)

/-- The highest-indexed team of a task on a die that another die's dispatcher can place (R357, R479). -/
def State.lootOn (s : State) (x : Task × Bool) (die : Nat) (resume : Team → Option CoreId) (start : Option CoreId) : Option Pick :=
  let k := x.1
  let back := highestIndex (s.waitingOn k die (fun t => s.late t == x.2 && (resume t).isSome))
  let fresh := if x.2 then none else start.bind (fun c => (s.lastUnstarted k die).map (fun i => (i, c)))
  let go (t : Team) : Option Pick := (resume t).map (fun c => Pick.resume t.rid c)
  match back, fresh with
  | some t, some (i, c) => if i < t.index then go t else some (.start k i c)
  | some t, none => go t
  | none, some (i, c) => some (.start k i c)
  | none, none => none

/-- What is stolen from a task: from the die that holds the most unplaced teams of the task among those with one that fits, the lower die first
(R357). -/
def State.loot (s : State) (x : Task × Bool) (dies : List Nat) (resume : Team → Option CoreId) (start : Option CoreId) : Option Pick :=
  (dies.foldl (fun (a : Option (Nat × Pick)) d =>
    match s.lootOn x d resume start, a with
    | some p, some (b, q) => if s.unplacedOn x.1 b < s.unplacedOn x.1 d then some (d, p) else some (b, q)
    | some p, none => some (d, p)
    | none, x => x) none).map (fun x => x.2)

/-- What a dispatcher with room steals from another die's teams of a task (R357). -/
def State.pickSteal (s : State) (die : Nat) (x : Task × Bool) : Option Pick :=
  s.loot x (s.readyDies.filter (fun d => d != die)) (s.resumeCore die) (s.startCore die x.1)

/-- Insert by rank. -/
def rankInsert (x : Task × Bool) (l : List (Task × Bool)) : List (Task × Bool) :=
  match l with
  | [] => [x]
  | y :: r => if rankKey x.1 x.2 < rankKey y.1 y.2 then x :: y :: r else y :: rankInsert x r

/-- A task has teams that wait: in time, suspended or not started; or late. -/
def State.hasWaiting (s : State) (k : Task) (late : Bool) : Bool :=
  s.teams.any (fun t => t.task == k.id && t.waits && s.late t == late) || (!late && !k.ended && decide (k.started.length < k.count))

/-- Tasks with waiting teams in rank order, each twice where teams of it have overrun their budgets (R355, R479). -/
def State.ranked (s : State) : List (Task × Bool) :=
  (s.hub.tasks.flatMap (fun k => [false, true].filterMap (fun b => if s.hasWaiting k b then some (k, b) else none))).foldl (fun l x => rankInsert x l) []

/-- A core from which teams are still leaving. -/
def State.leaving (s : State) (c : CoreId) : List Nat := ((s.coreTeams c).filter (fun t => t.status == .suspending)).map (fun t => t.rid)

/-- The core has its team. -/
def State.unkeep (s : State) (c : CoreId) : State :=
  if s.kept c then { s with hub := { s.hub with freed := s.hub.freed.filter (fun x => x != c) } } else s

/-- The team that takes a core which a pre-emption has freed: the highest-ranked one that fits it, of any die (R365) [49, DEDUCED]. -/
def State.freedPick (s : State) (c : CoreId) : Option Pick :=
  if !(s.leaving c).isEmpty then none
  else
    let s := s.unkeep c
    let die := CoreId.die c
    let resume (t : Team) : Option CoreId :=
      if (s.resumeKinds t).contains c.kind && s.fits c t.kern && !(s.faceReqs.any (fun q => q.rid == t.rid)) then some c else none
    s.ranked.findSome? (fun x =>
      let k := x.1
      let start := if k.kern.kinds.contains c.kind && s.fits c k.kern && s.spillFits die (s.spillNeed k c.kind) then some c else none
      (s.ownPick die x resume start).orElse (fun _ => s.loot x (s.readyDies.filter (fun d => d != die)) resume start))

/-- The next placement of a die's dispatcher. -/
def State.nextPick (s : State) (die : Nat) : Option Pick :=
  if s.readyDies.contains die then
    ((s.hub.freed.filter (fun c => CoreId.die c == die)).findSome? s.freedPick).orElse (fun _ =>
      (s.ranked.findSome? (fun k => s.pickOwn die k)).orElse (fun _ => s.ranked.findSome? (fun k => s.pickSteal die k)))
  else none

/-- Freed cores that no team takes at once are no longer kept (R365). -/
def State.settleFreed (s : State) : State :=
  if s.hub.freed.isEmpty then s
  else { s with hub := { s.hub with freed := s.hub.freed.filter (fun c => !(s.leaving c).isEmpty || (s.freedPick c).isSome) } }

/-- A team starts: its translation is read, unless a preload has brought it, and it is placed where that leaves its task alive (R361, R477). -/
def State.startTeam (s : State) (k : Task) (index : Nat) (c : CoreId) (brought : Bool) : Option State :=
  let s1 := if brought then s.unkeep c else (s.unkeep c).readHeld k c.kind
  if s1.alive k then s1.placeTeam k index c else some s1

/-- TEAM_PLACE -/
def execTeamPlace (die : Nat) (s : State) : Result :=
  match s.nextPick die with
  | some (.start k i c) => (match s.startTeam k i c false with | some s1 => .next s1 | none => .next s)
  | _ => .next s

/-- The saved state of a team holds poison: in registers, a tile or the scratch image (R472). -/
def Team.savedPoison (t : Team) : Bool :=
  t.gangs.any (fun g => !g.regPoison.isEmpty) || t.tiles.any (fun x => x.poison) || !t.scratchPoison.isEmpty

/-- The entries of a team's regions are read. -/
def State.readRegions (s : State) (t : Team) : State := t.regions.foldl (fun s r => s.readKey r.key) s

/-- The entries of a team's code are read as it is placed: its translation for a kind, and those of its regions (R477). -/
def State.readTeam (s : State) (t : Team) (kind : CoreKind) : State :=
  let s1 := match s.hub.tasks.find? (fun (k : Task) => k.id == t.task) with
    | some k => s.readHeld k kind
    | none => s
  s1.readRegions t

/-- The team takes its place on a core of a kind that it accepts, which leaves it in the list of overruns no more; poison in its saved state is
consumed as that is restored (R472). -/
def State.placeBack (s : State) (t : Team) (c : CoreId) : State :=
  let s0 := if c.kind = t.core.kind then s
    else match t.convert c.kind s.free with
      | some u => { s.updTeam t.rid (fun _ => { u with transSpill := s.teamTrans t c.kind }) with free := s.free + moveSpan t.kern.decls }
      | none => s
  let s1 := (s0.updTeam t.rid (fun u => { u with home := CoreId.die c })).resumeTeam t.rid c
  let s2 : State := { s1 with hub := { s1.hub with overran := s1.hub.overran.filter (fun x => x != (t.task, t.index)) } }
  if t.savedPoison then
    let g := (t.gangs.findIdx? (fun g => !g.regPoison.isEmpty)).getD 0
    let k := ((t.gangs[g]?).bind (fun g => g.splits.findIdx? (fun sp => sp.used))).getD 0
    s2.deliver { cause := 256, info := 261, addr := 0 } { rid := t.rid, gang := g, split := k }
  else s2

/-- A suspended team resumes: its code and its scratch image are read but for what a preload has brought, and it is placed where that leaves it
(R361, R477). -/
def State.resumeBrought (s : State) (rid : Nat) (c : CoreId) (code scratch : Bool) : State :=
  match s.team? rid with
  | none => s
  | some t0 =>
    let s0 := if scratch then (s.unkeep c).updTeam rid (fun u => { u with scratchPoison := [] }) else s.unkeep c
    let s1 := if code then s0.readRegions t0 else s0.readTeam t0 c.kind
    match s1.team? rid with
    | some t => if t.waits && (c.kind == t.core.kind || (s1.resumeKinds t).contains c.kind) then s1.placeBack t c else s1
    | none => s1

/-- A suspended team resumes with nothing preloaded. -/
def State.resumeFull (s : State) (rid : Nat) (c : CoreId) : State := s.resumeBrought rid c false false

/-- TEAM_RESUME -/
def execTeamResume (rid : Nat) (s : State) : Result :=
  let hit := [0, 1, 2, 3].findSome? (fun d =>
    match s.nextPick d with
    | some (.resume r c) => if r = rid then some c else none
    | _ => none)
  match hit with
  | some c => .next (s.resumeFull rid c)
  | none => .next s

/-! ## Preload (R359 to R361, R480) -/

/-- The bank of a D-core that no resident team holds, for a scratch image of at most 512 KiB (R359). -/
def State.idleBank (s : State) (c : CoreId) (t : Team) : Option Nat :=
  if c.kind = .dcore ∧ t.scratchSize ≤ 524288 then
    [0, 1].find? (fun b => (s.coreTeams c).all (fun u => u.bank != b && u.bank != 2))
  else none

/-- The team a dispatcher will next place on a core, were the core empty: the highest-ranked one of its die that the core takes, else one it would
steal. -/
def State.nextFor (s : State) (c : CoreId) : Option Preload :=
  let die := CoreId.die c
  let empty : State := { s with teams := s.teams.filter (fun t => t.core != c || !t.onCore) }
  let resume (t : Team) : Option CoreId := if (s.resumeKinds t).contains c.kind && empty.fits c t.kern then some c else none
  let start (k : Task) : Option CoreId :=
    if k.kern.kinds.contains c.kind && empty.fits c k.kern && s.spillFits die (s.spillNeed k c.kind) then some c else none
  let pick := (s.ranked.findSome? (fun x => s.ownPick die x resume (start x.1))).orElse (fun _ =>
    s.ranked.findSome? (fun x => s.loot x (s.readyDies.filter (fun d => d != die)) resume (start x.1)))
  match pick with
  | some (.start k i _) => some { task := k.id, index := i, rid := none, bank := none }
  | some (.resume rid _) => (s.team? rid).map (fun t => { task := t.task, index := t.index, rid := some rid, bank := s.idleBank c t })
  | none => none

/-- The read of the saved scratch image into a preload meets poison: the preload is discarded (R472, R480). -/
def State.preloadBad (s : State) (p : Preload) : Bool :=
  p.bank.isSome && ((p.rid.bind s.team?).map (fun t => !t.scratchPoison.isEmpty)).getD false

/-- PRELOAD: the code of the team that the core gets next, read from the lode, and a copy of its saved scratch (R359, R477). -/
def execPreload (core : CoreId) (s : State) : Result :=
  match (s.coreOf core).preload, s.nextFor core with
  | none, some p =>
    let s1 := match s.hub.tasks.find? (fun (k : Task) => k.id == p.task) with
      | some k => s.readHeld k core.kind
      | none => s
    if s1.hub.tasks.any (fun (k : Task) => k.id == p.task && !k.ended) && !s.preloadBad p then .next (s1.setCore { s1.coreOf core with preload := some p })
    else .next s1
  | _, _ => .next s

/-- The preloaded team becomes resident if it fits, with what the preload did not bring restored, in the bank that holds its copy; a preload of a team or task that is gone is discarded
(R361, R480). -/
def State.switchIn (s : State) (core : CoreId) : State :=
  match (s.coreOf core).preload with
  | none => s
  | some p =>
    let s1 := s.setCore { s.coreOf core with preload := none }
    match p.rid, s.hub.tasks.find? (fun (k : Task) => k.id == p.task && !k.ended) with
    | some rid, some k =>
      (match s.team? rid with
       | some t =>
         if t.waits && (s.resumeKinds t).contains core.kind && s.fits core t.kern && (!k.coop || s.coopFits k) then
           let s2 := s1.resumeBrought rid core true p.bank.isSome
           (match p.bank with
            | some b => s2.updTeam rid (fun u => { u with bank := b, scratchAt := 0 })
            | none => s2)
         else if t.waits then s else s1
       | none => s1)
    | none, some k =>
      if k.started.contains p.index then s1
      else if s.fits core k.kern && s.spillFits (CoreId.die core) (s.spillNeed k core.kind) then (s1.startTeam k p.index core true).getD s
      else s
    | _, none => s1

/-- PRELOAD_SWITCH -/
def execPreloadSwitch (core : CoreId) (s : State) : Result := .next (s.switchIn core)

/-- The masked gang has ended its handler: the team is saved as it stands; a team out of budget starts a new one, and the one preloaded on its core is
switched in (R440, R480) [64, DEDUCED]. -/
def State.finishSuspend (s : State) (t : Team) : State :=
  let s1 := (s.saveTeam t.rid (.suspended false) true).freeCore t.core
  if s.late t then (s1.updTeam t.rid (fun (u : Team) => { u with budgetUsed := 0 })).switchIn t.core else s1

/-- BUDGET_OVERRUN: the team has used its budget (R479); a team preloaded on its core is switched in if it fits (R480). -/
def execBudgetOverrun (rid : Nat) (s : State) : Result :=
  match s.team? rid with
  | some t =>
    if !s.overBudget t then .next s
    else if 8 ≤ t.overruns + 1 then .next (s.terminate rid 963 0 0 (2 ^ 64 - 1))
    else if !t.stoppable then .next s
    else
      let s1 := (s.log { cause := 963, task := t.task, team := t.index }).suspendNative t
      let s2 := s1.updTeam rid (fun (u : Team) => { u with overruns := u.overruns + 1, budgetUsed := 0 })
      .next (State.switchIn { s2 with hub := { s2.hub with overran := s2.hub.overran ++ [(t.task, t.index)] } } t.core)
  | none => .next s


/-- PRELOAD_DROPPED -/
def execPreloadDropped (core : CoreId) (s : State) : Result :=
  when s (s.coreOf core).preload.isSome (s.setCore { s.coreOf core with preload := none })

/-! ## Pre-emption (R362, R363) and virtual-precise stops (R364) -/

/-- The class of a team's task; 3 when unknown. -/
def State.classOf (s : State) (t : Team) : Nat := ((s.hub.tasks.find? (fun (k : Task) => k.id == t.task)).map (fun k => k.cls)).getD 3
def State.prioOf (s : State) (t : Team) : Nat := ((s.hub.tasks.find? (fun (k : Task) => k.id == t.task)).map (fun k => k.prio)).getD 0

/-- The team of a task that ranks first: a suspended one, or none for one that has not started (R355). -/
def State.firstWaiting (s : State) (x : Task × Bool) : Option Team :=
  lowestIndex (s.teams.filter (fun t => t.task == x.1.id && t.waits && s.late t == x.2))

/-- The kinds that this team accepts. -/
def State.wantedKinds (s : State) (x : Task × Bool) : List CoreKind :=
  match s.firstWaiting x with
  | some t => s.resumeKinds t
  | none => x.1.kern.kinds

/-- The DEADLINE task whose team stands highest and finds no core with room of a kind it accepts (R362). -/
def State.deadlineStuck (s : State) : Option (Task × Bool) :=
  match s.ranked.head? with
  | some x =>
    if x.1.cls = 0 && (s.wantedKinds x).all (fun kind => s.readyDies.all (fun d => (coresOf kind d).all (fun c => !s.fits c x.1.kern))) then some x
    else none
  | none => none

/-- Without some teams, the kernel fits the core. -/
def State.fitsWithout (s : State) (out : List Nat) (c : CoreId) (k : Kernel) : Bool :=
  State.fits { s with teams := s.teams.filter (fun t => !out.contains t.rid) } c k

/-- The order among equal choices: lowest class first, then lowest priority, then the most recently placed (R362) [49, DEDUCED]. -/
def State.victimKey (s : State) (rid : Nat) : Nat :=
  match s.team? rid with
  | some t => ((3 - s.classOf t) * 8 + s.prioOf t) * 2 ^ 80 + (2 ^ 80 - 1 - t.placedAt % 2 ^ 80)
  | none => 0

/-- All the teams that go when some are suspended (R66). -/
def State.suspendAll (s : State) (rids : List Nat) : List Nat :=
  (rids.flatMap (fun r => match s.team? r with | some t => s.suspendSet t | none => [])).eraseDups

/-- What a dispatcher suspends for a task: the core, and lower-class teams on it that make room, with their cooperative siblings as few as can
be; none while teams that are leaving a core make it. The choice is among the cores of all ready dies: the spec does not say which die's
dispatcher it is that suspends [49, DEDUCED] [95, DESIGN CHOICE]. -/
def State.victims (s : State) (x : Task × Bool) : Option (CoreId × List Nat) :=
  let k := x.1
  let cores := (s.wantedKinds x).flatMap (fun kind => s.readyDies.flatMap (fun d =>
    if (s.firstWaiting x).isNone && !s.spillFits d (s.spillNeed k kind) then [] else coresOf kind d))
  let sets : List (CoreId × List Nat) := if cores.any (fun c => !(s.leaving c).isEmpty && s.fitsWithout (s.leaving c) c k.kern) then [] else
    cores.flatMap (fun c =>
      let low := ((s.coreTeams c).filter (fun t => s.classOf t != 0 && t.status == .resident)).map (fun t => t.rid)
      (low.sublists.filter (fun x => !x.isEmpty && s.fitsWithout (x ++ s.leaving c) c k.kern)).map (fun x => (c, x)))
  let sum (x : List Nat) : Nat := (x.map s.victimKey).foldl (fun a b => a + b) 0
  let better (x y : List Nat) : Bool :=
    let n := (s.suspendAll x).length
    let m := (s.suspendAll y).length
    decide (n < m) || (n == m && decide (sum x < sum y))
  sets.foldl (fun (a : Option (CoreId × List Nat)) x => match a with
    | none => some x
    | some b => if better x.2 b.2 then some x else some b) none

/-- Every team that goes with the victims can be suspended now. -/
def State.victimsReady (s : State) (rids : List Nat) : Bool :=
  (s.suspendAll rids).all (fun r => ((s.team? r).map Team.stoppable).getD true)

/-- The pre-emption: all its victims are suspended, and their core goes to the team that then ranks highest (R362, R365). -/
def State.preempt (s : State) (x : CoreId × List Nat) : State :=
  State.freeCore (x.2.foldl (fun s r => match s.team? r with
    | some t => if t.status == .resident then s.suspendNative t else s
    | none => s) s) x.1

/-- NATIVE_SUSPEND: a dispatcher suspends a team, with the others of its choice, for DEADLINE work, or a suspend that met a handler ends. -/
def execNativeSuspend (rid : Nat) (s : State) : Result :=
  match s.team? rid with
  | none => .next s
  | some t =>
    if t.status == .suspending then when s (!t.masked) (s.finishSuspend t)
    else
      match s.deadlineStuck.bind s.victims with
      | some x => when s (x.2.contains rid && s.victimsReady x.2) (s.preempt x)
      | none => .next s

/-- Every context of a team stands at a commit point; a gang whose fault waits for its frame is saved with it (R427). -/
def State.atCommit (s : State) (t : Team) : Bool :=
  t.gangs.all (fun g => g.entering.isSome || (g.handler.isNone && g.splits.all (fun sp => !sp.used || (sp.sinceCommit == 0 && sp.loads.isEmpty && !sp.performing))))
    && !(s.faceReqs.any (fun q => q.rid == t.rid)) && !t.moving

/-- VIRTUAL_PRECISE_STOP: a team asked to stop has reached its commit points: it is saved, and an event is written for
every breakpoint it has met and for TSTOP (R391) [84, DEDUCED]. -/
def execVirtualPreciseStop (rid : Nat) (s : State) : Result :=
  match s.team? rid with
  | some t =>
    (match t.status with
     | .stopping brks host =>
       if s.atCommit t then
         let s1 := ((s.updTeam rid (fun (u : Team) => { u with gangs := u.gangs.map Gang.rollbackAll })).saveTeam rid .stopped true).freeCore t.core
         let s2 := brks.foldl (fun (s : State) x => s.event 1 x.1 x.2.1 t.task t.index (mkWord x.2.2) 0) s1
         .next (if host then s2.event 4 0 0 t.task t.index 0 0 else s2)
       else .next s
     | _ => .next s)
  | none => .next s

/-! ## Moves at the dispatcher's request (R339) -/

/-- DISPATCHER_MOVE_REQUEST -/
def execDispatcherMoveRequest (rid : Nat) (s : State) : Result :=
  match s.team? rid with
  | some t =>
    when s (t.status == .resident && t.moveReq.isNone && !t.moving && t.kern.kinds.contains (CoreKind.other t.core.kind))
      (s.updTeam rid (fun (u : Team) => { u with moveReq := some s.dclocks }))
  | none => .next s

/-- The request is gone: parked contexts go on where they stopped. -/
def State.dropMoveReq (s : State) (rid : Nat) : State := s.updTeam rid (fun (t : Team) => t.goOn s.now)

/-- A request lapses 100 µs after it at the nominal clock (R30, R339). -/
def State.lapsed (s : State) (t0 : Nat) : Bool := decide (t0 + 120000000 ≤ s.dclocks)

/-- DISPATCHER_MOVE_LAPSE -/
def execDispatcherMoveLapse (rid : Nat) (s : State) : Result :=
  match (s.team? rid).bind (fun t => t.moveReq) with
  | some t0 => when s (s.lapsed t0) (s.dropMoveReq rid)
  | none => .next s

/-- The context has parked at an equivalence point: for the request, or, in JV code, at a mig. A native context at a mig has issued its bundle, and
its record names the point behind it, at which it would have no status: it is parked elsewhere (R302, R307, R339) [71, DEDUCED]. -/
def Split.parkedToMove (sp : Split) (native : Bool) : Bool :=
  match sp.wait with
  | .moveReq => true
  | .mig _ _ _ => !native
  | _ => false

/-- When every context has parked for a standing request the move begins (R337, R339). -/
def State.settleMove (s : State) (rid : Nat) : State :=
  match s.team? rid with
  | none => s
  | some t =>
    let live := t.gangs.filter (fun g => !g.exited)
    let all := !live.isEmpty && live.all (fun g => g.splits.all (fun sp => !sp.used || sp.parkedToMove t.native))
    if t.moveReq.isSome && all && !t.moving then s.updTeam rid (fun t => { t with moving := true, rebuild := true, moveReq := none }) else s

end Sys2Proof.Machine
end

