-- ==== Sys2Proof/Machine/Queues.lean ====
section
/-! DEFINITION. The command processor (R341 to R354, R478, R513): packets, the look-ahead, the choice of the next one, admission and refusal
of tasks; and the translations that launches ask for (R329, R332, R335). -/

namespace Sys2Proof.Machine

/-! ## Packets (R342 to R348) -/

/-- The type of a packet (R344). -/
def pType (ws : List Word) : Nat := field (ws.getD 0 0) 0 8
def pWord (ws : List Word) (i : Nat) : Nat := (ws.getD i 0).toNat
def restZero (ws : List Word) (i : Nat) : Bool := (ws.drop i).all (fun w => w == 0)

/-- A bit that the packet's type does not use is set; the low bits of an aligned address count as such (R344, R513) [24, DEDUCED]. -/
def packetUnused (ws : List Word) : Bool :=
  let w (i lo n : Nat) : Bool := field (ws.getD i 0) lo n != 0
  match pType ws with
  | 0 => w 0 8 56 || !restZero ws 1
  | 1 => w 0 12 4 || w 0 19 13 || w 2 56 8 || w 3 48 16 || w 5 56 8 || w 5 0 3 || !restZero ws 7
  | 2 => w 0 8 56 || w 1 56 8 || w 1 0 6 || w 2 16 48 || !restZero ws 3
  | 3 => w 0 9 55 || !restZero ws 1
  | 4 => w 0 8 2 || w 0 11 53 || w 1 56 8 || w 1 0 3 || !restZero ws 3
  | _ => false

/-- The reason for which a queue halts at a packet (R513) [24, DEDUCED]. -/
def Ahead.halt (x : Ahead) : Option Nat :=
  match x.words with
  | none => some 19
  | some ws =>
    if 5 ≤ pType ws then some 16
    else if packetUnused ws then some 17
    else if x.deep then some 18
    else if x.lost then some 19
    else none

/-- The head packet's words, where the look-ahead has read them. -/
def Queue.headWords (q : Queue) : Option (List Word) := q.ahead.head?.bind (fun x => x.words)

/-- The reason for which a queue halts at its head packet, and the packet's address. -/
def Queue.haltReason (q : Queue) : Option (Nat × Nat) := q.ahead.head?.bind (fun x => x.halt.map (fun r => (r, x.addr)))

/-- The active complex processes packets and commands (R387, R400). -/
def Hub.serving (h : Hub) : Bool := h.ready.getLsbD 0 && h.ready.getLsbD 1

def State.updQueue (s : State) (n : Nat) (f : Queue → Queue) : State :=
  { s with hub := { s.hub with queues := updFirst (fun (q : Queue) => q.num == n) f s.hub.queues } }
def State.queue? (s : State) (n : Nat) : Option Queue := s.hub.queues.find? (fun (q : Queue) => q.num == n)

/-- The head packet is consumed; a ring packet advances the read index and writes it to rptr, and what a post left beside it goes (R342)
[56, DEDUCED]. -/
def State.consumeHead (s : State) (n : Nat) : State :=
  match s.queue? n with
  | none => s
  | some q =>
    match q.ahead with
    | [] => s
    | x :: r =>
      let rd := if x.ring then q.rd + 1 else q.rd
      let s1 := s.updQueue n (fun q => { q with ahead := r, staged := false, rd := rd })
      if x.ring then
        (s1.onHub (fun h => { h with posted := h.posted.filter (fun (p : Posted) => !(p.queue == n && p.slot == q.rd.toNat)) })).cpWrite n q.asid
          q.rptr (toBytesLE 8 rd.toNat) false false
      else s1

/-! ## Launches -/

def launchHandle (ws : List Word) : Nat := pWord ws 1
def launchCoop (ws : List Word) : Bool := (ws.getD 0 0).getLsbD 8
def launchDbg (ws : List Word) : Bool := (ws.getD 0 0).getLsbD 9
def launchIrq (ws : List Word) : Bool := (ws.getD 0 0).getLsbD 10
def launchBar (ws : List Word) : Bool := (ws.getD 0 0).getLsbD 11
def launchPrio (ws : List Word) : Nat := field (ws.getD 0 0) 16 3
def launchTeams (ws : List Word) : Nat := field (ws.getD 0 0) 32 32 + 1
def launchArgs (ws : List Word) : Nat := field (ws.getD 2 0) 0 56
def launchDeadline (ws : List Word) : Nat := field (ws.getD 3 0) 0 48 * 1000000000 + field (ws.getD 4 0) 0 32
def launchBudget (ws : List Word) : Nat := field (ws.getD 4 0) 32 32
def launchCadr (ws : List Word) : Nat := field (ws.getD 5 0) 0 56

/-- The kernel of a handle in an address space (R389). -/
def State.kernel? (s : State) (asid handle : Nat) : Option Kernel :=
  s.hub.objects.findSome? (fun (o : Object) => if o.asid = asid then o.kernels.find? (fun k => k.handle == handle) else none)

/-- All teams of a task placed one after the other, on any ready dies; none when one finds no core (R65, R400). -/
def State.placeAll (s : State) (k : Task) : Nat → Option State
  | 0 => some s
  | n + 1 => do
    let s1 ← s.placeAll k n
    let c ← s1.readyDies.findSome? (fun d => s1.startCore d k)
    s1.placeTeam k n c

/-- Cooperative teams are at most one for each gang slot of the package. -/
def State.coopRoom (s : State) (k : Task) : Bool := decide (k.count ≤ 2304) && (s.placeAll k k.count).isSome

/-- The task a launch packet describes. -/
def taskOf (q : Queue) (k : Kernel) (ws : List Word) (id order : Nat) : Task :=
  { id := id, queue := q.num, asid := q.asid, cls := q.cls, prio := launchPrio ws, deadline := launchDeadline ws, kern := k
    count := launchTeams ws, coop := launchCoop ws, dbg := launchDbg ws, irq := launchIrq ws, cadr := launchCadr ws
    cval := ws.getD 6 0, argAddr := argBase id, budget := launchBudget ws, started := [], retired := 0, ended := false
    order := order, held := [] }

/-- The reason for which the launch at the head is refused (R478). -/
def State.refusal (s : State) (q : Queue) (x : Ahead) (ws : List Word) : Option Nat :=
  match s.kernel? q.asid (launchHandle ws) with
  | none => some 2
  | some k =>
    let t := taskOf q k ws 0 0
    let empty : State := { s with teams := [], hub := { s.hub with ready := s.hub.ready ||| 0xF0, ridNext := 0, freed := [] } }
    if field k.feat0 6 58 ≠ 0 then some 1
    else if k.kinds.isEmpty || k.kinds.all (fun kind => decide (s.hub.config.spillPool < k.spillBytes (((k.pinned kind).map (fun x => x.spillSize)).getD 0))) then some 4
    else if t.coop && !empty.coopRoom t then some 3
    else if x.args.isNone then some 5
    else none

/-- A refused launch: no team runs, the completion word tells by bit 63, and a record is written. -/
def State.refuseLaunch (s : State) (q : Queue) (ws : List Word) (reason : Nat) : State :=
  let s1 := s.log { cause := 0, reason := reason }
  let s2 := if launchCadr ws = 0 then (if launchIrq ws then s1.raiseVector q.vector else s1)
    else s1.cpWrite q.num q.asid (launchCadr ws) (toBytesLE 8 (degradedValue (ws.getD 6 0)).toNat) (launchIrq ws) false
  s2.consumeHead q.num

/-- The task ids in increasing order modulo 2^32, those of unretired tasks skipped (R388). -/
def freshTask (tasks : List Task) : Nat → Nat → Nat
  | 0, n => n
  | fuel + 1, n => if tasks.any (fun (k : Task) => k.id == n) then freshTask tasks fuel ((n + 1) % 2 ^ 32) else n

/-- The conditions of R350 for a staged launch, and die memory for its argument block. -/
def State.admissible (s : State) (q : Queue) (ws : List Word) : Bool :=
  match s.kernel? q.asid (launchHandle ws) with
  | none => false
  | some k =>
    s.hub.ready.getLsbD 2
    && k.kinds.all (fun kind => s.lodeHas k kind (launchDbg ws))
    && (!launchBar ws || !(s.hub.tasks.any (fun (t : Task) => t.queue == q.num)))
    && (!launchCoop ws || s.coopRoom (taskOf q k ws 0 0))
    && decide (s.hub.tasks.length < 4096)
    && decide (((q.ahead.head?).bind (fun x => x.args)).map (fun l => l.length) = some k.args)
    && (k.args == 0 || (s.placeDie s.hub.config.package 65536).isSome)

/-- The entries that serve a launch, and the kinds they are for. -/
def State.translations (s : State) (k : Kernel) (dbg : Bool) : List (CoreKind × LodeEntry) :=
  k.kinds.filterMap (fun kind => (s.serving k kind dbg).map (fun e => (kind, e)))

/-- Admission of the launch at the head: its translations are read and held, and the argument values, as they were read before it, are copied into
the argument block, a new page (R69, R329, R349, R350); it waits for a translation that the read has lost (R477) [14, DESIGN CHOICE]. -/
def State.admitTask (s0 : State) (q : Queue) (x : Ahead) (k : Kernel) (ws : List Word) : State :=
  let dbg := launchDbg ws
  let s := (s0.translations k dbg).foldl (fun s y => s.readEntry y.2) s0
  let held := (s.translations k dbg).map (fun y => (y.1, y.2.key))
  if held.length < k.kinds.length then s
  else
    let id := freshTask s.hub.tasks 4097 (s.hub.nextTask % 2 ^ 32)
    let t : Task := { taskOf q k ws id s.hub.nextOrder with held := held }
    let args := x.args.getD []
    let s1 : State :=
      match s.placeDie s.hub.config.package 65536 with
      | some pl =>
        if k.args = 0 then s
        else
          let pg : Page := { asid := q.asid, vbase := argBase id, size := 65536, place := pl, readOnly := true, pinned := false, parked := none }
          let m := (s.mem.clearRange pl.flat 65536).writeN pl.flat args
          { s with mem := m, pages := s.pages ++ [pg], poison := s.poison.filter (fun g => !(decide (pl.flat / 8 ≤ g) && decide (g < (pl.flat + 65536) / 8))) }
      | none => s
    let s2 : State := { s1 with hub := { s1.hub with
      tasks := s1.hub.tasks ++ [t], nextTask := (id + 1) % 2 ^ 32, nextOrder := s1.hub.nextOrder + 1
      lode := s1.hub.lode.map (fun (e : LodeEntry) => if t.holds e.key then { e with lastLaunch := s.ptp } else e) } }
    s2.consumeHead q.num

/-! ## The choice of the next packet (R352 to R354) -/

/-- No earlier task of the queue is unretired. -/
def State.queueIdle (s : State) (q : Queue) : Bool := !(s.hub.tasks.any (fun (t : Task) => t.queue == q.num))

/-- The head is issuable (R352). -/
def State.issuable (s : State) (q : Queue) : Bool :=
  if q.halted.isSome || q.haltReason.isSome then false
  else
    match q.headWords with
    | some ws =>
      (match pType ws with
       | 0 | 2 => true
       | 3 => !((ws.getD 0 0).getLsbD 8) || s.queueIdle q
       | 4 => s.queueIdle q && !(s.hub.cpHeld.any (fun w => w.queue == q.num && w.signal))
       | _ => q.staged && s.admissible q ws)
    | none => false

/-- The head is a launch. -/
def Queue.headLaunch (q : Queue) : Bool := match q.headWords with | some ws => pType ws == 1 | none => false

/-- The deadline of the head launch. -/
def Queue.headDeadline (q : Queue) : Nat := match q.headWords with | some ws => launchDeadline ws | none => 0

/-- The first element for which the key is least. -/
def leastBy {α : Type} (key : α → Nat) (l : List α) : Option α :=
  l.foldl (fun (a : Option α) x => match a with
    | none => some x
    | some b => if key x < key b then some x else some b) none

/-- The queue whose head issues next, with the packets left in its visit. -/
def State.nextQueue (s : State) : Option (Queue × Nat) :=
  let ok := s.hub.queues.filter s.issuable
  match leastBy (fun (q : Queue) => q.cls) ok with
  | none => none
  | some top =>
    let mine := ok.filter (fun (q : Queue) => q.cls == top.cls)
    if top.cls = 0 then
      match leastBy (fun (q : Queue) => q.num) (mine.filter (fun q => !q.headLaunch)) with
      | some q => some (q, q.weight)
      | none => (leastBy (fun (q : Queue) => q.headDeadline * 4096 + q.num) mine).map (fun q => (q, q.weight))
    else
      let at? := s.hub.rr.getD top.cls 0
      let pick := (leastBy (fun (q : Queue) => q.num) (mine.filter (fun (q : Queue) => at? ≤ q.num))).orElse (fun _ => leastBy (fun (q : Queue) => q.num) mine)
      pick.map (fun q => (q, if q.num = at? ∧ q.credit ≠ 0 then q.credit else q.weight))

/-- The visit of a queue after one more packet (R354). -/
def State.visited (s : State) (q : Queue) (credit : Nat) : State :=
  let left := credit - 1
  { s with hub := { s.hub with
    rr := s.hub.rr.set q.cls (if left = 0 then q.num + 1 else q.num)
    queues := s.hub.queues.map (fun (x : Queue) => if x.num = q.num then { x with credit := left } else if x.cls = q.cls then { x with credit := 0 } else x) } }

/-- A visit ends when its queue's head is found not issuable, and the queue's next visit has its full weight (R354). -/
def State.endVisits (s : State) : State :=
  s.hub.queues.foldl (fun (s : State) q =>
    if q.credit = 0 || (q.headLaunch && !q.staged) || s.issuable q then s
    else (s.updQueue q.num (fun x => { x with credit := 0 })).onHub (fun h =>
      { h with rr := if h.rr.getD q.cls 0 = q.num then h.rr.set q.cls (q.num + 1) else h.rr })) s

/-- Issue the head packet of a queue, when it is the one that issues next and its type is that of the event. -/
def State.issue (s : State) (n type : Nat) (go : Queue → List Word → State → Option State) : Result :=
  if !s.hub.serving then .next s
  else
    match s.nextQueue with
    | none => .next s
    | some (q, credit) =>
      match q.headWords with
      | some ws =>
        if q.num = n ∧ pType ws = type then
          (match go q ws (s.visited q credit) with
           | some s1 => .next s1
           | none => .next s)
        else .next s
      | none => .next s

/-- NOOP_PACKET -/
def execNoopPacket (queue : Nat) (s : State) : Result := s.issue queue 0 (fun q _ s => some (s.consumeHead q.num))

/-- CALL_PACKET: the packets of its buffer, which the look-ahead has entered, follow it (R346) [56, DEDUCED]. -/
def execCallPacket (queue : Nat) (s : State) : Result := s.issue queue 2 (fun q _ s => some (s.consumeHead q.num))

/-- JOIN_PACKET (R347) -/
def execJoinPacket (queue : Nat) (s : State) : Result := s.issue queue 3 (fun q _ s => some (s.consumeHead q.num))

/-- SIGNAL_PACKET: the value is written as a release at .sys, then the vector raised (R348). -/
def execSignalPacket (queue : Nat) (s : State) : Result :=
  s.issue queue 4 (fun q ws s =>
    let s1 := (s.writeBackEverywhere q.asid).cpWrite q.num q.asid (field (ws.getD 1 0) 0 56) (toBytesLE 8 (pWord ws 2))
      ((ws.getD 0 0).getLsbD 10) true
    some (s1.consumeHead q.num))

/-- TASK_ADMIT (R350) -/
def execTaskAdmit (queue : Nat) (s : State) : Result :=
  s.issue queue 1 (fun q ws s =>
    match q.ahead.head?, s.kernel? q.asid (launchHandle ws) with
    | some x, some k => some (s.admitTask q x k ws)
    | _, _ => none)

/-- UNASSIGNED_PACKET: a packet against the rules halts its queue (R513). -/
def execUnassignedPacket (queue : Nat) (s : State) : Result :=
  match s.queue? queue with
  | none => .next s
  | some q =>
    match q.haltReason with
    | some (r, a) =>
      when s (s.hub.serving && q.halted.isNone)
        ((s.updQueue queue (fun q => { q with halted := some r })).log { cause := 0, reason := r, addr := a })
    | none => .next s

/-! ## The look-ahead (R349) -/

/-- What the command processor meets where it reads: the bytes, a package in recovery, a page to be migrated (R513), or nothing readable. -/
inductive CpRead where
  | ready
  | wait
  | migrate (p : Page)
  | unreadable
deriving DecidableEq, Repr

/-- Bytes as the package's own engines read them: a host page is no address they reach, and reads as one without a translation (R390, R467)
[75, DESIGN CHOICE]. -/
def State.cpBytes (s : State) (asid va n : Nat) : List Byte :=
  if (blocksOf va n).any (s.inHost asid) then List.replicate n 0 else s.vaBytes asid va n
def State.cpLE (s : State) (asid va n : Nat) : Nat := ofBytesLE (s.cpBytes asid va n)

/-- A read of the command processor [38, DEDUCED]. -/
def State.cpRead (s : State) (asid a : Nat) : CpRead :=
  match s.page? asid a with
  | none => .unreadable
  | some p =>
    match p.place, s.route p.place.pkg a with
    | .host _, _ | _, some (.raise _) => .unreadable
    | _, some (.park _) => .wait
    | .hbm _ _ _, _ => .migrate p
    | .die _ _ _, _ => .ready

/-- The address of the next packet that the look-ahead passes, and whether it lies in the ring. -/
def Queue.lookAddr (q : Queue) : Option (Nat × Bool) :=
  match q.look with
  | f :: _ => some (f.addr, false)
  | [] =>
    let k := (q.ahead.filter (fun x => x.ring)).length
    if k < q.pending then some (q.ring + 64 * ((q.rd.toNat + k) % q.size), true) else none

/-- The number of the ring packet that the look-ahead passes next. -/
def Queue.lookIndex (q : Queue) : BitVec 32 := q.rd + BitVec.ofNat 32 (q.ahead.filter (fun x => x.ring)).length

def Ahead.isJoin (x : Ahead) : Bool := match x.words with | some ws => pType ws == 3 | none => false

/-- The look-ahead can pass a packet: it stands less than 64 ahead, behind no packet that halts the queue, and behind no join but one at the head
that waits for nothing (R347, R349) [38, DEDUCED]. -/
def State.looks (s : State) (q : Queue) : Bool :=
  q.halted.isNone && decide (q.ahead.length < 64) && q.ahead.all (fun x => x.halt.isNone)
  && !((q.ahead.drop 1).any Ahead.isJoin)
  && (match q.ahead with
      | x :: _ => !x.isJoin || s.queueIdle q || !((x.words.getD []).getD 0 0).getLsbD 8
      | [] => true)

/-- Called buffers whose packets have all been passed are left. -/
def dropDone : List CallFrame → List CallFrame
  | [] => []
  | f :: r => if f.left = 0 then dropDone r else f :: r

/-- The buffer that a call names, and its packets (R346). -/
def callAddr (ws : List Word) : Nat := field (ws.getD 1 0) 0 56
def callCount (ws : List Word) : Nat := field (ws.getD 2 0) 0 16 + 1

/-- The called buffers in which the look-ahead stands after a packet (R346). -/
def Queue.passed (q : Queue) (x : Ahead) : List CallFrame :=
  let call : Option CallFrame := match x.words with
    | some ws => if pType ws = 2 && x.halt.isNone then some { addr := callAddr ws, left := callCount ws } else none
    | none => none
  let rest := match q.look with
    | f :: r => { f with addr := f.addr + 64, left := f.left - 1 } :: r
    | [] => []
  match call with
  | some c => c :: rest
  | none => dropDone rest

/-- What stands in the way of reading a range, if anything (R467, R478, R513). -/
def State.argsBlock (s : State) (asid va n : Nat) : Option CpRead :=
  let l := (blocksOf va n).map (fun a => s.cpRead asid a)
  (l.find? (fun x => x == .unreadable)).orElse (fun _ => l.find? (fun x => x != .ready))

/-- The number of argument values that a launch's kernel takes (R69). -/
def State.argCount (s : State) (asid : Nat) (ws : List Word) : Nat := ((s.kernel? asid (launchHandle ws)).map (fun k => k.args)).getD 0

/-- A launch's argument values, with their number; the values none where they cannot be read (R478), and nothing while the read waits. -/
def State.readArgs (s : State) (asid : Nat) (ws : List Word) : Option (Option (List Byte) × Nat) :=
  let n := s.argCount asid ws
  match s.argsBlock asid (launchArgs ws) n with
  | some (.migrate _) | some .wait => none
  | some .unreadable => some (none, n)
  | _ => some (some (s.vaBytes asid (launchArgs ws) n), n)

/-- A read of argument values that meets a page in HBM asks for the page. -/
def State.argsWait (s : State) (asid : Nat) (ws : List Word) : State :=
  match s.argsBlock asid (launchArgs ws) (s.argCount asid ws) with
  | some (.migrate p) => s.wantPage p
  | _ => s

/-- The look-ahead passes a packet. -/
def State.pass (s : State) (n : Nat) (x : Ahead) : State :=
  s.updQueue n (fun q => { q with ahead := q.ahead ++ [x], look := q.passed x })

/-- The look-ahead of a queue reads the next packet and, of a launch, the argument values, which for a posted launch come with it (R349, R398). -/
def State.lookOne (s : State) (q : Queue) : State :=
  match q.lookAddr with
  | none => s
  | some (a, ring) =>
    match s.cpRead q.asid a with
    | .wait => s
    | .migrate p => s.wantPage p
    | .unreadable => s.pass q.num { addr := a, words := none, ring := ring, deep := false, lost := false, frames := q.look, args := some [] }
    | .ready =>
      let ws := (List.range 8).map (fun i => mkWord (s.vaLE q.asid (a + 8 * i) 8))
      let deep := pType ws == 2 && decide (8 ≤ q.look.length)
      let lost := pType ws == 2 && s.argsBlock q.asid (callAddr ws) (64 * callCount ws) == some .unreadable
      let x : Ahead := { addr := a, words := some ws, ring := ring, deep := deep, lost := lost, frames := q.look, args := some [] }
      if x.halt.isSome || pType ws != 1 then s.pass q.num x
      else
        match (if ring then s.hub.posted.find? (fun (p : Posted) => p.queue == q.num && p.slot == q.lookIndex.toNat) else none) with
        | some p => s.pass q.num { x with args := p.args.map (fun l => l.take (s.argCount q.asid ws)) }
        | none =>
          match s.readArgs q.asid ws with
          | some (args, _) => s.pass q.num { x with args := args }
          | none => s.argsWait q.asid ws

/-- The look-ahead of a queue goes on as far as it can. -/
def State.lookQueue (n : Nat) : Nat → State → State
  | 0, s => s
  | fuel + 1, s =>
    match s.queue? n with
    | some q =>
      if s.looks q && q.lookAddr.isSome then
        let s1 := s.lookOne q
        if (s1.queue? n).map (fun x => x.ahead.length) = some q.ahead.length then s1 else State.lookQueue n fuel s1
      else s
    | none => s

/-- Every queue's look-ahead goes on, and visits end (R349, R354) [38, DEDUCED]. -/
def State.lookAhead (s : State) : State :=
  if s.hub.serving && !s.hub.queues.isEmpty then (s.hub.queues.foldl (fun s (q : Queue) => State.lookQueue q.num 64 s) s).endVisits
  else s

/-! ## Launches toward admission (R345, R478) -/

/-- The posted launch at the head of its queue (R398). -/
def State.postedHead (s : State) (q : Queue) (x : Ahead) : Option Posted :=
  if x.ring then s.hub.posted.find? (fun (p : Posted) => p.queue == q.num && p.slot == q.rd.toNat) else none

/-- The values read for the head launch are not as many as its kernel takes: its object was loaded, or another loaded in its place, after the
look-ahead had passed it [14, DESIGN CHOICE]. -/
def State.argsStale (s : State) (q : Queue) (x : Ahead) (ws : List Word) : Bool :=
  (s.kernel? q.asid (launchHandle ws)).isSome
  && (match x.args with | some l => decide (l.length ≠ s.argCount q.asid ws) | none => false)

/-- The values of the head launch are read again; a posted launch keeps its slot's address and its frame number (R398) [14, DESIGN CHOICE]. -/
def State.reread (s : State) (q : Queue) (x : Ahead) (ws : List Word) : State :=
  let posted := s.postedHead q x
  let asid := (posted.map (fun p => p.asid)).getD q.asid
  let n := s.argCount q.asid ws
  let keep := match posted with | some p => (p.args.getD []).take 16 | none => []
  let put (a : Option (List Byte)) : State := s.updQueue q.num (fun q => { q with ahead := match q.ahead with
    | y :: r => { y with args := a } :: r
    | [] => [] })
  match s.argsBlock asid (launchArgs ws) n with
  | some (.migrate p) => s.wantPage p
  | some .wait => s
  | some .unreadable => put none
  | _ => put (some ((keep ++ (s.vaBytes asid (launchArgs ws) n).drop keep.length).take n))

/-- A read of the head launch's values can go on. -/
def State.rereads (s : State) (q : Queue) (x : Ahead) (ws : List Word) : Bool :=
  s.argsStale q x ws
  && (match s.argsBlock (((s.postedHead q x).map (fun p => p.asid)).getD q.asid) (launchArgs ws) (s.argCount q.asid ws) with
      | some (.migrate p) => p.parked.isNone
      | some .wait => false
      | _ => true)

/-- The issue stage has something to do with the launch at the head: its values to read, its refusal, which an object that goes while the launch waits
for admission brings too, or the way to admission. -/
def State.stages (s : State) (q : Queue) (x : Ahead) (ws : List Word) : Bool :=
  if s.argsStale q x ws then s.rereads q x ws
  else !q.staged || (s.kernel? q.asid (launchHandle ws)).isNone

/-- LAUNCH_PACKET: the launch at the head is issued toward admission, or refused (R345, R478). -/
def execLaunchPacket (queue : Nat) (s : State) : Result :=
  match s.queue? queue with
  | none => .next s
  | some q =>
    match q.ahead.head?, q.headWords with
    | some x, some ws =>
      if s.hub.serving && q.halted.isNone && q.haltReason.isNone && pType ws == 1 && s.stages q x ws then
        if s.argsStale q x ws then .next (s.reread q x ws)
        else
          match s.refusal q x ws with
          | some r => .next (s.refuseLaunch q ws r)
          | none => .next (s.updQueue queue (fun q => { q with staged := true }))
      else .next s
    | _, _ => .next s

/-! ## Translation (R329, R332, R335) -/

/-- The kernel and debugging of a passed launch, which asks for its translations. -/
def State.asks (s : State) (q : Queue) (x : Ahead) : Option (Kernel × Bool) :=
  match x.words, x.halt with
  | some ws, none => if pType ws = 1 then (s.kernel? q.asid (launchHandle ws)).map (fun k => (k, launchDbg ws)) else none
  | _, _ => none

/-- The kernels, with debugging, of the launches that the look-ahead has passed, each once. -/
def State.waiting (s : State) : List (Kernel × Bool) :=
  s.hub.queues.foldl (fun l (q : Queue) => if q.halted.isSome then l else q.ahead.foldl (fun (l : List (Kernel × Bool)) x =>
    match s.asks q x with
    | some k => if l.any (fun y => y.1.handle == k.1.handle && y.2 == k.2) then l else l ++ [k]
    | none => l) l) []

/-- A translation that a launch waits for is missing, and its peers' time for replies is over. -/
def State.misses (s : State) (handle : Nat) (kind : CoreKind) : Option (Kernel × Bool) :=
  s.waiting.find? (fun x => x.1.handle == handle && x.1.kinds.contains kind && !s.lodeHas x.1 kind x.2
    && !s.asking (s.newEntry x.1 kind x.2).key)

/-- TIARLO_TRANSLATE: a missing translation is asked for among the peers, and made on the active complex when none has it
[5, DESIGN CHOICE]. -/
def execTiarloTranslate (handle : Nat) (kind : CoreKind) (s : State) : Result :=
  match s.misses handle kind with
  | some (k, dbg) => when s (s.hub.ready.getLsbD 2) (s.obtain (s.newEntry k kind dbg))
  | none => .next s

/-- LODE_PEER_QUERY: the entry of a key is read and sent to the package that asks. -/
def execLodePeerQuery (package : Nat) (key : BitVec 256) (s : State) : Result :=
  when s (decide (package < s.hub.config.packages) && package != s.hub.config.package && s.hub.ready.getLsbD 2) (s.readKey key)

/-- LODE_PEER_REPLY: the first reply in time whose digest matches supplies the entry, with counters 0; another one is ignored. -/
def execLodePeerReply (package : Nat) (key : BitVec 256) (digestOk : Bool) (s : State) : Result :=
  match s.hub.asks.find? (fun (a : PeerAsk) => a.want.key == key && !a.late) with
  | some a =>
    when s (decide (package < s.hub.config.packages) && package != s.hub.config.package && digestOk) ((s.dropAsk key).lodeAdd a.want)
  | none => .next s

/-- LODE_PEER_TIMEOUT: no reply within 50 us, and Tiarlo translates. -/
def execLodePeerTimeout (key : BitVec 256) (s : State) : Result :=
  match s.hub.asks.find? (fun (a : PeerAsk) => a.want.key == key && !a.late) with
  | some a => when s (decide (a.since + 50000 ≤ s.ptp))
      (s.onHub (fun h => { h with asks := h.asks.map (fun (b : PeerAsk) => if b.want.key = key then { b with late := true } else b) }))
  | none => .next s

/-- The kernel, kind and debugging of an entry. -/
def State.kernelOf (s : State) (e : LodeEntry) : Option (Kernel × CoreKind × Bool) :=
  s.hub.objects.findSome? (fun (o : Object) => o.kernels.findSome? (fun k =>
    ([(CoreKind.dcore, false), (.dcore, true), (.lcore, false), (.lcore, true)].find? (fun x => e.isFor k x.1 x.2)).map (fun x => (k, x.1, x.2))))

/-- Intervals ended in an entry's code: the sum of exec over its records. -/
def LodeEntry.heat (e : LodeEntry) : Nat := e.counters.foldl (fun n c => n + c.exec) 0

/-- A translation made by Tiarlo that is hot and the latest of its kernel (R335). -/
def State.hot (s : State) (e : LodeEntry) : Option (Kernel × CoreKind × Bool) :=
  if decide (s.hub.config.hotThreshold ≤ e.heat) && !e.pinned && decide (e.gen < 15) then
    match s.kernelOf e with
    | some (k, kind, dbg) => if s.nextGen k kind dbg = e.gen + 1 then some (k, kind, dbg) else none
    | none => none
  else none

/-- REOPTIMISE: the kernel is translated again under generation + 1; the new entry serves later admissions. -/
def execReoptimise (key : BitVec 256) (s : State) : Result :=
  match (s.hub.lode.find? (fun (e : LodeEntry) => e.key == key && (s.hot e).isSome)).bind s.hot with
  | some (k, kind, dbg) => when s (s.hub.ready.getLsbD 2) ((s.lodeAdd (s.newEntry k kind dbg)).nextFree)
  | none => .next s

end Sys2Proof.Machine
end

