-- ==== Sys2Proof/Machine/Ports.lean ====
section
/-! DEFINITION. The host port (R384 to R387, R391, R514, R524 to R526): doorbells, device memory apertures and management
registers. -/

namespace Sys2Proof.Machine

/-- The record of a host access against the rules, at most one per reason per millisecond (R514). -/
def State.hostRecord (s : State) (reason offset : Nat) : State :=
  s.logLimited reason 1000000 { cause := 0, reason := reason, addr := offset }

/-! ## BAR0 (R342, R513) -/

/-- A doorbell write taken up by the command processor; one to no host queue's doorbell is dropped and changes nothing but the log (R514). -/
def State.ring (s0 : State) (offset : Nat) (value : BitVec 32) : State :=
  match s0.queue? (offset / 64) with
  | some q =>
    if q.device || offset % 64 != 0 then s0.hostRecord 21 offset
    else
      let s : State := { s0 with hub := { s0.hub with doorbells := Tab.set 0 s0.hub.doorbells q.num value } }
      if q.size < (value - q.rd).toNat then
        if q.halted.isSome then s
        else (s.updQueue q.num (fun q => { q with halted := some 22 })).log { cause := 0, reason := 22, addr := value.toNat }
      else s.updQueue q.num (fun q => { q with wr := value })
  | none => s0.hostRecord 21 offset

/-- Doorbells held before cmd was set are taken up in order (R387). -/
def State.releaseBells (s : State) : State :=
  let held := s.hub.heldBells
  held.foldl (fun s (b : Nat × BitVec 32) => s.ring b.1 b.2) { s with hub := { s.hub with heldBells := [] } }

/-- A doorbell write takes effect, or is held before cmd is set (R387). -/
def State.bell (s : State) (offset : Nat) (value : BitVec 32) : State :=
  if s.hub.serving then s.ring offset value
  else { s with hub := { s.hub with heldBells := s.hub.heldBells ++ [(offset, value)] } }

/-- DOORBELL: a write behind host accesses that wait keeps its place (R273, R385) [44, DEDUCED]. -/
def execDoorbell (offset : Nat) (value : BitVec 32) (s : State) : Result :=
  if s.hub.hostOps.isEmpty then .next (s.bell offset value)
  else .next { s with hub := { s.hub with hostOps := s.hub.hostOps ++ [.bell offset value] } }

/-- The doorbell that a waiting host access writes. -/
def HostOp.bell? : HostOp → Option (Nat × BitVec 32)
  | .bell o v => some (o, v)
  | .read _ _ | .write _ _ => none

/-- What a read of BAR0 returns: the value written last, of a write that waits too (R385) [44, DEDUCED]. -/
def State.bar0 (s : State) (offset : Nat) : BitVec 32 :=
  let waiting := (s.hub.heldBells ++ s.hub.hostOps.filterMap HostOp.bell?).filter (fun b => b.1 == offset)
  match waiting.getLast? with
  | some b => b.2
  | none => if offset % 64 = 0 then Tab.get 0 s.hub.doorbells (offset / 64) else 0

/-! ## BAR2 (R385, R514) -/

/-- The address space and virtual address of a byte of the window; none through a closed aperture. -/
def Hub.window (h : Hub) (offset : Nat) : Option (Nat × Nat) :=
  let w := h.win.getD (offset / 2 ^ 30) 0
  let asid := field w 0 12
  if asid = 0 then none else some (asid, field w 30 26 * 2 ^ 30 + offset % 2 ^ 30)

/-- What a host access to one byte meets. -/
inductive HostAcc where
  | ok | bad | wait
deriving DecidableEq, Repr

def HostAcc.join (a b : HostAcc) : HostAcc := if a = .bad ∨ b = .bad then .bad else if a = .wait ∨ b = .wait then .wait else .ok

def State.hostAcc (s : State) (asid va : Nat) (write : Bool) : HostAcc :=
  match s.page? asid va with
  | none => .bad
  | some p =>
    match p.place with
    | .host _ => .bad
    | _ =>
      if write && (p.readOnly || s.roRange asid va) then .bad
      else match s.route p.place.pkg va with
        | none => .ok
        | some (.park _) => .wait
        | some _ => .bad

/-- A page in HBM is brought into die memory for a host access; none when no frame is free (R385) [47, DEDUCED]. -/
def State.hostBring (s : State) (asid va : Nat) : Option State :=
  match s.page? asid va with
  | none => none
  | some p =>
    match p.place with
    | .hbm pkg _ _ => (s.placeDie pkg p.size).map (fun d => (s.movePage p d).wakePage asid p.vbase)
    | _ => some s

/-- The pages of a range in HBM are asked for as by a parked access (R464). -/
def State.hostWant (s : State) (asid va n : Nat) : State :=
  (blocksOf va n).foldl (fun (s : State) b => match s.page? asid b with
    | some p => (match p.place with | .hbm _ _ _ => s.wantPage p | _ => s)
    | none => s) s

/-- The access as a whole, with the pages it touches brought in; n bytes of one aperture. Without a frame it waits, and after 10 ms its migration has
failed (R385, R465) [47, DEDUCED]. -/
def State.hostReach (s : State) (offset n : Nat) (write late : Bool) : HostAcc × State :=
  match s.hub.window offset with
  | none => (.bad, s)
  | some (asid, va) =>
    let bs := blocksOf va n
    let a := bs.foldl (fun x b => x.join (s.hostAcc asid b write)) HostAcc.ok
    if a != .ok then (a, s)
    else match bs.foldl (fun (r : Option State) b => r.bind (fun s => s.hostBring asid b)) (some s) with
      | some s1 => (.ok, s1)
      | none => if late then (.bad, s) else (.wait, s.hostWant asid va n)

/-- A read through the window: the bytes at their home slices, or all ones with a record (R514); none while it waits. -/
def State.hostLoad (s : State) (offset n : Nat) (late : Bool) : State × Bool :=
  let r := s.hostReach offset n false late
  match r.1, s.hub.window offset with
  | .wait, _ => (r.2, false)
  | .ok, some (asid, va) => ({ r.2 with hub := { r.2.hub with hostRead := r.2.vaBytes asid va n } }, true)
  | _, _ =>
    let s1 := s.hostRecord 20 offset
    ({ s1 with hub := { s1.hub with hostRead := List.replicate n 0xFF } }, true)

/-- A write through the window: the bytes at their home slices, or dropped with a record; false while it waits. -/
def State.hostStore (s : State) (offset : Nat) (bytes : List Byte) (late : Bool) : State × Bool :=
  let r := s.hostReach offset bytes.length true late
  match r.1, s.hub.window offset with
  | .wait, _ => (r.2, false)
  | .ok, some (asid, va) => (r.2.putVa asid va bytes, true)
  | _, _ => (s.hostRecord 20 offset, true)

/-- Perform a host access; false while it waits. -/
def State.hostDo (s : State) (o : HostOp) (late : Bool) : State × Bool :=
  match o with
  | .read offset n => s.hostLoad offset n late
  | .write offset bytes => s.hostStore offset bytes late
  | .bell offset value => (s.bell offset value, true)

/-- A host access is performed, or waits behind those that wait. -/
def State.hostAsk (s : State) (o : HostOp) : State :=
  if s.hub.hostOps.isEmpty then
    let r := s.hostDo o false
    if r.2 then r.1 else { r.1 with hub := { r.1.hub with hostOps := [o], hostSince := s.ptp } }
  else { s with hub := { s.hub with hostOps := s.hub.hostOps ++ [o] } }

/-- BAR2_READ [47, DEDUCED] -/
def execBar2Read (offset bytes : Nat) (s : State) : Result := .next (s.hostAsk (.read offset bytes))

/-- BAR2_WRITE [47, DEDUCED] -/
def execBar2Write (offset : Nat) (bytes : List Byte) (s : State) : Result := .next (s.hostAsk (.write offset bytes))

/-- Host accesses that wait are tried again, in order (R385). -/
def State.hostRetry : Nat → State → State
  | 0, s => s
  | fuel + 1, s =>
    match s.hub.hostOps with
    | [] => s
    | o :: rest =>
      let r := s.hostDo o (decide (s.hub.hostSince + 10000000 ≤ s.ptp))
      if r.2 then State.hostRetry fuel { r.1 with hub := { r.1.hub with hostOps := rest, hostSince := s.ptp } } else r.1

/-- What the host has written into its own memory by now is there (R390). -/
def State.hostMemory : Nat → State → State
  | 0, s => s
  | fuel + 1, s =>
    match s.hostWrites with
    | (time, bus, bytes) :: rest =>
      if time ≤ s.now then State.hostMemory fuel { s with mem := s.mem.writeN (2 ^ 60 + bus) bytes, hostWrites := rest } else s
    | [] => s

/-- A job of another package whose chunks come over the links by now: it stands beside the package's own jobs under a new number, and its chunks are
on their way (R270, R525) [21, DESIGN CHOICE]. -/
def State.peerArrive (s : State) (j : Job) (xs : List Transit) : State :=
  let job : Job := { j with id := s.nextJob, rid := 65536, foreign := true, lost := false, chunks := xs.length, taken := xs.length, done := 0 }
  let number := (xs.zip (List.range xs.length)).map (fun (x : Transit × Nat) =>
    ({ x.1 with id := s.nextTransit + x.2, job := s.nextJob, marked := none, buffer := none
                read := none, landed := none, noted := false } : Transit))
  { s with jobs := s.jobs ++ [job], nextJob := s.nextJob + 1, transits := s.transits ++ number, nextTransit := s.nextTransit + xs.length }

/-- What the other packages have sent by now arrives. -/
def State.peerTurn : Nat → State → State
  | 0, s => s
  | fuel + 1, s =>
    match s.peerJobs with
    | (time, j, xs) :: rest => if time ≤ s.now then State.peerTurn fuel ({ s with peerJobs := rest }.peerArrive j xs) else s
    | [] => s

/-- A context of another package acts on a page of this package's die memory: at its home slice, or at its home face unit (R268, R271). It finds a page in
HBM only once that has been brought in (R463); where there is no such page, or none that it may write, the cause is raised on its own package [21, DESIGN CHOICE]. -/
def State.peerAct (s : State) (asid va : Nat) (x : PeerAct) : Option State :=
  match s.page? asid va with
  | none => some s
  | some p =>
    match p.place with
    | .host _ => some s
    | .hbm pkg _ _ => if pkg = s.hub.config.package then none else some s
    | .die pkg _ _ =>
      if pkg != s.hub.config.package || p.readOnly || s.roRange asid va then some s
      else
        match x with
        | .store bs => some (s.putVa asid va bs)
        | .unit ty op =>
          let n := tyBytes ty
          some (match (op.apply ty (BitVec.ofNat 64 (s.vaLE asid va n))).1 with | some w => s.putVa asid va (toBytesLE n w.toNat) | none => s)

/-- What contexts of the other packages have done by now is done, in their order [21, DESIGN CHOICE]. -/
def State.peerActTurn : Nat → State → State
  | 0, s => s
  | fuel + 1, s =>
    match s.peerActs with
    | (time, asid, va, x) :: rest =>
      if s.now < time then s
      else
        match s.peerAct asid va x with
        | some s1 => State.peerActTurn fuel { s1 with peerActs := rest }
        | none => ((s.page? asid va).map s.wantPage).getD s
    | [] => s

/-- What the host, the other packages and the waiting writes of the command processor do between the package's own steps. -/
def State.hostTurn (s : State) : State :=
  let s0 := State.peerActTurn s.peerActs.length (State.peerTurn s.peerJobs.length (State.hostMemory s.hostWrites.length s))
  let s1 := if s0.hub.cpHeld.isEmpty then s0 else s0.cpRetry
  if s1.hub.hostOps.isEmpty then s1 else State.hostRetry s1.hub.hostOps.length s1

/-! ## BAR4 (R386, R387, R391, R514) -/

/-- A value of the event ring's words. -/
def EvRec.word (e : EvRec) (i : Nat) : Word := match i with | 0 => e.w0 | 1 => e.w1 | 2 => e.w2 | _ => e.w3

/-- What a read of a management register returns (R386). -/
def State.bar4 (s : State) (offset : Nat) : Word :=
  let h := s.hub
  if offset = 0 then 0x01010C40
  else if offset = 8 then h.ready
  else if offset = 0x10 then (if h.role then 1 else 0)
  else if offset = 0x18 then mkWord (s.ptp / 1000000000 % 2 ^ 48)
  else if offset = 0x20 then h.ptpLatch
  else if offset = 0x40 then mkWord ((if h.cmdGo then 1 else 0) + h.cmdSt * 256)
  else if offset = 0x48 then (if h.ready.getLsbD 0 then h.cmdRes else mkWord h.bootStatus)
  else if offset = 0x50 then mkWord h.evHead
  else if offset = 0x58 then mkWord h.evTail
  else if offset = 0x60 then mkWord h.evVec
  else if 0x100 ≤ offset ∧ offset < 0x180 ∧ offset % 8 = 0 then h.win.getD ((offset - 0x100) / 8) 0
  else if offset = 0x400 then (if h.config.testMode then h.injCtl else 0)
  else if offset = 0x408 then (if h.config.testMode then h.injKey else 0)
  else if offset = 0x410 then (if h.config.testMode then h.injXor else 0)
  else if 0x1000 ≤ offset ∧ offset < 0x1040 ∧ offset % 8 = 0 then h.cmd.getD ((offset - 0x1000) / 8) 0
  else if 0x2000 ≤ offset ∧ offset < 0x2800 ∧ offset % 8 = 0 then
    (h.evRing.getD ((offset - 0x2000) / 32) EvRec.zero).word ((offset - 0x2000) / 8 % 4)
  else 0

/-- PTPSEC: a read returns the seconds and latches the nanoseconds. -/
def execPtpsec (s : State) : Result :=
  .next { s with hub := { s.hub with ptpLatch := mkWord (s.ptp % 1000000000)
                                     hostRead := toBytesLE 8 (s.ptp / 1000000000 % 2 ^ 48) } }

/-- EVHEAD: the slots the head passes are freed and held events written (R391); a value equal to the head passes none [20, DEDUCED]. -/
def execEvhead (value : Word) (s : State) : Result :=
  let h := value.toNat % 64
  let read := (h + 64 - s.hub.evHead) % 64
  .next (State.flushEvents 64 { s with hub := { s.hub with evHead := h, evUnread := s.hub.evUnread - read } })

/-- INJCTL: arms the injector or clears fired; outside test mode the write is dropped (R524, R526). -/
def execInjctl (value : Word) (s : State) : Result :=
  if !s.hub.config.testMode then .next (s.hostRecord 20 0x400)
  else
    let old := s.hub.injCtl
    let fired := old.getLsbD 1 && !value.getLsbD 1
    let kept : Word := value &&& 0x000007FFFFFF1F01
    let count := if value.getLsbD 0 && !old.getLsbD 0 then 0 else s.hub.injCount
    .next { s with hub := { s.hub with injCtl := if fired then kept ||| 2 else kept, injCount := count } }

/-- BAR4_REGISTER_WRITE: stored, ignored where no register stands, or dropped with a record [45, DEDUCED]. -/
def execBar4RegisterWrite (offset : Nat) (value : Word) (s : State) : Result :=
  let h := s.hub
  let drop : Result := .next (s.hostRecord 20 offset)
  let keep (h : Hub) : Result := .next { s with hub := h }
  if offset = 0x40 then
    if value.getLsbD 0 && !h.cmdGo then keep { h with cmdGo := true, cmdSince := s.now } else .next s
  else if offset = 0x50 then execEvhead value s
  else if offset = 0x60 then keep { h with evVec := value.toNat % 2048 }
  else if 0x100 ≤ offset ∧ offset < 0x180 ∧ offset % 8 = 0 then
    keep { h with win := h.win.set ((offset - 0x100) / 8) (value &&& 0x00FFFFFFC0000FFF) }
  else if offset = 0x400 then execInjctl value s
  else if offset = 0x408 then (if h.config.testMode then keep { h with injKey := value } else drop)
  else if offset = 0x410 then (if h.config.testMode then keep { h with injXor := value } else drop)
  else if 0x1000 ≤ offset ∧ offset < 0x1040 ∧ offset % 8 = 0 then
    (if h.cmdGo then drop else keep { h with cmd := h.cmd.set ((offset - 0x1000) / 8) value })
  else if offset = 0 ∨ offset = 8 ∨ offset = 0x10 ∨ offset = 0x18 ∨ offset = 0x20 ∨ offset = 0x48 ∨ offset = 0x58
      ∨ (0x2000 ≤ offset ∧ offset < 0x2800 ∧ offset % 8 = 0) then drop
  else .next s

end Sys2Proof.Machine
end

