-- ==== Sys2Proof/Machine/Commands.lean ====
section
/-! DEFINITION. Code objects (R322 to R328, R511), and the management commands (R388, R396, R403, R510 to R518). -/

namespace Sys2Proof.Machine

/-! ## Running a command (R387, R510) -/

def State.cmdWord (s : State) (i : Nat) : Word := s.hub.cmd.getD i 0
def State.cmdField (s : State) (i lo n : Nat) : Nat := field (s.cmdWord i) lo n

/-- The command completes with a status and a result. -/
def State.cmdDone (s : State) (st res : Nat) : State :=
  { s with hub := { s.hub with cmdGo := false, cmdSt := st, cmdRes := mkWord res } }

/-- The command in CMD has this code and runs now. -/
def State.cmdRuns (s : State) (code : Nat) : Bool := s.hub.cmdGo && s.hub.serving && s.cmdField 0 0 8 == code

/-- The first offending word of a list of conditions on words, as (word, holds). -/
def offending (l : List (Nat × Bool)) : Option Nat := ((l.filter (fun x => !x.2)).map (fun x => x.1)).min?

/-- Bits of a word that have to be 0. -/
def State.zeroAbove (s : State) (i lo : Nat) : Nat × Bool := (i, s.cmdField i lo (64 - lo) == 0)

/-- Words from i on have to be 0. -/
def State.zeroFrom (s : State) (i : Nat) : List (Nat × Bool) := ((List.range 8).filter (fun k => i ≤ k)).map (fun k => (k, s.cmdWord k == 0))

/-- A command: its operand conditions give st = 2 with the first offending word; else it goes on. -/
def State.command (s : State) (code : Nat) (checks : List (Nat × Bool)) (go : Result) : Result :=
  if !s.cmdRuns code then .next s
  else match offending (s.zeroAbove 0 8 :: checks) with
    | some i => .next (s.cmdDone 2 i)
    | none => go

/-! ## Queues -/

/-- The operand conditions of QCREATE [55, DEDUCED]. -/
def State.qcreateWords (s : State) : List (Nat × Bool) :=
  let log := s.cmdField 1 46 5
  [(1, s.cmdField 1 12 12 != 0 && (s.cmdField 1 24 2 == 0 || s.cmdField 1 26 8 != 0) && decide (6 ≤ log) && decide (log ≤ 16) && s.cmdField 1 51 13 == 0),
   (2, s.cmdField 2 0 12 == 0 && s.cmdField 2 56 8 == 0), (3, s.cmdField 3 0 3 == 0 && s.cmdField 3 56 8 == 0)] ++ s.zeroFrom 4

/-- The queue that QCREATE describes. -/
def State.newQueue (s : State) : Queue :=
  { num := s.cmdField 1 0 12, ring := (s.cmdWord 2).toNat, size := 2 ^ s.cmdField 1 46 5, asid := s.cmdField 1 12 12, cls := s.cmdField 1 24 2
    weight := s.cmdField 1 26 8, rptr := (s.cmdWord 3).toNat, device := s.cmdField 1 34 1 == 1, vector := s.cmdField 1 35 11, wr := 0, rd := 0
    ahead := [], look := [], halted := none, staged := false, credit := 0, lastDrop := none }

/-- QCREATE -/
def execQcreate (s : State) : Result :=
  let n := s.cmdField 1 0 12
  s.command 0x01 s.qcreateWords
    (if (s.queue? n).isSome then .next (s.cmdDone 3 0)
     else .next (({ s with hub := { s.hub with queues := s.hub.queues ++ [s.newQueue] } }).cmdDone 0 0))

/-- QDESTROY: a queue with no pending packet and no unretired task; a halted one's pending packets are discarded. -/
def execQdestroy (s : State) : Result :=
  let n := s.cmdField 1 0 12
  s.command 0x02 (s.zeroAbove 1 12 :: s.zeroFrom 2)
    (match s.queue? n with
     | none => .next (s.cmdDone 3 0)
     | some q =>
       if (q.halted.isNone && (q.pending != 0 || !q.ahead.isEmpty || !q.look.isEmpty)) || s.hub.tasks.any (fun (k : Task) => k.queue == n) then .next (s.cmdDone 3 0)
       else .next (({ s with hub := { s.hub with queues := s.hub.queues.filter (fun (x : Queue) => x.num != n)
                                                 posted := s.hub.posted.filter (fun (p : Posted) => p.queue != n) } }).cmdDone 0 0))

/-! ## Pages (R388, R390, R512) -/

def pageBytes (code : Nat) : Nat := match code with | 0 => 65536 | 1 => 2097152 | _ => 1073741824

/-- A range of an address space meets a page. -/
def meetsPage (asid lo n : Nat) (p : Page) : Bool := p.asid == asid && n != 0 && decide (p.vbase < lo + n) && decide (lo < p.vbase + p.size)

/-- The operands of MAP. -/
structure MapCmd where
  asid : Nat
  size : Nat
  inDie : Bool
  die : Nat
  dieGiven : Bool
  pkg : Nat
  host : Bool
  base : Nat
  count : Nat
  bus : Nat
deriving DecidableEq, Repr

/-- A choice or a reading of the model: [40, DEDUCED]. -/
def State.mapCmd (s : State) : MapCmd :=
  { asid := s.cmdField 1 0 12, size := pageBytes (s.cmdField 1 12 2), inDie := s.cmdField 1 14 1 == 1, die := s.cmdField 1 15 2
    dieGiven := s.cmdField 1 17 1 == 1, pkg := s.cmdField 1 18 6, host := s.cmdField 1 24 1 == 1, base := (s.cmdWord 2).toNat
    count := (s.cmdWord 3).toNat, bus := (s.cmdWord 4).toNat }

/-- The READY bit a MAP waits for: the named die, any die of the package, or any stack (R400, R509); 41 stands for another
package's links [40, DEDUCED]. -/
def State.mapBlocked (s : State) (m : MapCmd) : Option Nat :=
  if m.host then none
  else if m.pkg != s.hub.config.package then (if s.hub.reaches m.pkg then none else some 41)
  else if m.inDie && m.dieGiven then (if s.dieReady m.pkg m.die then none else some (4 + m.die))
  else if m.inDie then (if [0, 1, 2, 3].any (s.dieReady m.pkg) then none else some 4)
  else if (List.range 12).any (s.stackReady m.pkg) then none else some 8

/-- A place for one page of a MAP: die memory first where asked for, else HBM (R388). -/
def State.mapPlace (s : State) (m : MapCmd) : Option Place :=
  let die := if !m.inDie then none
    else if m.dieGiven then (s.freeDie m.pkg m.die m.size).map (fun f => Place.die m.pkg m.die f)
    else s.placeDie m.pkg m.size
  die.orElse (fun _ => s.placeHbm m.pkg m.size)

/-- Map count pages from an address on; how many found no frame. -/
def State.mapPagesFrom (m : MapCmd) : Nat → Nat → State → State × Nat
  | 0, _, s => (s, 0)
  | n + 1, k, s =>
    let page (pl : Place) : Page := { asid := m.asid, vbase := m.base + k * m.size, size := m.size, place := pl, readOnly := false, pinned := false, parked := none }
    if m.host then
      State.mapPagesFrom m n (k + 1) { s with pages := s.pages ++ [page (.host (m.bus + k * m.size))] }
    else
      match s.mapPlace m with
      | some pl =>
        let a := pl.flat
        let s1 : State := { s with mem := s.mem.clearRange a m.size, pages := s.pages ++ [page pl]
                                   poison := s.poison.filter (fun g => !(decide (a / 8 ≤ g) && decide (g < (a + m.size) / 8))) }
        State.mapPagesFrom m n (k + 1) s1
      | none => (s, n + 1)

/-- The operand conditions of MAP. -/
def State.mapWords (s : State) : List (Nat × Bool) :=
  let m := s.mapCmd
  [(1, m.asid != 0 && s.cmdField 1 12 2 != 3 && decide (m.pkg < s.hub.config.packages) && s.cmdField 1 25 39 == 0
        && (!m.host || (decide (s.cmdField 1 12 2 ≤ 1) && s.cmdField 1 14 10 == 0))),
   (2, m.base % m.size == 0 && decide (m.base + m.count * m.size ≤ 2 ^ 56)), (3, m.count != 0),
   (4, if m.host then m.bus % m.size == 0 else m.bus == 0)] ++ s.zeroFrom 5

/-- A MAP has its operands right and maps nothing twice, and waits for a unit (R400, R509). -/
def State.mapWaits (s : State) : Bool :=
  let m := s.mapCmd
  (offending (s.zeroAbove 0 8 :: s.mapWords)).isNone && !s.pages.any (meetsPage m.asid m.base (m.count * m.size)) && (s.mapBlocked m).isSome

/-- MAP -/
def execMapPages (s : State) : Result :=
  let m := s.mapCmd
  s.command 0x10 s.mapWords
    (if s.pages.any (meetsPage m.asid m.base (m.count * m.size)) then .next (s.cmdDone 3 0)
     else if (s.mapBlocked m).isSome then .next s
     else
       let r := State.mapPagesFrom m m.count 0 s
       if r.2 = 0 then .next (r.1.cmdDone 0 0) else .next (s.cmdDone 11 r.2))

/-- The READY bit a MAP has waited for too long (R509). -/
def State.mapOverdue (s : State) : Option Nat :=
  match s.cmdRuns 0x10, s.mapBlocked s.mapCmd with
  | true, some bit => if Nat.max s.hub.cmdSince (s.hub.cmdAt.getD 0) + 10000000000 ≤ s.now then some bit else none
  | _, _ => none

/-- MAP_WAIT_TIMEOUT (R509) -/
def execMapWaitTimeout (s : State) : Result :=
  match s.mapOverdue with
  | some bit => .next (s.cmdDone 5 bit)
  | none => .next s

/-- The operand conditions of UNMAP. -/
def State.unmapWords (s : State) : List (Nat × Bool) :=
  let lo := (s.cmdWord 2).toNat
  let n := 65536 * (s.cmdWord 3).toNat
  [(1, s.cmdField 1 0 12 != 0 && s.cmdField 1 12 52 == 0), (2, lo % 65536 == 0 && decide (lo ≤ 2 ^ 56)), (3, decide (lo + n ≤ 2 ^ 56))] ++ s.zeroFrom 4

/-- An UNMAP waits for operations on their way to its pages. -/
def State.unmapWaits (s : State) : Bool :=
  let hit := s.pages.filter (meetsPage (s.cmdField 1 0 12) (s.cmdWord 2).toNat (65536 * (s.cmdWord 3).toNat))
  (offending (s.zeroAbove 0 8 :: s.unmapWords)).isNone && hit.any s.pageBusy

/-- UNMAP: pages wholly inside the range go; gangs parked on them end with 196 (R466, R512). Lines of theirs in an L1 stay there
[91, DESIGN CHOICE]. -/
def execUnmap (s : State) : Result :=
  let asid := s.cmdField 1 0 12
  let lo := (s.cmdWord 2).toNat
  let n := 65536 * (s.cmdWord 3).toNat
  s.command 0x11 s.unmapWords
    (let hit := s.pages.filter (meetsPage asid lo n)
     let whole (p : Page) : Bool := decide (lo ≤ p.vbase) && decide (p.vbase + p.size ≤ lo + n)
     if hit.any (fun p => !whole p) then .next (s.cmdDone 3 0)
     else if hit.any s.pageBusy then .next s
     else
       let s1 := hit.foldl (fun s (p : Page) => s.failPage p 196) s
       let isHost (p : Page) : Bool := match p.place with | .host _ => true | _ => false
       let s2 : State := { s1 with pages := s1.pages.filter (fun p => !meetsPage asid lo n p)
                                   mem := hit.foldl (fun (m : Memory) p => if isHost p then m else m.clearRange p.place.flat p.size) s1.mem }
       .next (s2.cmdDone 0 hit.length))

/-! ## Code objects -/

def le (img : List Byte) (off n : Nat) : Nat := ofBytesLE ((img.drop off).take n)

/-- A section table entry (R323). -/
structure Section where
  type : Nat
  kind : Nat
  step : Nat
  link : Nat
  off : Nat
  len : Nat
  name : Nat
  rsv : Nat
deriving DecidableEq, Repr

def Section.read (img : List Byte) (at' : Nat) : Section :=
  { type := le img at' 1, kind := le img (at' + 1) 1, step := le img (at' + 2) 2, link := le img (at' + 4) 4, off := le img (at' + 8) 8
    len := le img (at' + 16) 8, name := le img (at' + 24) 4, rsv := le img (at' + 28) 4 }

def Section.bytes (img : List Byte) (x : Section) : List Byte := (img.drop x.off).take x.len

/-- The header is wrong (R322, R511) [102, DESIGN CHOICE]. -/
def headerBad (img : List Byte) : Bool :=
  le img 0 4 != 0x4F43564E || le img 4 2 != 1 || le img 6 2 == 0 || le img 8 8 % 32 != 0 || decide (img.length < le img 16 8)
  || decide (le img 16 8 < le img 8 8 + 32 * le img 6 2) || decide (img.length < 64) || le img 24 40 != 0

def sectionsOf (img : List Byte) : List Section := (List.range (le img 6 2)).map (fun i => Section.read img (le img 8 8 + 32 * i))

/-- An element of a kernel descriptor section lies outside its range (R325). -/
def descriptorBad (d : List Byte) (jvLen : Nat) : Bool :=
  let w2 := le d 16 8
  let w3 := le d 24 8
  let f (w lo n : Nat) : Nat := w / 2 ^ lo % 2 ^ n
  let gangs := f w2 32 5
  let scr := f w2 40 21
  let hauls := f w3 0 7
  le d 4 4 != 0 || le d 8 8 % 8 != 0 || decide (jvLen < le d 8 8 + f w2 0 32) || gangs == 0 || decide (16 < gangs) || f w2 37 3 != 0
  || decide (1048576 < scr) || f w2 61 3 != 0 || decide (64 < hauls) || f w3 7 2 == 3 || decide (12 < f w3 9 4) || f w3 13 3 != 0
  || decide (4096 < f w3 16 13) || f w3 29 35 != 0 || le d 48 16 != 0

/-- The pieces of n bytes of a section. -/
def piecesOf (bs : List Byte) (n : Nat) : List (List Byte) := (List.range (bs.length / n)).map (fun i => (bs.drop (n * i)).take n)

/-- The symbols of an object: name, section, class, value (R324) [103, DESIGN CHOICE]. -/
def symbolsOf (img : List Byte) (ss : List Section) : List (List Byte) :=
  match ss.find? (fun x => x.type == 7) with
  | some x => piecesOf (x.bytes img) 24
  | none => []

/-- A section is wrong (R511). -/
def sectionBad (img : List Byte) (ss : List Section) (i : Nat) (x : Section) : Bool :=
  let jv := ((ss.find? (fun y => y.type == 1)).map (fun y => y.len)).getD 0
  let native := x.type == 2 || x.type == 3
  let linkTo (t : Nat) : Bool := ((ss[x.link]?).map (fun y => y.type == t)).getD false
  let nsym := (symbolsOf img ss).length
  x.type == 0 || decide (9 < x.type) || x.rsv != 0 || x.off % 64 != 0 || decide (le img 16 8 < x.off + x.len)
  || (if native then x.kind != 1 && x.kind != 2 else x.kind != 0 || x.step != 0)
  || (x.type == 2 && !linkTo 3) || (x.type == 3 && !linkTo 2)
  || ((ss.take i).any (fun y => decide (0 < x.len) && decide (0 < y.len) && decide (x.off < y.off + y.len) && decide (y.off < x.off + x.len)))
  || (x.type == 6 && (x.len % 64 != 0 || (piecesOf (x.bytes img) 64).any (fun d => descriptorBad d jv)))
  || (x.type == 7 && (piecesOf (x.bytes img) 24).any (fun y => decide (4 < le y 6 1) || decide (1 < le y 7 1)))
  || (x.type == 8 && (piecesOf (x.bytes img) 16).any (fun r =>
        decide (nsym ≤ le r 8 4) || (le r 14 1 != 1 && le r 14 1 != 2)
        || (match ss[le r 12 2]? with | some y => decide (y.len < le r 0 8 + 8) | none => true)))

/-- Where the object is rejected: the first section, or the header (R510, R511). -/
def objectBad (img : List Byte) : Option Nat :=
  if headerBad img then some 0xFFFFFFFF
  else
    let ss := sectionsOf img
    match (ss.zip (List.range ss.length)).find? (fun x => sectionBad img ss x.2 x.1) with
    | some x => some x.2
    | none => if (ss.filter (fun x => x.type == 1)).length = 1 then none else some 0xFFFFFFFF

/-- A choice or a reading of the model: [25, DESIGN CHOICE]. -/
def up64 (n : Nat) : Nat := (n + 63) / 64 * 64

/-- The virtual address of each section in the load region: constants, then data, then JV code, each on 64 bytes; none for the
sections that are not loaded [25, DESIGN CHOICE]. -/
def layout (ss : List Section) (base : Nat) : List (Option Nat) :=
  let go (types : List Nat) (acc : List (Nat × Nat) × Nat) : List (Nat × Nat) × Nat :=
    (ss.zip (List.range ss.length)).foldl (fun a x =>
      if types.contains x.1.type then (a.1 ++ [(x.2, a.2)], up64 (a.2 + x.1.len)) else a) acc
  let r := go [1] (go [5] (go [4] ([], up64 base)))
  (List.range ss.length).map (fun i => (r.1.find? (fun x => x.1 == i)).map (fun x => x.2))

/-- The sections that are loaded, with their addresses. -/
def loadedAt (ss : List Section) (lay : List (Option Nat)) : List (Section × Nat) :=
  (ss.zip lay).filterMap (fun x => x.2.map (fun a => (x.1, a)))

/-- The end of the load region in use [25, DESIGN CHOICE]. -/
def layoutEnd (ss : List Section) (base : Nat) : Nat := (loadedAt ss (layout ss base)).foldl (fun m x => Nat.max m (x.2 + x.1.len)) base

/-- The value a relocation writes: the symbol's virtual address, or its `.equ` value; a section that is not loaded counts as standing at 0
[94, DESIGN CHOICE]. -/
def symbolVa (lay : List (Option Nat)) (y : List Byte) : Nat := if le y 6 1 = 4 then le y 8 8 else (lay.getD (le y 4 2) none).getD 0 + le y 8 8

/-- The image with every relocation applied (R326). -/
def relocate (img : List Byte) (ss : List Section) (lay : List (Option Nat)) : List Byte :=
  let syms := symbolsOf img ss
  let rels := (ss.filter (fun x => x.type == 8)).flatMap (fun x => piecesOf (x.bytes img) 16)
  rels.foldl (fun (b : List Byte) r =>
    let at' := ((ss[le r 12 2]?).map (fun x => x.off)).getD 0 + le r 0 8
    let va := symbolVa lay (syms.getD (le r 8 4) [])
    let v := if le r 14 1 = 1 then va % 2 ^ 64 else va % 2 ^ 56 + le b at' 8 / 2 ^ 56 * 2 ^ 56
    b.take at' ++ toBytesLE 8 v ++ b.drop (at' + 8)) img

/-- A NUL-terminated name. -/
def nameAt (img : List Byte) (ss : List Section) (off : Nat) : List Byte :=
  match ss.find? (fun x => x.type == 9) with
  | some x => ((x.bytes img).drop off).takeWhile (fun b => b != 0)
  | none => []

/-- A record of the side tables (R315). -/
def recordOf (b : List Byte) : Record :=
  { jvpc := le b 0 7, eq := le b 7 1 % 2 == 1, keyed := le b 7 1 / 2 % 2 == 1, npc := le b 8 7, xpc := le b 16 8, safe := le b 24 7
    nmap := le b 32 2, rrb := le b 34 1 % 64, first := le b 36 4 }

/-- A map entry (R316). -/
def mapEntryOf (b : List Byte) : MapEntry := { jvreg := le b 0 4, loc := le b 4 2, kind := le b 6 1 % 8, hi := le b 6 1 / 8 % 2 == 1 }

/-- Pinned code with its side tables (R314) [101, DESIGN CHOICE]. -/
def natCodeOf (code side : List Byte) : NatCode :=
  let nrec := le side 0 4
  let nkey := le side 4 4
  let recs (from' n : Nat) : List Record := (List.range n).map (fun i => recordOf ((side.drop (from' + 40 * i)).take 40))
  { code := (List.range (code.length / 8)).map (wordAt code), indexed := recs 16 nrec, keyed := recs (16 + 40 * nrec) nkey
    maps := (piecesOf (side.drop (le side 8 4)) 8).map mapEntryOf, spillSize := le side 12 4 }

/-- The pinned code of a kernel for a kind, where its stepping is A1 (R327) [103, DESIGN CHOICE]. -/
def pinnedOf (img : List Byte) (ss : List Section) (name kind : Nat) : Option NatCode :=
  (ss.find? (fun x => x.type == 2 && x.kind == kind && x.step == 0x0101 && nameAt img ss x.name == nameAt img ss name)).map (fun x =>
    natCodeOf (x.bytes img) (((ss[x.link]?).map (fun y => y.bytes img)).getD []))

/-- The kernel of a descriptor (R325), its registers as they come with the object [8, DESIGN CHOICE]. -/
def kernelOf (img : List Byte) (ss : List Section) (jvBase : Nat) (asid handle i : Nat) (d : List Byte) (decls : List Decl) : Kernel :=
  let w2 := le d 16 8
  let w3 := le d 24 8
  let f (w lo n : Nat) : Nat := w / 2 ^ lo % 2 ^ n
  let jv := ((ss.find? (fun y => y.type == 1)).map (fun y => y.bytes img)).getD []
  let code := (jv.drop (le d 8 8)).take (f w2 0 32)
  { handle := handle * 2 ^ 32 + i, asid := asid, base := jvBase + le d 8 8, code := (List.range (code.length / 8)).map (wordAt code)
    decls := decls, gangs := f w2 32 5, scr := f w2 40 21, hauls := f w3 0 7, kind := f w3 7 2, acc := f w3 9 4, args := f w3 16 13
    feat0 := mkWord (le d 32 8), feat1 := mkWord (le d 40 8)
    pinnedL := pinnedOf img ss (le d 0 4) 1, pinnedD := pinnedOf img ss (le d 0 4) 2 }

/-- Every block of a range has a page the firmware can reach. -/
def State.mapped (s : State) (asid va n : Nat) (write : Bool) : Bool :=
  (blocksOf va n).all (fun a => match s.page? asid a with
    | some p => (match p.place with | .host _ => false | _ => true) && !(write && (p.readOnly || s.roRange asid a))
    | none => false)

/-- The operand conditions of COLOAD [42, DEDUCED] [8, DESIGN CHOICE]. -/
def State.coloadWords (s : State) : List (Nat × Bool) :=
  let asid := s.cmdField 1 0 12
  let n := (s.cmdWord 3).toNat
  [(1, asid != 0 && s.cmdField 1 12 52 == 0), (2, s.mapped asid (s.cmdWord 2).toNat n false), (3, decide (64 ≤ n)),
   (4, decide ((s.cmdWord 4).toNat < 2 ^ 56))] ++ s.zeroFrom 5

/-- COLOAD [8, DESIGN CHOICE] -/
def execCoload (s : State) : Result :=
  let asid := s.cmdField 1 0 12
  let va := (s.cmdWord 2).toNat
  let n := (s.cmdWord 3).toNat
  let region := (s.cmdWord 4).toNat
  s.command 0x20 s.coloadWords
    (let img0 := s.vaBytes asid va n
     match objectBad img0 with
     | some i => .next (s.cmdDone 9 i)
     | none =>
       let ss := sectionsOf img0
       let lay := layout ss region
       if !s.mapped asid region (layoutEnd ss region - region) true then .next (s.cmdDone 2 4)
       else
         let img := relocate img0 ss lay
         let handle := s.hub.nextObject
         let loaded := loadedAt ss lay
         let jvBase := ((loaded.find? (fun x => x.1.type == 1)).map (fun x => x.2)).getD 0
         let descs := ((ss.filter (fun x => x.type == 6)).flatMap (fun x => piecesOf (x.bytes img) 64))
         let kernels := (descs.zip (List.range descs.length)).map (fun x =>
           kernelOf img ss jvBase asid handle x.2 x.1 (s.hostDecls.getD x.2 []))
         let o : Object := { handle := handle, asid := asid, kernels := kernels
                             ranges := (loaded.filter (fun x => x.1.type != 5)).map (fun x => (x.2, x.1.len)) }
         let s1 := loaded.foldl (fun s (x : Section × Nat) => s.putVa asid x.2 (x.1.bytes img)) s
         .next (({ s1 with hostDecls := s1.hostDecls.drop descs.length
                           hub := { s1.hub with objects := s1.hub.objects ++ [o], nextObject := handle + 1 } }).cmdDone 0 (handle * 2 ^ 32)))

/-- COUNLOAD: an object with no unretired task; its translations are left to eviction. -/
def execCounload (s : State) : Result :=
  let h := s.cmdField 1 32 32
  s.command 0x21 ((1, s.cmdField 1 0 32 == 0) :: s.zeroFrom 2)
    (if !(s.hub.objects.any (fun (o : Object) => o.handle == h)) || s.hub.tasks.any (fun (k : Task) => k.kern.handle / 2 ^ 32 == h) then .next (s.cmdDone 3 0)
     else .next (({ s with hub := { s.hub with objects := s.hub.objects.filter (fun (o : Object) => o.handle != h) } }).cmdDone 0 0))

/-! ## Teams -/

def State.taskTeam (s : State) : Option Team :=
  s.teams.find? (fun t => t.task == (s.cmdWord 1).toNat && t.index == (s.cmdWord 2).toNat)

/-- Every context of a stopped team stands at an equivalence point: JV code does between instructions (R307, R364). -/
def Team.atEquivalence (t : Team) : Bool :=
  t.saveArea.isEmpty && (!t.native || t.gangs.all (fun g => g.handler.isNone && g.splits.all (fun sp =>
    !sp.used || ((sp.snap.bind (fun n => n.record)).map (fun r => r.eq && r.xpc != 2 ^ 64 - 1)).getD false)))

/-- TRESUME: a stopped team waits for placement again [46, DEDUCED]. -/
def execTresume (s : State) : Result :=
  s.command 0x30 (s.zeroAbove 1 32 :: s.zeroFrom 3)
    (match s.taskTeam with
     | some t =>
       if t.status = .stopped then .next ((s.updTeam t.rid (fun (u : Team) => { u with status := .suspended u.atEquivalence })).cmdDone 0 0)
       else .next (s.cmdDone 3 0)
     | none => .next (s.cmdDone 3 0))

/-- TSTOP: a resident team is asked to stop; a suspended one is stopped at once, with its event [23, DEDUCED] [46, DEDUCED]. -/
def execTstop (s : State) : Result :=
  s.command 0x31 (s.zeroAbove 1 32 :: s.zeroFrom 3)
    (match s.taskTeam with
     | some t =>
       (match t.status with
        | .resident | .suspending => .next (((s.dropMove t).updTeam t.rid (fun (u : Team) => { u with status := .stopping [] true })).cmdDone 0 0)
        | .stopping l false => .next ((s.updTeam t.rid (fun (u : Team) => { u with status := .stopping l true })).cmdDone 0 0)
        | .suspended _ => .next (((s.updTeam t.rid (fun (u : Team) => { u with status := .stopped })).event 4 0 0 t.task t.index 0 0).cmdDone 0 0)
        | _ => .next (s.cmdDone 3 0))
     | none => .next (s.cmdDone 3 0))

/-! ## RESYNC (R515 to R518) -/

def State.complex (s : State) (active : Bool) : Complex := if s.hub.role == active then s.hub.dusk else s.hub.dawn

def queueRecord (q : Queue) : List Word :=
  [mkWord (q.num + q.cls * 2 ^ 12 + (if q.device then 2 ^ 14 else 0) + (if q.halted.isSome then 2 ^ 15 else 0) + q.weight * 2 ^ 16
      + q.halted.getD 0 * 2 ^ 24 + q.wr.toNat * 2 ^ 32),
   mkWord (q.rd.toNat + q.asid * 2 ^ 32), mkWord q.ring, 0]

def State.taskRecord (s : State) (k : Task) : List Word :=
  let mine := s.teams.filter (fun t => t.task == k.id)
  let resident := (mine.filter (fun t => t.onCore)).length
  [mkWord (k.id + k.queue * 2 ^ 32), mkWord (k.count - 1 + k.retired * 2 ^ 32), mkWord (resident + (mine.length - resident) * 2 ^ 32),
   mkWord k.kern.handle]

/-- Gangs parked on pages and teams awaiting termination, in the layout of R462, each with the time it was found and the address it concerns. -/
def State.pendingFaults (s : State) : List (List Word) :=
  s.teams.flatMap (fun t =>
    let parked := (t.gangs.zip (List.range t.gangs.length)).filterMap (fun (x : Gang × Nat) =>
      (x.1.splits.findSome? (fun sp => match sp.wait with
        | .page _ _ k addr => if sp.used then some (t.rjvpc (x.1.splits.getD k sp), addr, sp.waitStart) else none
        | _ => none)).map (fun y =>
        ({ cause := 192, task := t.task, team := t.index, gang := x.2, jvpc := y.1, addr := y.2.1 } : LogEntry).words y.2.2))
    let ending := match t.status with
      | .ending cause masked gang jvpc addr since =>
        [({ cause := cause, source := masked, task := t.task, team := t.index, gang := gang, jvpc := jvpc, addr := addr } : LogEntry).words since]
      | _ => []
    parked ++ ending)

def insertBy {α : Type} (key : α → Nat) (x : α) (l : List α) : List α :=
  match l with
  | [] => [x]
  | y :: r => if key x < key y then x :: y :: r else y :: insertBy key x r
def sortBy {α : Type} (key : α → Nat) (l : List α) : List α := l.foldl (fun a x => insertBy key x a) []

/-- The records after the header, and their numbers. -/
def State.summaryBody (s : State) : List Word × Nat × Nat × Nat × Nat :=
  let qs := sortBy (fun (q : Queue) => q.num) s.hub.queues
  let ts := sortBy (fun (k : Task) => k.id) s.hub.tasks
  let ps := s.pendingFaults
  (qs.flatMap queueRecord ++ ts.flatMap s.taskRecord ++ ps.flatMap id ++ s.hub.faultLog.flatMap id,
   qs.length, ts.length, ps.length, s.hub.faultLog.length)

/-- The header (R516). -/
def State.summaryHeader (s : State) (len nq nt np nl : Nat) : List Word :=
  let a := s.complex true
  let b := s.complex false
  let up := s.hub.ready.getLsbD 3
  [mkWord (0x4E595352 + 1 * 2 ^ 32), mkWord (len + (if s.hub.role then 2 ^ 32 else 0)), s.hub.ready, mkWord (a.stver + a.svn * 2 ^ 32),
   mkWord (if up then b.stver + b.svn * 2 ^ 32 else 0), mkWord (nq + nt * 2 ^ 16 + np * 2 ^ 32 + nl * 2 ^ 48), mkWord s.ptp, 0]

/-- The operand conditions of RESYNC [42, DEDUCED]. -/
def State.resyncWords (s : State) : List (Nat × Bool) :=
  let asid := s.cmdField 1 0 12
  let va := (s.cmdWord 2).toNat
  let room := (s.cmdWord 3).toNat
  [(1, asid != 0 && s.cmdField 1 13 51 == 0), (2, va % 64 == 0 && s.mapped asid va (Nat.max 64 (Nat.min room (2 ^ 24))) true)] ++ s.zeroFrom 4

/-- RESYNC -/
def execResync (s : State) : Result :=
  let asid := s.cmdField 1 0 12
  let va := (s.cmdWord 2).toNat
  let room := (s.cmdWord 3).toNat
  s.command 0x40 s.resyncWords
    (let b := s.summaryBody
     let len := 64 + 8 * b.1.length
     let head := bytesOfWords (s.summaryHeader len b.2.1 b.2.2.1 b.2.2.2.1 b.2.2.2.2)
     if room < len then .next ((s.putVa asid va head).cmdDone 10 len)
     else
       let s1 := s.putVa asid va (head ++ bytesOfWords b.1)
       let s2 : State := if s.cmdField 1 12 1 = 1 then { s1 with hub := { s1.hub with faultLog := [] } } else s1
       .next (s2.cmdDone 0 len))

/-! ## FWUPDATE (R401, R403) -/

/-- Bytes of a range of an image are all 0. -/
def zeroBytes (img : List Byte) (a n : Nat) : Bool := ((img.drop a).take n).all (fun b => b == 0)

/-- An image is accepted: its layout, the fused digests and minimum version, and both signatures (R401) [41, DEDUCED]. -/
def imageOk (img : List Byte) (type : Nat) : Bool :=
  let len := le img 16 8
  let body := img.take (512 + len)
  let sig := 512 + up64 len
  let rsa := (img.drop 64).take 384
  let slh := (img.drop 448).take 48
  le img 0 4 == 0x46574E48 && le img 4 2 == type && decide (sig + 384 + 16224 ≤ img.length)
  && zeroBytes img 6 2 && zeroBytes img 24 40 && zeroBytes img 496 16 && zeroBytes img (512 + len) (up64 len - len)
  && (type != 2 || zeroBytes img 12 4)
  && Config.sha384 rsa == Config.fusedRsa && Config.sha384 slh == Config.fusedSlh && decide (Config.fusedSvn ≤ le img 8 4)
  && Config.rsaVerify rsa body ((img.drop sig).take 384) && Config.slhVerify slh body ((img.drop (sig + 384)).take 16224)

/-- Set the standby bit or clear it; the host hears of it (R391). -/
def State.setReady (s : State) (bit : Nat) (on : Bool) : State :=
  let r : Word := if on then s.hub.ready ||| (1#64 <<< bit) else s.hub.ready &&& ~~~(1#64 <<< bit)
  if r = s.hub.ready then s
  else
    let met := if on && !s.hub.deadlinesLogged.contains bit then bit :: s.hub.deadlinesLogged else s.hub.deadlinesLogged
    let s1 : State := { s with hub := { s.hub with ready := r, deadlinesLogged := met } }
    s1.event 2 0 0 0 0 0 r

def State.setComplex (s : State) (active : Bool) (c : Complex) : State :=
  if s.hub.role == active then { s with hub := { s.hub with dusk := c } } else { s with hub := { s.hub with dawn := c } }

/-- The operand conditions of FWUPDATE [41, DEDUCED]. -/
def State.fwupdateWords (s : State) : List (Nat × Bool) :=
  [(1, s.cmdField 1 0 12 != 0 && s.cmdField 1 12 52 == 0), (2, s.mapped (s.cmdField 1 0 12) (s.cmdWord 2).toNat (s.cmdWord 3).toNat false)] ++ s.zeroFrom 4

/-- FWUPDATE: the standby verifies and boots the image, takes over, and the former active complex boots it in its turn; its
readiness ends the update (UNIT_READY 3). A standby that does not accept the state-table version boots its previous image again (R510). -/
def execFwupdate (s : State) : Result :=
  let asid := s.cmdField 1 0 12
  let va := (s.cmdWord 2).toNat
  let n := (s.cmdWord 3).toNat
  s.command 0x50 s.fwupdateWords
    (if s.hub.updating then .next (s.cmdDone 7 0)
     else if !s.hub.ready.getLsbD 3 then .next (s.cmdDone 5 3)
     else
       let img := s.vaBytes asid va n
       let stver := le img 12 4
       if !imageOk img 1 then .next ((s.log { cause := 897 }).cmdDone 6 0)
       else if !Config.acceptsStateTable stver (s.complex true).stver then .next (((s.log { cause := 898 }).setReady 3 false).cmdDone 8 (s.complex true).stver)
       else
         let new : Complex := { (s.complex false) with stver := stver, svn := le img 8 4 }
         let old : Complex := { (s.complex true) with up := false, stver := stver, svn := le img 8 4 }
         let s1 := (s.setComplex false new).setComplex true old
         let s2 : State := { s1 with hub := { s1.hub with role := !s1.hub.role, updating := true } }
         .next ((s2.setReady 3 false).cmdDone 0 0))

/-! ## INGSET (R396) -/

/-- Pin or unpin the pages of an area [43, DEDUCED]. -/
def State.pinRange (s : State) (asid lo n : Nat) (on : Bool) : State :=
  { s with pages := s.pages.map (fun (p : Page) => if meetsPage asid lo n p then { p with pinned := on } else p) }

/-- Bring the pages of a range into die memory. -/
def State.bringRange (s : State) (asid lo n : Nat) : Option State :=
  (blocksOf lo n).foldl (fun (r : Option State) a => r.bind (fun s => s.hostBring asid a)) (some s)

def Ingress.bytes (g : Ingress) : Nat := 4096 + 2 ^ g.slotLog * 2 ^ g.countLog

/-- Take an area away: its pages are no longer kept in die memory, but for those of the areas that stay. -/
def State.dropArea (s : State) (n : Nat) : State :=
  match s.hub.ingress.find? (fun (g : Ingress) => g.area == n) with
  | some g =>
    let rest := s.hub.ingress.filter (fun (g : Ingress) => g.area != n)
    let s1 := rest.foldl (fun s (x : Ingress) => s.pinRange x.asid x.base x.bytes true) (s.pinRange g.asid g.base g.bytes false)
    { s1 with hub := { s1.hub with ingress := rest } }
  | none => s

/-- The area that INGSET describes. -/
def State.newArea (s : State) : Ingress :=
  let interval := s.cmdField 3 9 8
  { area := s.cmdField 1 0 6, ports := s.cmdField 1 6 2, asid := s.cmdField 1 8 12, base := (s.cmdWord 2).toNat, slotLog := s.cmdField 3 0 4
    countLog := s.cmdField 3 4 5, interval := if interval = 0 then 256 else interval, etherType := s.cmdField 4 0 16
    vlan := s.cmdField 4 16 12, matchType := s.cmdField 4 28 1 == 1, matchVlan := s.cmdField 4 29 1 == 1, queue := s.cmdField 5 0 12
    offset := s.cmdField 5 32 32, template := (s.cmdWord 6).toNat, frames := 0 }

/-- The operand conditions of INGSET [43, DEDUCED]. -/
def State.ingsetWords (s : State) : List (Nat × Bool) :=
  let on := s.cmdField 1 20 1 == 1
  let q := s.cmdField 5 0 12
  let g := s.newArea
  [(1, s.cmdField 1 21 43 == 0 && (!on || g.asid != 0)), (2, !on || (g.base % 4096 == 0 && s.mapped g.asid g.base g.bytes true)),
   (3, s.cmdField 3 17 47 == 0 && (!on || (decide (11 ≤ g.slotLog) && decide (g.slotLog ≤ 14) && decide (4 ≤ g.countLog) && decide (g.countLog ≤ 16)))),
   (4, s.cmdField 4 30 34 == 0), (5, s.cmdField 5 12 20 == 0 && (!on || q == 0xFFF || ((s.queue? q).map (fun q => q.cls == 0)).getD false)),
   (6, s.cmdField 6 0 6 == 0 && s.cmdField 6 56 8 == 0)] ++ s.zeroFrom 7

/-- INGSET: an area is defined anew, or disabled. -/
def execIngset (s : State) : Result :=
  let g := s.newArea
  s.command 0x70 s.ingsetWords
    (let s1 := s.dropArea g.area
     if s.cmdField 1 20 1 != 1 then .next (s1.cmdDone 0 0)
     else match s1.bringRange g.asid g.base g.bytes with
       | some s2 =>
         let s3 := s2.pinRange g.asid g.base g.bytes true
         .next (({ s3 with hub := { s3.hub with ingress := s3.hub.ingress ++ [g] } }).cmdDone 0 0)
       | none => .next (s.cmdDone 11 1))

/-- A code R388 does not name completes with st = 1 (R510). -/
def execUnassignedCommand (s : State) : Result :=
  let code := s.cmdField 0 0 8
  when s (s.hub.cmdGo && s.hub.serving && !([0x01, 0x02, 0x10, 0x11, 0x20, 0x21, 0x30, 0x31, 0x40, 0x50, 0x70].contains code)) (s.cmdDone 1 0)

end Sys2Proof.Machine
end

