-- ==== Sys2Proof/Machine/Outside.lean ====
section
/-! DEFINITION. What comes from outside the cores: Ethernet ingress and time (R395 to R398, R481), peer links and recovery
(R392 to R394, R483 to R485), power (R29), boot and readiness (R399, R400, R507, R508), and failover (R501 to R506). -/

namespace Sys2Proof.Machine

/-! ## Ethernet ingress -/

/-- A big-endian 16-bit field of a frame. -/
def be16 (f : List Byte) (i : Nat) : Nat := (f.getD i 0).toNat * 256 + (f.getD (i + 1) 0).toNat

/-- The VLAN id of a tagged frame, and the EtherType, behind the tag where there is one [26, DEDUCED]. -/
def frameVlan (f : List Byte) : Option Nat := if be16 f 12 = 0x8100 then some (be16 f 14 % 4096) else none
/-- A choice or a reading of the model: [26, DEDUCED]. -/
def frameType (f : List Byte) : Nat := if be16 f 12 = 0x8100 then be16 f 16 else be16 f 12

/-- The area takes the frame (R396) [26, DEDUCED]. -/
def Ingress.takes (g : Ingress) (port : Nat) (f : List Byte) : Bool :=
  g.ports.testBit port && (!g.matchType || frameType f == g.etherType) && (!g.matchVlan || frameVlan f == some g.vlan)

/-- Add 1 to an N32 word of an area, at its home slice. -/
def State.bump (s : State) (asid va : Nat) : State := s.putPkg asid va (toBytesLE 4 ((s.cpLE asid va 4 + 1) % 2 ^ 32))

/-- A slot's header (R397). -/
def slotHeader (stamp len port flen trunc fno : Nat) : List Byte :=
  toBytesLE 32 (stamp / 1000000000 % 2 ^ 48 + stamp % 1000000000 * 2 ^ 48 + len * 2 ^ 80 + port * 2 ^ 96 + flen * 2 ^ 97 + trunc * 2 ^ 113 + fno * 2 ^ 128)

/-- Post an area's template as a launch (R398); a queue that is full or gone is skipped and counted (R481). Host pages are not reached
(R390, R467). -/
def State.post (s : State) (g : Ingress) (stamp slotVa fno : Nat) : State :=
  if g.queue = 0xFFF then s
  else
    match s.queue? g.queue with
    | none => s.bump g.asid (g.base + 20)
    | some q =>
      if q.size ≤ q.pending then s.bump g.asid (g.base + 20)
      else
        let ws := (List.range 8).map (fun i => mkWord (s.cpLE g.asid (g.template + 8 * i) 8))
        let time := stamp + g.offset
        let w3 := mkWord (time / 1000000000 % 2 ^ 48)
        let w4 := mkWord (time % 1000000000 + launchBudget ws * 2 ^ 32)
        let n := ((s.kernel? q.asid (launchHandle ws)).map (fun k => k.args)).getD 16
        let old := s.cpBytes g.asid (launchArgs ws) n
        let args := toBytesLE 8 slotVa ++ toBytesLE 8 fno ++ old.drop 16
        let lost := s.argsBlock g.asid (launchArgs ws) n == some .unreadable
        let s1 := s.putPkg q.asid (q.ring + 64 * (q.wr.toNat % q.size)) (bytesOfWords ((ws.set 3 w3).set 4 w4))
        let s2 := s1.updQueue q.num (fun q => { q with wr := q.wr + 1 })
        let p : Posted := { queue := q.num, slot := q.wr.toNat, asid := g.asid, args := if lost then none else some (args.take (Nat.max n 16)), dsec := time / 1000000000, dnsec := time % 1000000000 }
        { s2 with hub := { s2.hub with posted := s2.hub.posted ++ [p] } }

/-- A frame for an area: overflow, or slot, write index and post. -/
def State.store (s : State) (g : Ingress) (port stamp : Nat) (frame : List Byte) : State :=
  let size := 2 ^ g.slotLog
  let count := 2 ^ g.countLog
  let back := s.cpLE g.asid (g.base + 8) 4
  let unreturned := (g.frames % 2 ^ 32 + 2 ^ 32 - back) % 2 ^ 32
  if count ≤ unreturned then s.bump g.asid (g.base + 16)
  else
    let slot := g.base + 4096 + size * (g.frames % count)
    let len := Nat.min frame.length (size - 32)
    let trunc := if len < frame.length then 1 else 0
    let s1 := s.putPkg g.asid slot (slotHeader stamp len port frame.length trunc g.frames ++ frame.take len)
    let s2 := if trunc = 1 then s1.bump g.asid (g.base + 24) else s1
    let s3 := s2.putPkg g.asid g.base (toBytesLE 4 ((g.frames + 1) % 2 ^ 32))
    let s4 : State := { s3 with hub := { s3.hub with ingress := s3.hub.ingress.map (fun (x : Ingress) =>
      if x.area = g.area then { x with frames := x.frames + 1 } else x) } }
    if (g.frames + 1) % g.interval = 0 then s4.post g stamp slot g.frames else s4

/-- FRAME_RECEIVE: a frame goes to the lowest-numbered area that takes it; one that matches none is not stored. -/
def execFrameReceive (port stamp : Nat) (frame : List Byte) (s : State) : Result :=
  if 2 ≤ port ∨ 9216 < frame.length ∨ !s.hub.ready.getLsbD (38 + port) then .next s
  else
    match leastBy (fun (g : Ingress) => g.area) (s.hub.ingress.filter (fun (g : Ingress) => g.takes port frame)) with
    | some g => .next (s.store g port stamp frame)
    | none => .next s

/-! ## Time (R395) -/

/-- PTP_MESSAGE: the clock locks with at most one step forward, and is slewed by at most 500 ppm from then on. -/
def execPtpMessage (action : PtpAction) (s : State) : Result :=
  match action with
  | .hear => .next s
  | .lock forward =>
    when s (!s.hub.locked && s.hub.booted && s.hub.bootStatus == 0) (({ s with ptp := s.ptp + forward, hub := { s.hub with locked := true } }).setReady 40 true)
  | .slew ppm => when s (s.hub.locked && decide (-500 ≤ ppm) && decide (ppm ≤ 500)) { s with hub := { s.hub with slewPpm := ppm } }

/-! ## Links and peers -/

/-- Every link named in the routing table is ready (R400). -/
def Hub.domReady (h : Hub) : Bool :=
  (List.range 18).all (fun l => !(h.config.routes.any (fun m => m.testBit l)) || (h.links.getD l Link.down).ready)

/-- The time for which a page of a package has been waited for in vain does not count while the package was in recovery (R465, R483). -/
def State.restartPages (s : State) (pkg since : Nat) : State :=
  { s with pages := s.pages.map (fun (p : Page) =>
      if p.place.pkg = pkg then { p with parked := p.parked.map (fun t0 => t0 + (s.ptp - Nat.max since t0)) } else p) }

/-- The splits of every gang, each with its number, after a change. -/
def State.mapSplits (s : State) (f : Team → Nat → Nat → Split → Split) : State :=
  { s with teams := s.teams.map (fun (t : Team) =>
      { t with gangs := (t.gangs.zip (List.range t.gangs.length)).map (fun (x : Gang × Nat) =>
          { x.1 with splits := (x.1.splits.zip (List.range x.1.splits.length)).map (fun (y : Split × Nat) => f t x.2 y.2 y.1) }) }) }

/-- Waits that a package held go on, and held accesses are made again (R484). -/
def State.releasePeer (s : State) (pkg since : Nat) : State :=
  State.settleEntries ((s.restartPages pkg since).mapSplits (fun _ _ _ sp =>
    match sp.wait with
    | .remote p _ => if p = pkg then sp.wake s.now else sp
    | _ => sp))

/-- LINK_READY: a link has trained and its peer answers as the configuration record expects; it reserves its buffers [52, DEDUCED]. -/
def execLinkReady (link peerPackage peerLink : Nat) (s : State) : Result :=
  let l : Link := { ready := true, peerPkg := peerPackage, peerLink := peerLink, chunkBuffers := 128, requestBuffers := 1024 }
  if link < 18 ∧ s.hub.config.expected[link]? = some (peerPackage, peerLink) ∧ s.hub.booted ∧ s.hub.bootStatus = 0 then
    let peers := match Tab.get PeerState.normal s.hub.peers peerPackage with
      | .reset | .silent _ => Tab.set PeerState.normal s.hub.peers peerPackage .normal
      | _ => s.hub.peers
    let s1 : State := { s with hub := { s.hub with links := s.hub.links.set link l, peers := peers } }
    let s2 := (match Tab.get PeerState.normal s.hub.peers peerPackage with
      | .silent since => s1.releasePeer peerPackage since
      | _ => s1).setReady (20 + link) true
    .next (if s2.hub.domReady then s2.setReady 41 true else s2)
  else .next s

/-- LINK_DOWN: a package that stops answering loses a link; with its last link it counts as silent (R485). -/
def execLinkDown (link : Nat) (s : State) : Result :=
  let l := s.hub.links.getD link Link.down
  if link < 18 ∧ l.ready then
    let links := s.hub.links.set link Link.down
    let lost := !(links.any (fun (x : Link) => x.ready && x.peerPkg == l.peerPkg))
    let peers := if lost && Tab.get PeerState.normal s.hub.peers l.peerPkg == .normal then
        Tab.set PeerState.normal s.hub.peers l.peerPkg (.silent s.ptp)
      else s.hub.peers
    let s1 : State := { s with hub := { s.hub with links := links, peers := peers } }
    .next ((s1.setReady (20 + link) false).setReady 41 s1.hub.domReady)
  else .next s

/-- A fault for a context that is off its core or moves is held with the saved state (R428); of two in one gang the one that comes first is kept, since
the rollback discards the other (R441) [72, DEDUCED]. -/
def State.deliverOrHold (s : State) (r : Raise) (fa : FaultAt) : State :=
  match s.team? fa.rid with
  | none => s
  | some t =>
    let off := t.moving || (match t.status with | .suspended _ | .stopped => true | _ => false)
    if !off then s.deliver r fa
    else if ((t.gangs[fa.gang]?).map (fun g => g.splits.any (fun sp => sp.heldFault.isSome))).getD false then s
    else s.updSplit fa.rid fa.gang fa.split (fun sp => { sp with heldFault := some (r, fa.npc, fa.slot) })

/-- An operation at a face unit of a package that was reset is not performed (R484): 832 against its instruction, to which a JV context goes back with
its operations elsewhere that have not been performed either, or against its bundle, whose commit point goes on to its end. They are made again when
the handler returns, so that none is made twice and none is left out (R194) [72, DEDUCED]. -/
def State.loseRequest (s : State) (q : FaceReq) : State :=
  match s.team? q.rid with
  | none => s.dropFace q
  | some t =>
    let native := ((t.gangs[q.gang]?).map t.runsNative).getD false
    let mine (x : FaceReq) : Bool := if native then x == q else x.rid == q.rid && x.gang == q.gang && x.split == q.split
    let lost := (s.faceReqs.filter mine).filter (fun x => !x.parts.all (fun p => p.2.2 == .read))
    let s1 : State := { s with faceReqs := s.faceReqs.filter (fun x => !mine x), lostReqs := s.lostReqs ++ lost }
    let s2 := if native then s1 else s1.updTeam q.rid (fun u => u.updGang q.gang (fun g =>
      (g.unissue q.split q.sigx).updSplit q.split (fun sp => { sp with pc := q.pc })))
    s2.deliverOrHold { cause := 832, info := q.unit / 256, addr := ((q.parts.head?).map (fun p => p.2.1)).getD 0 }
      { rid := q.rid, gang := q.gang, split := q.split, npc := q.npc, slot := q.slot }

/-- A package that was reset: held accesses and waita on its words are made again, and raise 832; its face units' requests are lost
(R484). -/
def State.resetPeer (s : State) (pkg since : Nat) : State :=
  let s1 : State := { s.restartPages pkg since with hub := { s.hub with peers := Tab.set PeerState.normal s.hub.peers pkg .reset } }
  let s2 := s1.mapSplits (fun t _ _ sp =>
    let holds : Bool := match sp.wait with
      | .remote p _ => p == pkg
      | .word 3 a _ _ _ => ((s1.page? t.asid a).map (fun p => p.place.pkg == pkg)).getD false
      | _ => false
    if holds then { sp.wake s1.now with refused := some pkg } else sp)
  ((s2.faceReqs.filter (fun q => q.unit / 256 == pkg)).foldl (fun (s : State) q => if s.faceReqs.contains q then s.loseRequest q else s) s2).settleEntries

/-- PEER_SILENT_TIMEOUT: 100 ms after its last link the package counts as reset. -/
def execPeerSilentTimeout (package : Nat) (s : State) : Result :=
  match Tab.get PeerState.normal s.hub.peers package with
  | .silent since => when s (decide (since + 100000000 ≤ s.ptp)) (s.resetPeer package since)
  | _ => .next s

/-- RECOVERY_NOTICE -/
def execRecoveryNotice (package : Nat) (s : State) : Result :=
  when s (decide (package < s.hub.config.packages) && package != s.hub.config.package)
    { s with hub := { s.hub with peers := Tab.set PeerState.normal s.hub.peers package (.recovering s.ptp) } }

/-- DONE_NOTICE -/
def execDoneNotice (package : Nat) (kept : Bool) (s : State) : Result :=
  match Tab.get PeerState.normal s.hub.peers package with
  | .recovering since =>
    if kept then
      let s1 : State := { s with hub := { s.hub with peers := Tab.set PeerState.normal s.hub.peers package .normal } }
      .next (s1.releasePeer package since)
    else .next (s.resetPeer package since)
  | _ => .next s

/-- DONE_NOTICE_TIMEOUT: 60 s without a done notice count as a reset. -/
def execDoneNoticeTimeout (package : Nat) (s : State) : Result :=
  match Tab.get PeerState.normal s.hub.peers package with
  | .recovering since => when s (decide (since + 60000000000 ≤ s.ptp)) (s.resetPeer package since)
  | _ => .next s

/-! ## Power (R29) -/

/-- The D-clock steps: what it has counted stays (R30). -/
def State.setClock (s : State) (mhz : Nat) : State :=
  { s with hub := { s.hub with dclock := mhz, dcount := s.dclocks, clockAt := s.now } }

/-- POWER_CLOCK_DOWN: the average is above 2,800 W. -/
def execPowerClockDown (milliwatts : Nat) (s : State) : Result :=
  when s (decide (2800000 < milliwatts) && decide (650 ≤ s.hub.dclock)) (s.setClock (s.hub.dclock - 50))

/-- POWER_CLOCK_UP: the average is below 2,700 W and the clock below nominal. -/
def execPowerClockUp (milliwatts : Nat) (s : State) : Result :=
  when s (decide (milliwatts < 2700000) && decide (s.hub.dclock + 50 ≤ 1200)) (s.setClock (s.hub.dclock + 50))

/-! ## Boot and readiness -/

/-- The bytes of an image in flash, and its verification (R401). -/
def FlashImage.data (f : FlashImage) : List Byte := f.bytes.readN 0 f.size
def FlashImage.ok (f : FlashImage) (type : Nat) : Bool := imageOk f.data type

/-- Where the boot stops: 897 without firmware, 899 without a configuration record (R507). -/
def Flash.bootStatus (f : Flash) : Nat :=
  if !f.fwA.ok 1 && !f.fwB.ok 1 then 897
  else if !f.cfgA.1.ok 2 && !f.cfgB.1.ok 2 then 899 else 0

/-- The copies the ROM takes: A first, then B (R507). -/
def Flash.image (f : Flash) : FlashImage := if f.fwA.ok 1 then f.fwA else f.fwB
def Flash.record (f : Flash) : ConfigRec := if f.cfgA.1.ok 2 then f.cfgA.2 else f.cfgB.2

/-- A complex in ROM that will run the image of flash. -/
def Complex.starting (f : FlashImage) : Complex := { Complex.inRom with stver := le f.data 12 4, svn := le f.data 8 4 }

/-- Package reset: everything but the flash starts anew, Dawn active and Dusk standby (R399, R507). The model's own parts
(agenda, object declarations, free values) and the host's memory go on [50, DESIGN CHOICE]. -/
def State.packageReset (s : State) : State :=
  let f := s.hub.flash
  let c := Complex.starting f.image
  { State.reset with
    mem := s.mem.filter (fun c => decide (2 ^ 60 ≤ c.1)), hostWrites := s.hostWrites, peerJobs := s.peerJobs, peerActs := s.peerActs, peerInj := s.peerInj
    now := s.now, agenda := s.agenda, turn := s.turn, stepNs := s.stepNs, free := s.free, hostDecls := s.hostDecls
    hub := { Hub.initial with flash := f, config := f.record, booted := true, bootStatus := f.bootStatus, resetAt := s.now, clockAt := s.now, dawn := c, dusk := c } }

/-- PACKAGE_RESET -/
def execPackageReset (s : State) : Result := .next s.packageReset

/-- The bits that a unit's own start-up sets: fw, cmd, xlat, stby, dies, stacks, Ethernet ports. -/
def startBit (bit : Nat) : Bool := decide (bit < 20) || bit == 38 || bit == 39

/-- The start-up order: cmd after fw, xlat after cmd (R399); stby for a complex that is not held in reset. -/
def State.startable (s : State) (bit : Nat) : Bool :=
  s.hub.booted && s.hub.bootStatus == 0 && startBit bit && !s.hub.ready.getLsbD bit
  && (match bit with
      | 1 => s.hub.ready.getLsbD 0
      | 2 => s.hub.ready.getLsbD 1
      | 3 => !(s.complex false).failed && !(s.complex false).dead
      | _ => true)

/-- UNIT_READY: a unit has started. The active complex's firmware also ends the boot status, and sets dom where every link that the routing table names
is ready, or it names none (R400); the command processor takes up
held doorbells; the standby's readiness ends a firmware update (R387, R403). -/
def execUnitReady (bit : Nat) (s : State) : Result :=
  if !s.startable bit then .next s
  else
    let s1 := s.setReady bit true
    match bit with
    | 0 =>
      let s2 := s1.setComplex true { s1.complex true with up := true }
      let s3 : State := { s2 with hub := { s2.hub with fwAt := some s.now, cmdRes := 0 } }
      .next (if s3.hub.domReady then s3.setReady 41 true else s3)
    | 1 => .next ({ s1 with hub := { s1.hub with cmdAt := some s.now } }).releaseBells
    | 3 =>
      let c : Complex := { s1.complex false with up := true }
      let s2 := s1.setComplex false c
      .next (if s.hub.updating then
          let s3 : State := { s2 with hub := { s2.hub with updating := false } }
          s3.event 3 0 0 0 0 0 (mkWord c.stver)
        else s2)
    | _ => .next s1

/-- The deadline of a readiness bit, in the time since power-on (R508). -/
def State.deadlineOf (s : State) (bit : Nat) : Option Nat :=
  let fw (n : Nat) : Option Nat := s.hub.fwAt.map (fun t => t + n)
  if bit = 0 then some (s.hub.resetAt + 2000000000)
  else if bit = 3 then some (s.hub.resetAt + 4000000000)
  else if bit = 1 then fw 500000000
  else if bit = 2 then s.hub.cmdAt.map (fun t => t + 500000000)
  else if bit < 20 ∨ bit = 38 ∨ bit = 39 then fw 1000000000
  else if bit < 38 then fw 5000000000
  else none

/-- The bit is late and has not been recorded, nor been set before its deadline. -/
def State.lateBit (s : State) (bit : Nat) : Bool :=
  s.hub.booted && !s.hub.ready.getLsbD bit && !s.hub.deadlinesLogged.contains bit
  && (match s.deadlineOf bit with | some t => decide (t ≤ s.now) | none => false)

/-- READY_DEADLINE -/
def execReadyDeadline (bit : Nat) (s : State) : Result :=
  let s1 := s.log { cause := 0, reason := 23, addr := bit }
  when s (s.lateBit bit) { s1 with hub := { s1.hub with deadlinesLogged := bit :: s1.hub.deadlinesLogged } }

/-! ## Failover (R501 to R506) -/

/-- A complex that fails within 60 s of a reboot stays in reset (R506). -/
def Complex.fail (c : Complex) (now : Nat) : Complex :=
  let again := match c.rebootAt with | some t => decide (now < t + 60000000000) | none => false
  { c with up := false, failed := true, dead := c.dead || again }

/-- The active complex has failed: the standby takes over, its look-ahead starting again at the first packet not consumed and its
translations from their beginning (R503), or without one the package boots again (R505). -/
def State.takeover (s : State) : State :=
  if !s.hub.ready.getLsbD 3 then s.packageReset
  else
    let s1 := (s.setComplex true ((s.complex true).fail s.now)).setReady 3 false
    let again (q : Queue) : Queue := { q with look := ((q.ahead.head?).map (fun x => x.frames)).getD q.look, ahead := [], staged := false }
    let s2 : State := { s1 with hub := { s1.hub with role := !s1.hub.role, queues := s1.hub.queues.map again
                                                     asks := s1.hub.asks.map (fun (a : PeerAsk) => { a with since := s.ptp, late := false }) } }
    let s3 := s2.log { cause := 896 }
    let s4 := s3.event 6 0 0 0 0 0 (if s3.hub.role then 1 else 0)
    if s4.hub.cmdGo && s4.hub.serving then s4.cmdDone 4 0 else s4

/-- HEARTBEAT_LOSS: without a standby the package boots again (R505). -/
def execHeartbeatLoss (s : State) : Result := when s (s.hub.ready.getLsbD 0) s.takeover

/-- ACTIVE_FAILURE_REPORT -/
def execActiveFailureReport (s : State) : Result := when s (s.hub.ready.getLsbD 0) s.takeover

/-- STANDBY_REBOOT: the failed complex boots the current image, passes its self-check and is standby. -/
def execStandbyReboot (s : State) : Result :=
  let b := s.complex false
  let a := s.complex true
  let c : Complex := { b with up := true, failed := false, rebootAt := some s.now, stver := a.stver, svn := a.svn }
  when s (b.failed && !b.dead && s.hub.ready.getLsbD 0) ((s.setComplex false c).setReady 3 true)

/-- STANDBY_COMPLEX_FAILURE -/
def execStandbyComplexFailure (s : State) : Result :=
  when s (s.complex false).up ((s.setComplex false ((s.complex false).fail s.now)).setReady 3 false)

end Sys2Proof.Machine
end

