-- ==== Sys2Proof/Machine/Dispatch.lean ====
section
/-! DEFINITION. One arm for every constructor of Instr: a direct call of its meaning. -/

namespace Sys2Proof.Machine

def exec (i : Instr) (s : State) : Host.Outcome State Fault Refusal :=
  match i with
  | .add f => Sys2Proof.Machine.execAdd f s
  | .sub f => Sys2Proof.Machine.execSub f s
  | .mul f => Sys2Proof.Machine.execMul f s
  | .mulhi f => Sys2Proof.Machine.execMulhi f s
  | .mad f => Sys2Proof.Machine.execMad f s
  | .div f => Sys2Proof.Machine.execDiv f s
  | .rem f => Sys2Proof.Machine.execRem f s
  | .min f => Sys2Proof.Machine.execMin f s
  | .max f => Sys2Proof.Machine.execMax f s
  | .abs f => Sys2Proof.Machine.execAbs f s
  | .neg f => Sys2Proof.Machine.execNeg f s
  | .dp4 f => Sys2Proof.Machine.execDp4 f s
  | .lea f => Sys2Proof.Machine.execLea f s
  | .and f => Sys2Proof.Machine.execAnd f s
  | .or f => Sys2Proof.Machine.execOr f s
  | .xor f => Sys2Proof.Machine.execXor f s
  | .not f => Sys2Proof.Machine.execNot f s
  | .shl f => Sys2Proof.Machine.execShl f s
  | .shr f => Sys2Proof.Machine.execShr f s
  | .sar f => Sys2Proof.Machine.execSar f s
  | .rotl f => Sys2Proof.Machine.execRotl f s
  | .popc f => Sys2Proof.Machine.execPopc f s
  | .clz f => Sys2Proof.Machine.execClz f s
  | .brev f => Sys2Proof.Machine.execBrev f s
  | .bfx f => Sys2Proof.Machine.execBfx f s
  | .bfi f => Sys2Proof.Machine.execBfi f s
  | .mov f => Sys2Proof.Machine.execMov f s
  | .movi f => Sys2Proof.Machine.execMovi f s
  | .sel f => Sys2Proof.Machine.execSel f s
  | .setp f => Sys2Proof.Machine.execSetp f s
  | .pand f => Sys2Proof.Machine.execPand f s
  | .por f => Sys2Proof.Machine.execPor f s
  | .pxor f => Sys2Proof.Machine.execPxor f s
  | .pnot f => Sys2Proof.Machine.execPnot f s
  | .fadd f => Sys2Proof.Machine.execFadd f s
  | .fsub f => Sys2Proof.Machine.execFsub f s
  | .fmul f => Sys2Proof.Machine.execFmul f s
  | .ffma f => Sys2Proof.Machine.execFfma f s
  | .fmin f => Sys2Proof.Machine.execFmin f s
  | .fmax f => Sys2Proof.Machine.execFmax f s
  | .fabs f => Sys2Proof.Machine.execFabs f s
  | .fneg f => Sys2Proof.Machine.execFneg f s
  | .fdiv f => Sys2Proof.Machine.execFdiv f s
  | .fsqrt f => Sys2Proof.Machine.execFsqrt f s
  | .frcp f => Sys2Proof.Machine.execFrcp f s
  | .frsq f => Sys2Proof.Machine.execFrsq f s
  | .fex2 f => Sys2Proof.Machine.execFex2 f s
  | .flg2 f => Sys2Proof.Machine.execFlg2 f s
  | .fscale f => Sys2Proof.Machine.execFscale f s
  | .fsetp f => Sys2Proof.Machine.execFsetp f s
  | .fclass f => Sys2Proof.Machine.execFclass f s
  | .frnd f => Sys2Proof.Machine.execFrnd f s
  | .fcvt f => Sys2Proof.Machine.execFcvt f s
  | .f2i f => Sys2Proof.Machine.execF2i f s
  | .i2f f => Sys2Proof.Machine.execI2f f s
  | .fadd2 f => Sys2Proof.Machine.execFadd2 f s
  | .fmul2 f => Sys2Proof.Machine.execFmul2 f s
  | .ffma2 f => Sys2Proof.Machine.execFfma2 f s
  | .fdot2 f => Sys2Proof.Machine.execFdot2 f s
  | .rdsr f => Sys2Proof.Machine.execRdsr f s
  | .elect f => Sys2Proof.Machine.execElect f s
  | .vote f => Sys2Proof.Machine.execVote f s
  | .matchLanes f => Sys2Proof.Machine.execMatchLanes f s
  | .shfl f => Sys2Proof.Machine.execShfl f s
  | .redux f => Sys2Proof.Machine.execRedux f s
  | .scan f => Sys2Proof.Machine.execScan f s
  | .bra f => Sys2Proof.Machine.execBra f s
  | .brx f => Sys2Proof.Machine.execBrx f s
  | .call f => Sys2Proof.Machine.execCall f s
  | .callx f => Sys2Proof.Machine.execCallx f s
  | .ret f => Sys2Proof.Machine.execRet f s
  | .join f => Sys2Proof.Machine.execJoin f s
  | .exit f => Sys2Proof.Machine.execExit f s
  | .yield f => Sys2Proof.Machine.execYield f s
  | .nsleep f => Sys2Proof.Machine.execNsleep f s
  | .waita f => Sys2Proof.Machine.execWaita f s
  | .bar f => Sys2Proof.Machine.execBar f s
  | .barar f => Sys2Proof.Machine.execBarar f s
  | .barwt f => Sys2Proof.Machine.execBarwt f s
  | .setfmt f => Sys2Proof.Machine.execSetfmt f s
  | .getfmt f => Sys2Proof.Machine.execGetfmt f s
  | .ld f => Sys2Proof.Machine.execLd f s
  | .st f => Sys2Proof.Machine.execSt f s
  | .ldu f => Sys2Proof.Machine.execLdu f s
  | .atom f => Sys2Proof.Machine.execAtom f s
  | .cas f => Sys2Proof.Machine.execCas f s
  | .aqadd f => Sys2Proof.Machine.execAqadd f s
  | .fence f => Sys2Proof.Machine.execFence f s
  | .pref f => Sys2Proof.Machine.execPref f s
  | .fgath f => Sys2Proof.Machine.execFgath f s
  | .codeload f => Sys2Proof.Machine.execCodeload f s
  | .hcopy f => Sys2Proof.Machine.execHcopy f s
  | .hcopyCk f => Sys2Proof.Machine.execHcopyCk f s
  | .htens f => Sys2Proof.Machine.execHtens f s
  | .htensSt f => Sys2Proof.Machine.execHtensSt f s
  | .hgath f => Sys2Proof.Machine.execHgath f s
  | .hscat f => Sys2Proof.Machine.execHscat f s
  | .hred f => Sys2Proof.Machine.execHred f s
  | .hmcast f => Sys2Proof.Machine.execHmcast f s
  | .hfill f => Sys2Proof.Machine.execHfill f s
  | .hwait f => Sys2Proof.Machine.execHwait f s
  | .htest f => Sys2Proof.Machine.execHtest f s
  | .ckpack f => Sys2Proof.Machine.execCkpack f s
  | .ckpackUnpk f => Sys2Proof.Machine.execCkpackUnpk f s
  | .ckver f => Sys2Proof.Machine.execCkver f s
  | .ckinfo f => Sys2Proof.Machine.execCkinfo f s
  | .mma f => Sys2Proof.Machine.execMma f s
  | .mmaRa f => Sys2Proof.Machine.execMmaRa f s
  | .accz f => Sys2Proof.Machine.execAccz f s
  | .accld f => Sys2Proof.Machine.execAccld f s
  | .accst f => Sys2Proof.Machine.execAccst f s
  | .accmax f => Sys2Proof.Machine.execAccmax f s
  | .accanc f => Sys2Proof.Machine.execAccanc f s
  | .tri f => Sys2Proof.Machine.execTri f s
  | .xcut f => Sys2Proof.Machine.execXcut f s
  | .asstSt f => Sys2Proof.Machine.execAsstSt f s
  | .asstTol f => Sys2Proof.Machine.execAsstTol f s
  | .asstClr f => Sys2Proof.Machine.execAsstClr f s
  | .trap f => Sys2Proof.Machine.execTrap f s
  | .tvec f => Sys2Proof.Machine.execTvec f s
  | .tret f => Sys2Proof.Machine.execTret f s
  | .mig f => Sys2Proof.Machine.execMig f s
  | .query f => Sys2Proof.Machine.execQuery f s
  | .qkind f => Sys2Proof.Machine.execQkind f s
  | .chksig f => Sys2Proof.Machine.execChksig f s
  | .sigset f => Sys2Proof.Machine.execSigset f s
  | .launch f => Sys2Proof.Machine.execLaunch f s
  | .ptime f => Sys2Proof.Machine.execPtime f s
  | .prfrd f => Sys2Proof.Machine.execPrfrd f s
  | .brkpt f => Sys2Proof.Machine.execBrkpt f s
  | .loop f => Sys2Proof.Machine.execLoop f s
  | .rrbset f => Sys2Proof.Machine.execRrbset f s
  | .cmt f => Sys2Proof.Machine.execCmt f s
  | .eqp f => Sys2Proof.Machine.execEqp f s
  | .movx f => Sys2Proof.Machine.execMovx f s
  | .sigadv f => Sys2Proof.Machine.execSigadv f s
  | .nop f => Sys2Proof.Machine.execNop f s
  | .exposedResultLand rid gang split => Sys2Proof.Machine.execExposedResultLand rid gang split s
  | .loadResultArrive rid gang split => Sys2Proof.Machine.execLoadResultArrive rid gang split s
  | .tailingLand rid gang split => Sys2Proof.Machine.execTailingLand rid gang split s
  | .nsleepWake rid gang split => Sys2Proof.Machine.execNsleepWake rid gang split s
  | .waitaWake rid gang split => Sys2Proof.Machine.execWaitaWake rid gang split s
  | .codeloadDone rid gang split => Sys2Proof.Machine.execCodeloadDone rid gang split s
  | .ckverDone rid gang split => Sys2Proof.Machine.execCkverDone rid gang split s
  | .haulChunk die agent => Sys2Proof.Machine.execHaulChunk die agent s
  | .chunkHop flight => Sys2Proof.Machine.execChunkHop flight s
  | .chunkReduction flight => Sys2Proof.Machine.execChunkReduction flight s
  | .heldWriteRelease rid => Sys2Proof.Machine.execHeldWriteRelease rid s
  | .haulJobComplete job => Sys2Proof.Machine.execHaulJobComplete job s
  | .faceUnitOperation unit => Sys2Proof.Machine.execFaceUnitOperation unit s
  | .l1Eviction core asid line => Sys2Proof.Machine.execL1Eviction core asid line s
  | .pageMoveToHbm asid vbase stack => Sys2Proof.Machine.execPageMoveToHbm asid vbase stack s
  | .pageMigrationComplete asid vbase => Sys2Proof.Machine.execPageMigrationComplete asid vbase s
  | .migrationTimeout asid vbase => Sys2Proof.Machine.execMigrationTimeout asid vbase s
  | .eccError site corrected => Sys2Proof.Machine.execEccError site corrected s
  | .teamRetire rid => Sys2Proof.Machine.execTeamRetire rid s
  | .maskWatchdogExpiry rid gang => Sys2Proof.Machine.execMaskWatchdogExpiry rid gang s
  | .waitWatchdogExpiry rid gang split => Sys2Proof.Machine.execWaitWatchdogExpiry rid gang split s
  | .budgetOverrun rid => Sys2Proof.Machine.execBudgetOverrun rid s
  | .noopPacket queue => Sys2Proof.Machine.execNoopPacket queue s
  | .launchPacket queue => Sys2Proof.Machine.execLaunchPacket queue s
  | .callPacket queue => Sys2Proof.Machine.execCallPacket queue s
  | .joinPacket queue => Sys2Proof.Machine.execJoinPacket queue s
  | .signalPacket queue => Sys2Proof.Machine.execSignalPacket queue s
  | .unassignedPacket queue => Sys2Proof.Machine.execUnassignedPacket queue s
  | .taskAdmit queue => Sys2Proof.Machine.execTaskAdmit queue s
  | .tiarloTranslate handle kind => Sys2Proof.Machine.execTiarloTranslate handle kind s
  | .lodePeerQuery package key => Sys2Proof.Machine.execLodePeerQuery package key s
  | .lodePeerReply package key digestOk => Sys2Proof.Machine.execLodePeerReply package key digestOk s
  | .lodePeerTimeout key => Sys2Proof.Machine.execLodePeerTimeout key s
  | .reoptimise key => Sys2Proof.Machine.execReoptimise key s
  | .teamPlace die => Sys2Proof.Machine.execTeamPlace die s
  | .preload core => Sys2Proof.Machine.execPreload core s
  | .preloadSwitch core => Sys2Proof.Machine.execPreloadSwitch core s
  | .nativeSuspend rid => Sys2Proof.Machine.execNativeSuspend rid s
  | .virtualPreciseStop rid => Sys2Proof.Machine.execVirtualPreciseStop rid s
  | .teamResume rid => Sys2Proof.Machine.execTeamResume rid s
  | .dispatcherMoveRequest rid => Sys2Proof.Machine.execDispatcherMoveRequest rid s
  | .dispatcherMoveLapse rid => Sys2Proof.Machine.execDispatcherMoveLapse rid s
  | .doorbell offset value => Sys2Proof.Machine.execDoorbell offset value s
  | .bar2Read offset bytes => Sys2Proof.Machine.execBar2Read offset bytes s
  | .bar2Write offset bytes => Sys2Proof.Machine.execBar2Write offset bytes s
  | .ptpsec => Sys2Proof.Machine.execPtpsec s
  | .evhead value => Sys2Proof.Machine.execEvhead value s
  | .injctl value => Sys2Proof.Machine.execInjctl value s
  | .bar4RegisterWrite offset value => Sys2Proof.Machine.execBar4RegisterWrite offset value s
  | .qcreate => Sys2Proof.Machine.execQcreate s
  | .qdestroy => Sys2Proof.Machine.execQdestroy s
  | .mapPages => Sys2Proof.Machine.execMapPages s
  | .unmap => Sys2Proof.Machine.execUnmap s
  | .coload => Sys2Proof.Machine.execCoload s
  | .counload => Sys2Proof.Machine.execCounload s
  | .tresume => Sys2Proof.Machine.execTresume s
  | .tstop => Sys2Proof.Machine.execTstop s
  | .resync => Sys2Proof.Machine.execResync s
  | .fwupdate => Sys2Proof.Machine.execFwupdate s
  | .ingset => Sys2Proof.Machine.execIngset s
  | .unassignedCommand => Sys2Proof.Machine.execUnassignedCommand s
  | .frameReceive port stamp frame => Sys2Proof.Machine.execFrameReceive port stamp frame s
  | .ptpMessage action => Sys2Proof.Machine.execPtpMessage action s
  | .linkReady link peerPackage peerLink => Sys2Proof.Machine.execLinkReady link peerPackage peerLink s
  | .linkDown link => Sys2Proof.Machine.execLinkDown link s
  | .peerSilentTimeout package => Sys2Proof.Machine.execPeerSilentTimeout package s
  | .recoveryNotice package => Sys2Proof.Machine.execRecoveryNotice package s
  | .doneNotice package kept => Sys2Proof.Machine.execDoneNotice package kept s
  | .doneNoticeTimeout package => Sys2Proof.Machine.execDoneNoticeTimeout package s
  | .powerClockDown milliwatts => Sys2Proof.Machine.execPowerClockDown milliwatts s
  | .powerClockUp milliwatts => Sys2Proof.Machine.execPowerClockUp milliwatts s
  | .packageReset => Sys2Proof.Machine.execPackageReset s
  | .unitReady bit => Sys2Proof.Machine.execUnitReady bit s
  | .readyDeadline bit => Sys2Proof.Machine.execReadyDeadline bit s
  | .heartbeatLoss => Sys2Proof.Machine.execHeartbeatLoss s
  | .activeFailureReport => Sys2Proof.Machine.execActiveFailureReport s
  | .standbyReboot => Sys2Proof.Machine.execStandbyReboot s
  | .mapWaitTimeout => Sys2Proof.Machine.execMapWaitTimeout s
  | .pcieCompletionTimeout job chunk => Sys2Proof.Machine.execPcieCompletionTimeout job chunk s
  | .standbyComplexFailure => Sys2Proof.Machine.execStandbyComplexFailure s
  | .preloadDropped core => Sys2Proof.Machine.execPreloadDropped core s

end Sys2Proof.Machine
end

