-- ==== Sys2Proof/Machine/TileOrder.lean ====
section
/-! DEFINITION. Accesses of different gangs to one tile (R235): the changes that a matrix instruction makes to single elements may come
behind another gang's access that no barrier phase and no mig has ordered. -/

namespace Sys2Proof.Machine

/-! ## Changes that come -/

/-- An element after a change, with the flags. -/
def Tile.changed (t : Tile) (i : Nat) (x : ElemChange) : Int × Nat × Flags :=
  let e := t.elem i
  match x with
  | .add g q c => addAt t.anchor (e.1, e.2, 0) g q (c, 0)
  | .put n c => (n, c, 0)
  | .anchor old new => let r := reanchor e.1 old new; (r.1, e.2, r.2)

/-- One change comes: the element, the sums of its tile, and the flags of the gang that made it. -/
def Team.change (t : Team) (x : TileChange) : Team :=
  let tile := t.tiles.getD x.tile Tile.zero
  let r := tile.changed x.elem x.change
  let t1 := t.logTile x.tile
  ({ t1 with tiles := t1.tiles.set x.tile (tile.setElems (fun i => if i = x.elem then (r.1, r.2.1) else tile.elem i)) } : Team).updGang x.gang
    (fun (g : Gang) => { g with flg := g.flg ||| BitVec.ofNat 6 r.2.2 })

/-- Of the changes still to come, those that come now and those that stay. Of one gang's changes to one element none passes an earlier one. -/
def partChanges (comes : Nat → TileChange → Bool) (l : List TileChange) : List TileChange × List TileChange :=
  (l.zip (List.range l.length)).foldl (fun r x =>
    let bound (y : TileChange) : Bool := y.gang == x.1.gang && y.tile == x.1.tile && y.elem == x.1.elem
    if comes x.2 x.1 && !r.2.any bound then (r.1 ++ [x.1], r.2) else (r.1, r.2 ++ [x.1])) ([], [])

def Team.changes (t : Team) (comes : Nat → TileChange → Bool) : Team :=
  let r := partChanges comes t.tileLate
  r.1.foldl Team.change { t with tileLate := r.2 }

/-! ## Before and after an instruction -/

/-- The tile whose elements an operation reads or writes. -/
def tileOperand (o : Op) (a : Args) : Option Operand :=
  match o with
  | .mma | .mmaRa | .accz | .accld | .accanc => some a.d
  | .accst => some a.b
  | .accmax => some a.a
  | _ => none

/-- The instructions before which all changes of their gang have come: arrival at a barrier phase and at mig, and exit (R58, R228, R235). -/
def arrivesAt (o : Op) : Bool :=
  match o with
  | .bar | .barar | .mig | .exit => true
  | _ => false

def ElemChange.isAnchor (x : ElemChange) : Bool := match x with | .anchor _ _ => true | .add _ _ _ | .put _ _ => false

/-- Before an access, the changes to its tile that precede it come: all of its own gang (R157), and of other gangs those that free values name; a new
anchor comes before every access but an mma (R235) [97, DESIGN CHOICE]. -/
def State.meetTiles (o : Op) (f : Form) (s : State) : State :=
  match View.open s with
  | none => s
  | some v =>
    if v.t.tileLate.isEmpty then s
    else if arrivesAt o then s.updTeam v.t.rid (fun t => t.changes (fun _ x => x.gang == v.gang))
    else
      match tileOperand o (f.args o) with
      | none => s
      | some d =>
        let k := v.tileOf d
        let mma := o == .mma || o == .mmaRa
        let anchored (x : TileChange) : Bool := v.t.tileLate.any (fun y => y.tile == x.tile && y.elem == x.elem && y.gang == x.gang && y.change.isAnchor)
        let s1 := s.updTeam v.t.rid (fun t => t.changes (fun i x =>
          x.tile == k && (x.gang == v.gang || Config.freeBit (s.free + i) || (!mma && anchored x))))
        { s1 with free := s1.free + v.t.tileLate.length }

/-- The contributions of an mma to an element, in the order of the groups. -/
def contributions (a b : List (List Group)) (i : Nat) : List (Int × Int × Nat × Flags) :=
  ((a.getD (i / 64) []).zip (b.getD (i % 64) [])).map (fun x => (groupInt x.1 x.2, x.1.q + x.2.q, groupClass x.1 x.2))

/-- What an operation makes of an element now, with its flags, and the changes it leaves to come later: of an mma the contributions from some group on,
of the others the whole change (R235) [97, DESIGN CHOICE]. -/
structure Left where
  elem : Int × Nat
  flags : Flags
  later : List ElemChange
deriving DecidableEq, Repr

/-- The contributions of an mma up to a group are made to an element that stands at an anchor, and the others are left; the flags that a product has
of its own are set with the instruction (R117). -/
def leaveAdds (anchor : Int) (e : Int × Nat) (l : List (Int × Int × Nat × Flags)) (n : Nat) : Left :=
  let z := (l.take n).foldl (fun z x => addAt anchor z x.1 x.2.1 x.2.2) (e.1, e.2, 0)
  { elem := (z.1, z.2.1), flags := (l.drop n).foldl (fun w x => Flags.join w x.2.2.2) z.2.2
    later := (l.drop n).map (fun x => .add x.1 x.2.1 x.2.2.1) }

/-- What an operation leaves of an element; anchor is that at which the element stands [97, DESIGN CHOICE]. -/
def leaveElem (o : Op) (ga gb : List (List Group)) (late : Nat → Bool) (anchor : Int) (old new : Tile) (i : Nat) : Left :=
  match o with
  | .mma | .mmaRa =>
    let l := contributions ga gb i
    leaveAdds anchor (old.elem i) l (((List.range l.length).find? (fun g => late (4096 * g + i))).getD l.length)
  | .accz | .accld =>
    if late i then { elem := old.elem i, flags := 0, later := [.put (new.elem i).1 (new.elem i).2] } else { elem := new.elem i, flags := 0, later := [] }
  | .accanc =>
    if late i then { elem := old.elem i, flags := 0, later := [.anchor old.anchor new.anchor] }
    else { elem := new.elem i, flags := (reanchor (old.elem i).1 old.anchor new.anchor).2, later := [] }
  | _ => { elem := new.elem i, flags := 0, later := [] }

/-- The anchor at which an element stands: that of its tile, or the one before an accanc that has still to come to it. -/
def Team.anchorOf (t : Team) (k : Nat) (tile : Tile) (i : Nat) : Int :=
  (t.tileLate.findSome? (fun x => match x.change with
    | .anchor old _ => if x.tile == k && x.elem == i then some old else none
    | _ => none)).getD tile.anchor

/-- The instruction of the open context has been performed: it has raised nothing, and does not wait. -/
def View.performed (v : View) (u : State) : Bool :=
  match (u.team? v.t.rid).bind (fun t => t.gangs[v.gang]?) with
  | none => false
  | some g =>
    match g.splits[v.k]? with
    | none => false
    | some sp => if v.native then sp.raised.isNone && sp.wait == .ready else g.issued == v.g.issued + 1

/-- After an instruction that has changed its tile's elements in a team of several live gangs, some of the changes are left to come later, which
free values name; none where an error of the matrix pipe took part, or the instruction was not performed (R235, R236) [97, DESIGN CHOICE]. -/
def State.leaveTiles (o : Op) (f : Form) (s u : State) : State :=
  match View.open s, tileOperand o (f.args o) with
  | some v, some d =>
    let k := v.tileOf d
    (match u.team? v.t.rid with
     | some t =>
       let old := v.tile k
       let new := t.tiles.getD k Tile.zero
       if t.liveGangs ≤ 1 || !v.performed u || old.elems == new.elems || !(s.coreOf v.t.core).pipe.isEmpty then u
       else
         let mma := o == .mma || o == .mmaRa
         let ops := ((v.mmaOperands (o == .mmaRa) (f.args o)).map (fun x => x.2)).getD ([], [])
         let out := (List.range 4096).map (fun i =>
           leaveElem o ops.1 ops.2 (fun n => Config.freeBit (u.free + n)) (v.t.anchorOf k old i) old new i)
         let changes := (out.zip (List.range 4096)).flatMap (fun x =>
           x.1.later.map (fun y => ({ gang := v.gang, tile := k, elem := x.2, change := y } : TileChange)))
         let whole := changes.isEmpty && v.t.tileLate.isEmpty
         if whole then { u with free := u.free + 65536 }
         else
         let tile := new.setElems (fun i => ((out[i]?).map (fun x => x.elem)).getD (new.elem i))
         let flags := BitVec.ofNat 6 (out.foldl (fun f x => Flags.join f x.flags) 0)
         let reflag (g : Gang) : Gang :=
           if !(mma || o == .accanc) then g
           else if v.native then g.updSplit v.k (fun sp => { sp with held := v.sp.held ||| flags })
           else { g with flg := v.g.flg ||| flags }
         let u1 := u.updTeam v.t.rid (fun (t : Team) => { t.updGang v.gang reflag with tiles := t.tiles.set k tile, tileLate := t.tileLate ++ changes })
         { u1 with free := u1.free + 65536 }
     | none => u)
  | _, _ => u

/-- An instruction of the selected context, with the order of its gang's accesses to tiles around it (R235). -/
def State.ordered (o : Op) (f : Form) (s : State) : Result :=
  let s1 := s.meetTiles o f
  match exec (Instr.ofOp o f) s1 with
  | .next u => .next (s1.leaveTiles o f u)
  | .fault x => .fault x
  | .refused x => .refused x

end Sys2Proof.Machine
end

