-- ==== Sys2Proof/Machine/Issue.lean ====
section
/-! DEFINITION. What one step does: events that are due, engines' events, and the issue of one JV instruction or one native
bundle by the context a sequencer has selected (R53 to R56, R275 to R313, R424). -/

namespace Sys2Proof.Machine

/-! ## Time -/

/-- Clocks of waits that stand while a time passes: what they have counted stays (R483, R484). Off its core a wait is not timed at all (R482). -/
def State.standClocks (s : State) (d : Nat) : State :=
  if s.hub.peers.any (fun x => !s.pkgAnswers x.1) then
    s.mapSplits (fun t gang k sp => if t.onCore && s.clockStands t gang k sp then { sp with waitStart := sp.waitStart + d } else sp)
  else s

/-- Time passes by one step; the PTP clock is slewed (R395) [5, DESIGN CHOICE]. -/
def State.tickTime (s : State) : State :=
  let d : Int := s.hub.slewRest + (s.stepNs : Int) * s.hub.slewPpm
  let n : Nat := ((s.stepNs : Int) + d / 1000000).toNat
  let s1 := s.standClocks n
  { s1 with now := s.now + s.stepNs, ptp := s.ptp + n, hub := { s1.hub with slewRest := d % 1000000 } }

/-! ## Which contexts issue (R49, R53, R63, R65, R364, R433) -/

/-- The gated store buffer of a gang's sequencer has some number of entries free (R304). -/
def State.bufferRoom (s : State) (t : Team) (g : Gang) (need : Nat) : Bool :=
  let q := seqOf t.core.kind g.slot
  decide ((s.teams.filter (fun u => u.core == t.core && u.onCore)).foldl (fun n u =>
    u.gangs.foldl (fun n h => if seqOf u.core.kind h.slot = q then h.splits.foldl (fun n sp => n + sp.gated.length) n else n) n) 0 + need ≤ 64)

/-- The wait of a context lets it issue: it is ready, or held by something that is there now [23, DEDUCED]. -/
def State.waitOver (s : State) (t : Team) (g : Gang) (w : Wait) : Bool :=
  match w with
  | .ready => true
  | .buffer need => s.bufferRoom t g need
  | .interlock time => decide (time ≤ s.now)
  | .remote pkg va => (match s.route pkg va with | some (.park _) => false | _ => true)
  | _ => false

/-- A team's contexts may issue: it is on its core, not moving, and its cooperative task stands whole. -/
def State.teamRuns (s : State) (t : Team) : Bool :=
  (match t.status with | .resident | .stopping _ _ | .suspending => true | _ => false) && !t.moving
  && (t.status == .suspending || s.hub.tasks.all (fun (k : Task) => k.id != t.task || !k.coop
      || (k.started.length == k.count && s.teams.all (fun u => u.task != k.id || u.onCore))))

/-- A split of a gang whose handler runs issues only as part of the handler. -/
def Gang.mayIssue (g : Gang) (k : Nat) : Bool :=
  match g.handler with
  | some h => k == h.split || !((h.saved.getD k Split.unused).used)
  | none => true

/-- A split of the gang is parked on a page, and with it the whole gang (R463). -/
def Gang.onPage (g : Gang) : Bool :=
  (List.range 4).any (fun k => g.mayIssue k && (match (g.splits.getD k Split.unused).wait with | .page _ _ _ _ => true | _ => false))

/-! ## What holds a bundle (R53, R293) -/

/-- A slot word, decoded. -/
abbrev SlotOp := Nat × Except Problem (Op × NatForm)

def decodeBundle (kind : CoreKind) (ws : List Word) : List SlotOp :=
  (ws.zip (List.range ws.length)).map (fun x => (x.2, decodeSlot kind x.2 x.1))

/-- The registers an operand names, as physical locations: pairs for 64 bits, the members of a tile (R293). -/
def View.operandLocs (v : View) (r : Role) (a : Args) (o : Operand) : List Nat :=
  match r with
  | .unused | .label | .optLabel | .number | .selector | .acc | .accSrc | .member _ => []
  | _ =>
    let q := roleSpan r a
    (List.range q.2).flatMap (fun i =>
      match o with
      | .vx _ | .vy _ | .vl _ =>
        let x := o.shift (if q.1 = 64 then 2 * i else i)
        if q.1 = 64 then [v.locOf x, v.locOf (x.shift 1)] else [v.locOf x]
      | .sreg _ | .preg _ | .lr => [v.locOf (o.shift i)]
      | _ => [])

/-- The locations of n registers from an operand's on. -/
def View.runLocs (v : View) (o : Operand) (n : Nat) : List Nat :=
  (List.range n).flatMap (fun i => match o with
    | .vx _ | .vy _ | .vl _ | .sreg _ => [v.locOf (o.shift i)]
    | _ => [])

/-- Registers that an operation names otherwise than as single values: the tile of a movi, whose size is in off (R166), that of an xcut (R253), the
origin registers of htens, as many as its map has dimensions (R213), and LR of a loop (R300). -/
def View.tileLocs (v : View) (o : Op) (a : Args) : List Nat :=
  match o with
  | .movi => v.runLocs a.a (memberStep a.a a.ty * a.off.toNat)
  | .xcut => v.runLocs a.a 32
  | .htens | .htensSt => v.runLocs a.c (TMap.ofWords (v.mapWords a)).dims
  | .loop => [208]
  | _ => []

/-- The registers a bundle reads or writes. -/
def View.bundleLocs (v : View) (ops : List SlotOp) : List Nat :=
  ops.flatMap (fun x => match x.2 with
    | .error _ => []
    | .ok (o, f) =>
      let a := (Form.nat f).args o
      let r := o.roles a.ty a.sub
      (if f.g.toNat = 0 then [] else [192 + f.g.toNat])
      ++ v.operandLocs r.d a a.d ++ v.operandLocs r.a a a.a ++ v.operandLocs r.b a a.b ++ v.operandLocs r.c a a.c
      ++ v.operandLocs (.srcUni 64) a a.kreg ++ v.tileLocs o a
      ++ (if o = .brx || o = .callx then v.operandLocs (.src 64) a a.a else []))

/-- The operation has to come behind the context's operations on their way to face units: it accesses memory, moves data or
commits (R265, R267). -/
def afterFace (o : Op) : Bool :=
  match o with
  | .ld | .ldu | .st | .atom | .cas | .aqadd | .fgath | .waita | .fence | .pref | .codeload | .launch | .accld | .accst | .mma | .mmaRa
  | .tri | .hcopy | .hcopyCk | .htens | .htensSt | .hgath | .hscat | .hred | .hmcast | .hfill | .hwait | .htest | .ckpack | .ckpackUnpk
  | .ckver | .ckinfo | .cmt | .eqp | .join | .exit | .bar | .barar | .barwt | .mig | .trap | .tret | .brkpt => true
  | _ => false

/-- How a context is held: not at all, in place, or by a long-latency interlock that leaves its sequencer to others (R53). -/
inductive Hold where
  | none
  | short
  | long
deriving DecidableEq, Repr

/-- Lanes of a context are among those of a result; a result of one value has all lanes. -/
def meetsLanes (m lanes : Mask) : Bool := m &&& lanes != 0

/-- What holds a context at the instruction or bundle it is to issue: its own operations at face units, or, on the native machine,
an interlocked result that the bundle names [34, DEDUCED]. -/
def State.holdOf (s : State) (t : Team) (gang : Nat) (g : Gang) (k : Nat) (sp : Split) : Hold :=
  let reqs := s.faceReqs.filter (fun q => q.rid == t.rid && q.gang == gang)
  let mine := reqs.filter (fun q => q.split == k)
  let kindOf (qs : List FaceReq) : Hold :=
    if qs.isEmpty then .none else if qs.any (fun q => q.unit / 256 != s.hub.config.package) then .long else .short
  if !t.runsNative g || sp.stage.isSome then kindOf mine
  else
    let loads := g.splits.flatMap (fun x => x.loads.filter (fun f => decide (s.now < f.due) && meetsLanes sp.mask f.lanes))
    if loads.isEmpty && reqs.isEmpty then .none
    else
      match t.bundleAt sp.pc with
      | none => .none
      | some ws =>
        let ops := decodeBundle t.core.kind ws
        let v : View := { s := s, t := t, g := g, k := k, sp := sp, native := t.runsNative g, lat := none }
        let locs := v.bundleLocs ops
        let after := ops.any (fun x => match x.2 with | .ok (o, _) => afterFace o | .error _ => false)
        let hit (l : List Nat) : Bool := l.any (fun n => locs.contains n)
        if loads.any (fun f => hit [f.loc]) then .long
        else kindOf (reqs.filter (fun q => (q.split == k && after)
          || (hit q.locs && q.parts.any (fun x => q.uniform || sp.mask.getLsbD x.1))))

/-- The context is ready (R53). A commit point under way goes on though its gang has a fault to deliver, or is parked on a page. -/
def State.readyCtx (s : State) (t : Team) (gang : Nat) (g : Gang) (k : Nat) (sp : Split) : Bool :=
  sp.used && s.waitOver t g sp.wait && ((g.entering.isNone && !g.onPage) || sp.performing) && g.mayIssue k
  && (match t.status with
      | .stopping _ _ => g.handler.isSome || sp.sinceCommit != 0 || sp.stage.isSome
      | .suspending => g.handler.isSome
      | _ => true)
  && s.holdOf t gang g k sp != .long

/-- A long-latency interlock, or its gang's park on a page, holds the context (R53, R463). -/
def State.heldAway (s : State) (t : Team) (gang : Nat) (g : Gang) (k : Nat) (sp : Split) : Bool :=
  (match sp.wait with
   | .buffer _ | .interlock _ | .remote _ _ => !s.waitOver t g sp.wait
   | .ready => s.holdOf t gang g k sp == .long || g.onPage
   | _ => false)

/-- A ready context with what the choice among contexts reads. -/
structure Ready where
  rid : Nat
  gang : Nat
  split : Nat
  core : CoreId
  seq : Nat
  stamp : Nat
  slot : Nat
deriving DecidableEq, Repr

/-- Every ready context. -/
def State.readyList (s : State) : List Ready :=
  s.teams.flatMap (fun t =>
    if s.teamRuns t then
      (t.gangs.zip (List.range t.gangs.length)).flatMap (fun (x : Gang × Nat) =>
        (x.1.splits.zip (List.range 4)).filterMap (fun (y : Split × Nat) =>
          if s.readyCtx t x.2 x.1 y.2 y.1 then
            some { rid := t.rid, gang := x.2, split := y.2, core := t.core, seq := seqOf t.core.kind x.1.slot, stamp := y.1.stamp, slot := x.1.slot }
          else none))
    else [])

def Ready.sameUnit (a b : Ready) : Bool := a.core == b.core && a.seq == b.seq
def Ready.ctx (r : Ready) : Nat × Nat × Nat := (r.rid, r.gang, r.split)

/-- The smallest stamp, then the lower slot, then the lower split (R55). -/
def Ready.before (a b : Ready) : Bool :=
  decide (a.stamp < b.stamp) || (a.stamp == b.stamp && (decide (a.slot < b.slot) || (a.slot == b.slot && decide (a.split < b.split))))

/-- One context for each sequencer that has one: the selected one, or the one its sequencer selects next. -/
def State.candidates (s : State) : List (Ready × Bool) :=
  let all := s.readyList
  let units := all.foldl (fun (us : List Ready) r => if us.any (fun u => u.sameUnit r) then us else us ++ [r]) []
  units.filterMap (fun u =>
    let mine := all.filter (fun r => r.sameUnit u)
    let sel := (s.coreOf u.core).sel.getD u.seq none
    match mine.find? (fun r => sel == some r.ctx) with
    | some r => some (r, true)
    | none =>
      (mine.foldl (fun (a : Option Ready) r => match a with
        | none => some r
        | some b => if r.before b then some r else some b) none).map (fun r => (r, false)))

/-- The sequencers take turns (the model's choice of one order among those the machine allows) [4, DESIGN CHOICE]. -/
def State.candidate (s : State) : Option (Ready × Bool) :=
  let cs := s.candidates
  if cs.isEmpty then none else cs[s.turn / 2 % cs.length]?

/-- A sequencer's selection. -/
def State.setSel (s : State) (c : CoreId) (q : Nat) (x : Option (Nat × Nat × Nat)) : State :=
  let core := s.coreOf c
  s.setCore { core with sel := core.sel.set q x, clock := core.clock + 1 }

/-! ## A JV instruction -/

/-- Raise a class 1 fault of JV code that holds no instruction at the PC. -/
def State.raiseJv (s : State) (t : Team) (gang k : Nat) (sp : Split) (r : Raise) : State :=
  s.deliver r { rid := t.rid, gang := gang, split := k, npc := Config.nativePc t.kern.handle t.core.kind sp.pc }

/-- What a split does with the JV words at its PC: the decoded instruction is executed; words that are none raise their
class 1 cause. -/
def State.runWords (s : State) (t : Team) (gang k : Nat) (sp : Split) (ws : List Word) : Result :=
  match decodeJv ws with
  | .ok o f _ => State.ordered o (.jv f) { s with cur := some { rid := t.rid, gang := gang, split := k } }
  | .bad p _ => .next (s.raiseJv t gang k sp (classOne p))

/-- A check that Tiarlo inserted may stand before any instruction of its translation (R226): it finds a SIG register in error, which raises 641
(R488); the value that it compares SIG with is then free [89, DEDUCED]. -/
def State.sigCheck (s : State) (t : Team) (gang k : Nat) (sp : Split) : Option State :=
  if sp.sigOff && Config.freeBit s.free then
    some (({ s with free := s.free + 2 } : State).raiseJv t gang k sp { cause := 641, info := 0, addr := (Config.freeWord (s.free + 1)).toNat })
  else none

/-- One JV instruction of a context: with the words at its PC; where the code has ended, or no instruction starts, the fault
point is that of an unassigned word [27, DEDUCED] [10, DESIGN CHOICE]. -/
def State.runJv (s : State) (t : Team) (gang k : Nat) (sp : Split) : Result :=
  match s.sigCheck t gang k sp with
  | some s1 => .next s1
  | none =>
  let s : State := if sp.sigOff then { s with free := s.free + 1 } else s
  match t.fetchWords sp.region sp.pc with
  | some ws => s.runWords t gang k sp ws
  | none => .next (s.raiseJv t gang k sp { cause := 64, info := 56, addr := 0 })

/-- The operation at a JV context's PC. -/
def Team.jvOp (t : Team) (sp : Split) : Option Op :=
  (t.fetchWords sp.region sp.pc).bind (fun ws => match decodeJv ws with | .ok o _ _ => some o | .bad _ _ => none)

/-! ## A native bundle (R275 to R280, R302 to R309, R424, R448) -/

/-- The S operations that commit implicitly (R302). -/
def implicitCommit (o : Op) (a : Args) : Bool :=
  match o with
  | .bra | .brx => a.b != .none || o == .brx
  | .join | .exit | .bar | .barar | .mig | .trap | .tret | .brkpt | .codeload | .launch => true
  | .fence => a.rel
  | _ => false

def explicitCommit (o : Op) : Bool := o == .cmt || o == .eqp

/-- A wait that keeps a bundle from issuing: it is issued again. -/
def retries (w : Wait) : Bool :=
  match w with
  | .page _ _ _ _ | .remote _ _ | .full | .buffer _ => true
  | _ => false

/-- A wait at which an operation of a bundle that has issued stands, and goes on from there (R57, R60). -/
def standsAt (w : Wait) : Bool :=
  match w with
  | .haul _ | .word _ _ _ _ _ | .barwt _ _ => true
  | _ => false

/-- The wait of a context. -/
def State.waitOf (s : State) (c : Cur) : Wait := ((s.split? c.rid c.gang c.split).map (fun sp => sp.wait)).getD .ready

/-- What an operation that stood at a wait read at its issue is read no more. -/
def State.unlatch (s : State) (c : Cur) : State :=
  if ((s.split? c.rid c.gang c.split).map (fun sp => sp.latched.isSome)).getD false then
    s.updSplit c.rid c.gang c.split (fun sp => { sp with latched := none })
  else s

/-- What stops a bundle: a cause with its slot, or a wait. -/
inductive Stop where
  | raise (r : Raise) (slot : Nat)
  | park (w : Wait)
deriving DecidableEq, Repr

/-- What the context of a slot operation shows after it: a cause, or a wait for which the bundle is issued again. -/
def State.stopOf (s : State) (c : Cur) : Option Stop :=
  match s.split? c.rid c.gang c.split with
  | some sp =>
    (match sp.raised with
     | some (r, slot) => some (.raise r slot)
     | none => if retries sp.wait then some (.park sp.wait) else none)
  | none => none

/-- Execute one slot operation [33, DEDUCED]. -/
def State.runSlot (s : State) (c : Cur) (o : Op) (f : NatForm) : State :=
  match State.ordered o (.nat f) { s with cur := some c } with
  | .next s1 => s1
  | _ => s

/-- The gated entries of the context are performed (R305). -/
def State.flushGated (s : State) (c : Cur) : State :=
  match View.open { s with cur := some c } with
  | some v => (v.flush).close
  | none => s

/-- What a commit point performs behind the issue of its bundle: stores and once-only operations (R304, R305). -/
def lateOp (o : Op) : Bool :=
  match o with
  | .st | .atom | .cas | .aqadd | .mma | .mmaRa | .accz | .accld | .accst | .accanc | .tri | .asstTol | .asstClr
  | .hcopy | .hcopyCk | .htens | .htensSt | .hgath | .hscat | .hred | .hmcast | .hfill | .ckpack | .ckpackUnpk | .ckver => true
  | _ => false

/-- The once-only operations, which have to stand in a commit bundle (R304). -/
def onceOnly (o : Op) (a : Args) : Bool := lateOp o && (o != .st || a.rel)

/-- An S operation that comes before the other slots of its bundle in program order and that these can tell (R277, R302): a fence
that is no release, barwt, an acquire, and nsleep, a wait. -/
def performsFirst (o : Op) : Bool :=
  match o with
  | .fence | .barwt | .nsleep => true
  | _ => false

/-- The slots behind S on a trial run, in slot order, up to the first one that stops; an operation that would stand at a wait is passed. -/
def State.runSlots (c : Cur) : List SlotOp → State → State × Option Stop
  | [], s => (s, none)
  | (i, w) :: r, s =>
    match w with
    | .error p => (s, some (.raise (classOne p) i))
    | .ok (.nop, _) => State.runSlots c r s
    | .ok (o, f) =>
      let s1 := s.runSlot c o f
      match s1.stopOf c with
      | some x => (s1, some x)
      | none =>
        State.runSlots c r (if standsAt (s1.waitOf c) then s1.updSplit c.rid c.gang c.split (fun sp => { sp with wait := .ready, latched := none })
          else s1)

/-- Of the results in flight of a context, those of the S operation, the last ones, go before the n2 - n1 results of the other slots
of the bundle: the later slot prevails (R292). -/
def Split.orderResults (sp : Split) (n1 n2 : Nat) : Split :=
  if n2 ≤ sp.flight.length then
    { sp with flight := sp.flight.take n1 ++ sp.flight.drop n2 ++ (sp.flight.take n2).drop n1 }
  else sp

/-- The S operation, to which the flags of the same bundle are not yet visible. -/
def State.runS (s : State) (c : Cur) (held : BitVec 6) (n1 : Nat) (o : Op) (f : NatForm) : State :=
  let sp := (s.split? c.rid c.gang c.split).getD Split.unused
  let after := sp.held
  let n2 := sp.flight.length
  let s2 :=
    if held = after || explicitCommit o then s.runSlot c o f
    else
      let s1 := (s.updSplit c.rid c.gang c.split (fun sp => { sp with held := held })).runSlot c o f
      s1.updSplit c.rid c.gang c.split (fun sp => { sp with held := sp.held ||| after })
  if n1 = n2 then s2 else s2.updSplit c.rid c.gang c.split (fun sp => sp.orderResults n1 n2)

/-- The keyed record of a resume bundle, checked. -/
def Team.keyedRecord (t : Team) (pc : Nat) : Except Raise Record :=
  match t.natCode with
  | some n =>
    (match n.keyedAt pc with
     | some r => if (n.mapsOf r).any (fun e => e.bad t.core.kind) then .error (defect 769) else .ok r
     | none => .error (defect 768))
  | none => .error (defect 768)

/-- The indexed record of a mig bundle, checked, else the keyed record behind it, the JV PC of the mig itself then being free (R443)
[32, DEDUCED]. -/
def Team.migRecord (t : Team) (pc fall : Nat) : Except Raise Record :=
  match t.natCode.bind (fun n => (n.indexed.find? (fun r => r.npc == pc)).map (fun r => (n, r))) with
  | some (n, r) => if (n.mapsOf r).any (fun e => e.bad t.core.kind) then .error (defect 769) else .ok r
  | none => (t.keyedRecord fall).map (fun r => { r with jvpc := Config.jvPcOf t.kern.handle t.core.kind pc 0 })

/-- The record of a commit bundle's commit point: for an implicit commit that of the bundle at which its context resumes, next for an
operation that may leave it elsewhere than behind the bundle (R302, R314). -/
def Team.commitRecord (t : Team) (o : Op) (a : Args) (pc fall next : Nat) : Except Raise (Option Record) :=
  match o with
  | .cmt | .eqp => .ok (t.natCode.bind (fun n => n.indexed[a.off.toNat]?))
  | .mig => (t.migRecord pc fall).map some
  | .bra | .brx | .join | .exit | .tret =>
    (match t.keyedRecord next with
     | .ok r => .ok (some r)
     | .error _ => .ok none)
  | _ => (t.keyedRecord fall).map some

/-- A trap that ends its team leaves no split to resume: no resume bundle then needs a record (R302, R423)
[32, DEDUCED]. -/
def Team.commitRecordAfter (t : Team) (after : State) (o : Op) (a : Args) (pc fall next : Nat) : Except Raise (Option Record) :=
  match o, (after.team? t.rid).map (fun u => u.status) with
  | .trap, some (TeamStatus.ending _ _ _ _ _ _) | .trap, none => .ok (t.keyedRecord fall).toOption
  | _, _ => t.commitRecord o a pc fall next

/-- A split that the S operation has moved or made. -/
def movedBy (a b : Split) (own : Bool) : Bool :=
  b.used && (own || !a.used || a.pc != b.pc || a.mask != b.mask || a.lr != b.lr || a.rrb != b.rrb)

/-- A result of one value for the gang: a scalar, or LR. -/
def Flight.scalar (f : Flight) : Bool := (decide (128 ≤ f.loc) && decide (f.loc < 192)) || f.loc == 208

/-- Results in flight for some lanes; those of scalars only where keep says so. -/
def flightFor (l : List Flight) (m : Mask) (keep : Bool) : List Flight :=
  (l.filter (fun f => if f.scalar then keep else f.lanes &&& m != 0)).map (fun (f : Flight) =>
    if f.scalar then f else { f with lanes := f.lanes &&& m })

/-- Snapshots of the splits that the S operation of an implicit commit leaves (R302, R305). A trap's fault that is held has rolled them back (R427). -/
def State.snapMoved (s0 s1 : State) (c : Cur) : Except Raise State :=
  match (s0.team? c.rid).bind (fun t => t.gangs[c.gang]?), s1.team? c.rid with
  | some g0, some t =>
    (match t.gangs[c.gang]? with
     | some g1 =>
       if g1.handler.isSome || g1.entering.isSome || g1.exited || (match t.status with | .ending _ _ _ _ _ _ => true | _ => false) then .ok s1
       else
         [0, 1, 2, 3].foldl (fun (a : Except Raise State) k =>
           match a with
           | .error e => .error e
           | .ok s =>
             let x := g0.splits.getD k Split.unused
             let y := g1.splits.getD k Split.unused
             if movedBy x y (k == c.split) then
               match t.keyedRecord y.pc with
               | .error e => .error e
               | .ok r =>
                 let fl := if x.used then flightFor y.flight y.mask true else flightFor (g0.splits.getD c.split Split.unused).flight y.mask false
                 let n : Snapshot := { pc := y.pc, mask := y.mask, fmt := y.fmt, sig := y.sig, ret := y.ret, lr := y.lr, rrb := y.rrb
                                       flight := fl, regs := g1.nregs, record := some r, again := none }
                 .ok (s.updSplit c.rid c.gang k (fun sp => { sp with snap := some n, sinceCommit := 0 }))
             else .ok s) (.ok s1)
     | none => .ok s1)
  | _, _ => .ok s1

/-- An alias conflict with a safe copy (R309). -/
def State.aliasConflict (s : State) (c : Cur) (safe : Nat) : State :=
  s.updTeam c.rid (fun t => t.updGang c.gang (fun g =>
    let g1 := g.rollback c.split
    { g1.updSplit c.split (fun sp => { sp with pc := safe, tally := sp.tally.plus { Counters.zero with adt := 1 } }) with
      conflicts := g1.conflicts + 1 }))

/-- The safe PC of the last commit point's record. -/
def Split.safe (sp : Split) : Nat := ((sp.snap.bind (fun n => n.record)).map (fun r => r.safe)).getD 0

/-- A bundle stops with a cause: nothing of it stays, and the cause is delivered against it, record being that of its commit point
[39, DEDUCED]. -/
def State.bundleRaise (s : State) (c : Cur) (sp : Split) (r : Raise) (slot : Nat) (record : Option Record) : State :=
  if r.cause = 770 ∧ sp.safe ≠ 0 then s.aliasConflict c sp.safe
  else s.deliver r { rid := c.rid, gang := c.gang, split := c.split, npc := BitVec.ofNat 64 sp.pc, slot := slot, record := record }

/-- The limits of the native machine at the end of a bundle (R303, R308, R310): n bundles of the interval were issued before it [100, DESIGN CHOICE]. -/
def Split.beyond (sp : Split) (n : Nat) : Bool :=
  sp.used && (decide (1024 < n + 1) || decide (48 < sp.flight.length) || decide (128 < sp.adt.length))

/-- The cause found for the gated entries of a commit bundle, or a wait [39, DEDUCED]. -/
def State.gatedStop (s : State) (c : Cur) : Option Stop :=
  match View.open { s with cur := some c } with
  | some v => (match v.gatedCheck with
      | some (.inl r) => some (.raise r 0)
      | some (.inr w) => some (.park w)
      | none => none)
  | none => none

/-- A once-only operation outside a commit bundle would be replayed with its interval, which R194 excludes: the machine takes it as
native code beyond its limits [69, DESIGN CHOICE]. -/
def onceOutside (rest : List SlotOp) : Option Stop :=
  rest.findSome? (fun x => match x.2 with
    | .ok (o, f) => if onceOnly o ((Form.nat f).args o) then some (.raise (defect 771) x.1) else none
    | .error _ => none)

/-- A mig bundle is an equivalence point (R302, R307). -/
def State.migStop (s : State) (c : Cur) (o : Op) (a : Args) (pc fall : Nat) : Option Stop :=
  if o = .mig then
    match View.open { s with cur := some c } with
    | some v =>
      (match v.t.commitRecord o a pc fall fall with
       | .ok (some r) => if v.equivalent r then none else some (.raise (defect 771) 0)
       | .ok none => none
       | .error r => some (.raise r 0))
    | none => none
  else none

/-- The tiles read in a trial run of a bundle that has to be issued again (R236). -/
def State.keepTiles (s s1 : State) (c : Cur) : State :=
  match s1.split? c.rid c.gang c.split with
  | some x => if x.tileLog.isEmpty then s else s.updSplit c.rid c.gang c.split (fun sp => { sp with tileLog := x.tileLog })
  | none => s

/-- A resume bundle that a bundle's S operation leaves its splits at has no record (768), which is found before anything is performed
(R424). -/
def State.resumeStop (s0 s1 : State) (c : Cur) (o : Op) : Option Stop :=
  if o = .mig then none
  else match State.snapMoved s0 s1 c with
    | .error e => some (.raise e 0)
    | .ok _ => none

/-- A trap's entry into the handler waits, with its fault held, where its frame is not there (R427): it does not keep the bundle from issuing. -/
def stopsBundle (o : Op) (x : Option Stop) : Option Stop :=
  match o, x with
  | .trap, some (.park _) => none
  | _, x => x

/-- Judge a bundle on a trial run of its slots: the state after it, or what stops it (R424). -/
def State.tryBundle (s : State) (c : Cur) (o : Op) (f : NatForm) (rest : List SlotOp) (pc fall : Nat) : State × Option Stop :=
  let sp := (s.split? c.rid c.gang c.split).getD Split.unused
  let a := (Form.nat f).args o
  let imp := implicitCommit o a
  let commits := imp || explicitCommit o
  if performsFirst o && !imp then
    let r0 := State.runSlots c [(0, .ok (o, f))] s
    match r0.2 with
    | some x => (s, some x)
    | none =>
      let r := State.runSlots c rest r0.1
      (match r.2 with
       | some x => (s.keepTiles r.1 c, some x)
       | none => (r.1, onceOutside rest))
  else
    let r := State.runSlots c rest s
    let kept := s.keepTiles r.1 c
    let base := if r.2.isSome then s else r.1
    let s2 := base.runS c sp.held sp.flight.length o f
    match stopsBundle o (s2.stopOf c) with
    | some x => (kept, some x)
    | none =>
      match r.2 with
      | some x => (kept, some x)
      | none =>
        if commits then
          (s2, (r.1.migStop c o a pc fall).orElse (fun _ => if imp then (r.1.gatedStop c).orElse (fun _ => State.resumeStop r.1 s2 c o) else none))
        else (s2, onceOutside rest)

/-! ## The slots of a bundle that has issued (R13, R57, R60, R265, R267, R277) -/

/-- The operation keeps its place among those of its bundle that memory and waits can tell apart. -/
def ordered (o : Op) : Bool := afterFace o || o == .nsleep

/-- Of the slots of a commit bundle, those that its commit point performs: stores and once-only operations, and, behind a once-only one, every
operation that keeps its place (R265, R277). -/
def lateSlots : List SlotOp → Bool → List SlotOp
  | [], _ => []
  | x :: r, behind =>
    match x.2 with
    | .error _ => lateSlots r behind
    | .ok (o, f) =>
      let late := lateOp o || (behind && ordered o)
      (if late then [x] else []) ++ lateSlots r (behind || onceOnly o ((Form.nat f).args o))

/-- The context has accesses on their way to face units, or stands at a wait. -/
def State.busy (s : State) (c : Cur) : Bool :=
  s.faceReqs.any (fun q => q.rid == c.rid && q.gang == c.gang && q.split == c.split) || s.waitOf c != .ready

/-- A pass over the slots of a bundle that has issued: the state, the first slot that has to wait, and what stops the bundle. -/
structure Pass where
  s : State
  waits : Option Nat
  stop : Option Stop

/-- One slot of a pass from a slot on; late are the slots that are left to the commit point. On the first pass everything is performed that needs
not wait for a slot before it; later ones perform what is left, with the sources read at issue. A relaxed store only enters the gated buffer. -/
def Pass.slot (c : Cur) (first : Bool) (late : List Nat) (start : Nat) (p : Pass) (x : SlotOp) : Pass :=
  match x.2 with
  | .error _ => p
  | .ok (o, f) =>
    if p.stop.isSome || o = .nop || late.contains x.1 then p
    else if ordered o then
      if x.1 < start || p.waits.isSome then p
      else if o != .st && p.s.busy c then { p with waits := some x.1 }
      else
        let s1 := p.s.runSlot c o f
        match s1.stopOf c with
        | some (.raise r k) => { p with stop := some (.raise r k) }
        | some (.park w) => { p with s := s1, waits := some x.1, stop := some (.park w) }
        | none => if standsAt (s1.waitOf c) then { p with s := s1, waits := some x.1 } else { p with s := s1.unlatch c }
    else if first then { p with s := p.s.runSlot c o f }
    else p

/-- A pass over a bundle's slots, with the S operation where it stands in program order. -/
def State.passSlots (s : State) (c : Cur) (o : Op) (f : NatForm) (rest : List SlotOp) (first : Bool) (start : Nat) : Pass :=
  let imp := implicitCommit o ((Form.nat f).args o)
  let commits := imp || explicitCommit o
  let sp := (s.split? c.rid c.gang c.split).getD Split.unused
  let early := performsFirst o && !imp
  let late := if commits then (lateSlots rest false).map (fun x => x.1) else []
  let p := (if early then (0, .ok (o, f)) :: rest else rest).foldl (Pass.slot c first late start) { s := s, waits := none, stop := none }
  if first && !commits && !early && p.stop.isNone then { p with s := p.s.runS c sp.held sp.flight.length o f } else p

/-! ## The commit point (R305) -/

/-- The context still waits for small gathers, or for once-only operations, at face units. -/
def State.awaits (s : State) (c : Cur) (reads : Bool) : Bool :=
  s.faceReqs.any (fun q => q.rid == c.rid && q.gang == c.gang && q.split == c.split && q.parts.all (fun x => x.2.2 == .read) == reads)

/-- The loads of the interval arrive, while the context's clock runs: those on their way for the longest count of clocks; one from
afar lets every exposed result land (R305) [67, DESIGN CHOICE]. -/
def State.awaitLoads (s : State) (c : Cur) : State :=
  match s.team? c.rid, s.split? c.rid c.gang c.split with
  | some t, some sp =>
    if sp.loads.isEmpty then s
    else
      let far := sp.loads.foldl (fun n f => Nat.max n f.due) 0
      let n := sp.loads.foldl (fun n f => Nat.max n f.remain) (if s.now < far then 14 else 0)
      let s1 := s.tickCore t.core (seqOf t.core.kind ((t.gangs[c.gang]?.map (fun g => g.slot)).getD 0)) n none
      s1.updTeam c.rid (fun t => t.updGang c.gang (fun g =>
        (g.landLoads t.core.kind c.split).updSplit c.split (fun sp => { sp with stage := sp.stage.map (fun x => { x with til := Nat.max x.til far }) })))
  | _, _ => s

/-- The commit point has come to a slot. -/
def State.stageAt (s : State) (c : Cur) (i : Nat) : State :=
  s.updSplit c.rid c.gang c.split (fun sp => { sp with stage := sp.stage.map (fun x => { x with next := i }) })

/-- Perform what the commit bundle's slots ask for behind its issue, in slot order, from a slot on: up to one that is still on its
way to a face unit, or stands at a wait. A check that fails only now is raised against the bundle (R489 to R491) [33, DEDUCED]. -/
def State.performLate (c : Cur) (bundle : Nat) : List SlotOp → State → State
  | [], s => s
  | (i, w) :: r, s =>
    match w, (s.split? c.rid c.gang c.split).bind (fun sp => sp.stage) with
    | .ok (o, f), some st =>
      if i < st.next then State.performLate c bundle r s
      else if s.busy c then s
      else
        let s1 := s.runSlot c o f
        match s1.stopOf c with
        | some (.raise e slot) =>
          let s2 := (s1.updSplit c.rid c.gang c.split (fun sp => { sp with raised := none })).stageAt c (i + 1)
          s2.bundleRaise c { (s2.split? c.rid c.gang c.split).getD Split.unused with pc := bundle } e slot none
        | some (.park _) => s1.stageAt c i
        | none =>
          if standsAt (s1.waitOf c) then s1.stageAt c i
          else State.performLate c bundle r (((s1.unlatch c).flushGated c).stageAt c (i + 1))
    | _, _ => State.performLate c bundle r s

/-- The commit point of an implicit commit before its S operation: flags and snapshot. -/
def State.commitStage (s : State) (c : Cur) (o : Op) (st : Stage) : State :=
  match View.open { s with cur := some c } with
  | none => s
  | some v =>
    let only : Stage := { st with only := true, next := 16 }
    let w0 := v.commit v.sp.pc st.record (if o = .mig then some only else none)
    let w := match st.record with
      | some r => w0.endInterval r
      | none => w0
    ({ w with sp := { w.sp with stage := if o = Op.mig then none else some only } }).close

/-- The commit point is over: the context goes on, or stays held by a load or store from afar (R53). -/
def Split.endStage (sp : Split) (now : Nat) (til : Nat) : Split :=
  let til := Nat.max til ((sp.stage.map (fun x => x.til)).getD 0)
  let sp1 : Split := { sp with stage := none, latched := none }
  if now < til && sp.used && sp.wait == .ready then { sp1 with wait := .interlock til, stamp := til } else sp1

/-- The commit point ends: an explicit one with its record, an implicit one with its S operation behind it. -/
def State.endCommit (s : State) (c : Cur) (o : Op) (f : NatForm) (st : Stage) : State :=
  if explicitCommit o then (s.runSlot c o f).updSplit c.rid c.gang c.split (fun sp => sp.endStage s.now st.til)
  else
    let s1 := if st.only then s else s.commitStage c o st
    if o = .mig then (s1.updSplit c.rid c.gang c.split (fun sp => { sp with stage := none })).runSlot c o f
    else
      let s2 := s1.runSlot c o f
      match State.snapMoved s1 s2 c with
      | .ok s3 => s3.updSplit c.rid c.gang c.split (fun sp => sp.endStage s.now st.til)
      | .error r => (s2.updSplit c.rid c.gang c.split (fun sp => { sp with stage := none })).bundleRaise c
          ((s1.split? c.rid c.gang c.split).getD Split.unused) r 0 st.record

/-- A commit point goes on as far as it can: the loads and small gathers of the interval first, then its gated entries and the once-only
operations in program order, then the snapshot and the S operation (R305) [33, DEDUCED]. -/
def State.stepCommit (s : State) (c : Cur) (o : Op) (f : NatForm) (rest : List SlotOp) : State :=
  match (s.split? c.rid c.gang c.split).bind (fun sp => sp.stage) with
  | none => s
  | some st =>
    if st.only then s.endCommit c o f st
    else if st.next = 0 && s.awaits c true then s
    else
      let s1 := if st.next = 0 then
          let far := ((View.open { s with cur := some c }).map View.gatedFar).getD 0
          ((s.awaitLoads c).flushGated c).updSplit c.rid c.gang c.split (fun sp =>
            { sp with stage := sp.stage.map (fun x => { x with next := 1, til := Nat.max x.til far }) })
        else s
      let late := lateSlots rest false
      let s2 := State.performLate c st.bundle late s1
      match (s2.split? c.rid c.gang c.split).bind (fun sp => sp.stage) with
      | none => s2
      | some st2 =>
        let left := late.any (fun x => decide (st2.next ≤ x.1))
        if left || s2.waitOf c != .ready || (!explicitCommit o && s2.awaits c false) then s2 else s2.endCommit c o f st2

/-- The slots of a bundle that has issued go on; when they are over the bundle is complete, or its commit point begins
[10, DESIGN CHOICE]. -/
def State.stepBundle (s : State) (c : Cur) (o : Op) (f : NatForm) (rest : List SlotOp) (p : Pass) (bundle : Nat) : State :=
  match p.stop with
  | some (.raise r slot) =>
    let y := (s.split? c.rid c.gang c.split).getD Split.unused
    p.s.bundleRaise c { y with pc := bundle } r slot (y.stage.bind (fun x => x.record))
  | _ =>
    match p.waits with
    | some i => p.s.stageAt c i
    | none =>
      if implicitCommit o ((Form.nat f).args o) || explicitCommit o then
        (p.s.updSplit c.rid c.gang c.split (fun y => { y with stage := y.stage.map (fun x => { x with begun := true, next := 0 }) })).stepCommit c o f rest
      else p.s.updSplit c.rid c.gang c.split (fun y => { y with stage := none, latched := none })

/-- The record of a commit bundle that stops. -/
def State.failRecord (s : State) (t : Team) (c : Cur) (o : Op) (f : NatForm) (pc fall : Nat) : Option Record :=
  let a := (Form.nat f).args o
  if implicitCommit o a || explicitCommit o then
    let sp := (s.split? c.rid c.gang c.split).getD Split.unused
    let s1 := s.runS c sp.held sp.flight.length o f
    let next := ((s1.split? c.rid c.gang c.split).map (fun y => if y.used then y.pc else fall)).getD fall
    (t.commitRecordAfter s1 o a pc fall next).toOption.join
  else none

/-- The sources of a bundle that is to issue are read once, at its first try (R13): a wait that keeps it from issuing keeps them. A roll-back, as of
a page's park, gives them up [107, DEDUCED]. -/
def State.holdIssue (s : State) (c : Cur) (w : Wait) (st : Stage) : State :=
  match w with
  | .page _ _ _ _ => s
  | _ => s.updSplit c.rid c.gang c.split (fun y => { y with reissue := some st })

/-- A bundle of a native context issues: its slots, the clock, and, for a commit bundle, its commit point as far as it goes [10, DESIGN CHOICE] [107, DEDUCED]. -/
def State.runBundle (s : State) (t : Team) (gang k : Nat) (sp : Split) : State :=
  let c : Cur := { rid := t.rid, gang := gang, split := k }
  let fall := sp.pc + bundleBytes t.core.kind
  let q := seqOf t.core.kind ((t.gangs[gang]?.map (fun g => g.slot)).getD 0)
  match t.bundleAt sp.pc with
  | none => s.bundleRaise c sp { cause := 75, info := 0, addr := 0 } 0 none
  | some ws =>
    match decodeBundle t.core.kind ws with
    | [] => s
    | (_, .error p) :: _ => s.bundleRaise c sp (classOne p) 0 none
    | (_, .ok (o, f)) :: rest =>
      let a := (Form.nat f).args o
      let regs := (((s.team? t.rid).bind (fun u => u.gangs[gang]?)).map (fun g => g.nregs)).getD NatRegs.empty
      let st0 : Stage := sp.reissue.getD { bundle := sp.pc, begun := false, next := 0, only := false, til := 0, record := none, regs := regs
                                           lr := sp.lr, rrb := sp.rrb }
      let s0 := s.updSplit t.rid gang k (fun x => { x with pc := fall, reissue := none, stage := sp.reissue })
      let count (x : State) : State := (x.updSplit t.rid gang k (fun y =>
        { y with sinceSel := y.sinceSel + 1, sinceCommit := y.sinceCommit + 1 })).tickCore t.core q 1 none
      match State.tryBundle s0 c o f rest sp.pc fall with
      | (s1, some (.raise r slot)) => (s.keepTiles s1 c).bundleRaise c sp r slot (s0.failRecord t c o f sp.pc fall)
      | (s1, some (.park w)) => (((s.keepTiles s1 c).parkGang t.rid gang k w).holdIssue c w st0).tickCore t.core q 1 none
      | (s1, none) =>
        let next := ((s1.split? t.rid gang k).map (fun y => if y.used then y.pc else fall)).getD fall
        match (if implicitCommit o a || explicitCommit o then t.commitRecordAfter s1 o a sp.pc fall next else .ok none) with
        | .error r => s.bundleRaise c sp r 0 none
        | .ok r =>
          let p := (s0.updSplit t.rid gang k (fun y => { y with stage := some { st0 with record := r } })).passSlots c o f rest true 0
          let s2 := count p.s
          match s2.split? t.rid gang k with
          | some y => if y.beyond sp.sinceCommit then s.bundleRaise c sp (defect 771) 0 none else s2.stepBundle c o f rest { p with s := s2 } sp.pc
          | none => s2

/-- A bundle or commit point of a context goes on. -/
def State.resumeCommit (s : State) (t : Team) (gang k : Nat) (st : Stage) : State :=
  let c : Cur := { rid := t.rid, gang := gang, split := k }
  match (t.bundleAt st.bundle).map (decodeBundle t.core.kind) with
  | some ((_, .ok (o, f)) :: rest) =>
    if st.begun then s.stepCommit c o f rest else s.stepBundle c o f rest (s.passSlots c o f rest false st.next) st.bundle
  | _ => s

/-- Exposed results issued earlier for the context's lanes are still in flight, so that a newly selected context waits (R291). -/
def Gang.drains (g : Gang) (sp : Split) : Bool :=
  sp.sinceSel == 0 && g.splits.any (fun x => x.used && x.flight.any (fun f => f.lanes &&& sp.mask != 0))

/-- Clocks for which a bundle is held in place by interlocked results that are near (R53, R293). -/
def State.nearHold (s : State) (t : Team) (g : Gang) (k : Nat) (sp : Split) : Nat :=
  let loads := g.splits.flatMap (fun x => x.loads.filter (fun f => meetsLanes sp.mask f.lanes))
  if loads.isEmpty then 0
  else match t.bundleAt sp.pc with
    | none => 0
    | some ws =>
      let v : View := { s := s, t := t, g := g, k := k, sp := sp, native := t.runsNative g, lat := none }
      let locs := v.bundleLocs (decodeBundle t.core.kind ws)
      loads.foldl (fun n f => if locs.contains f.loc then Nat.max n f.remain else n) 0

/-! ## One context issues -/

/-- The S operation, or JV operation, that is about to issue or whose bundle is under way. -/
def Team.nextOp (t : Team) (g : Gang) (sp : Split) : Option Op :=
  if t.runsNative g then
    match t.bundleAt ((sp.stage.map (fun x => x.bundle)).getD sp.pc) with
    | some (w :: _) => (match decodeSlot t.core.kind 0 w with | .ok (o, _) => some o | .error _ => none)
    | _ => none
  else t.jvOp sp

/-- Clear a wait that is over. -/
def Split.unhold (sp : Split) : Split := { sp with wait := .ready, stalled := sp.stalled }

/-- A native context issues a bundle, goes on with a commit point, or waits in place: for its lanes' exposed results once it is
selected, its clock running (R291), or for an interlock, its clock standing but for the loads of a commit point (R305). -/
def State.issueNative (s : State) (t : Team) (r : Ready) (g : Gang) (sp : Split) : State :=
  let c : Cur := { rid := r.rid, gang := r.gang, split := r.split }
  let held := s.holdOf t r.gang g r.split sp == .short
  match sp.stage with
  | some st =>
    if held then s.tickCore t.core r.seq 1 (if st.begun && st.next = 0 then none else some c)
    else if (!st.begun || st.next = 0) && g.drains sp then s.tickCore t.core r.seq 1 none
    else s.resumeCommit t r.gang r.split st
  | none =>
    if held then s.tickCore t.core r.seq 1 (some c)
    else if g.drains sp then s.tickCore t.core r.seq 1 none
    else
      let n := s.nearHold t g r.split sp
      let s1 := (if n = 0 then s else s.tickCore t.core r.seq n (some c)).updTeam r.rid (fun u => u.updGang r.gang (fun x =>
        ([0, 1, 2, 3].foldl (fun x j => x.landArrived t.core.kind j s.now) x).startTailings r.split))
      match s1.split? r.rid r.gang r.split with
      | some sp1 => s1.runBundle t r.gang r.split sp1
      | none => s1

/-- An access that was held for a package's reset has been made again (R484). -/
def State.madeAgain (s : State) (r : Ready) (was : Split) : State :=
  if was.refused.isSome then
    s.updSplit r.rid r.gang r.split (fun sp => if sp.sinceSel = was.sinceSel then sp else { sp with refused := none })
  else s

/-- A context issues one instruction or bundle, or waits in place [34, DEDUCED]. -/
def State.issueCtx (s : State) (r : Ready) : Result :=
  match s.team? r.rid with
  | none => .next s
  | some t =>
    match t.gangs[r.gang]? with
    | none => .next s
    | some g =>
      match g.splits[r.split]? with
      | none => .next s
      | some sp0 =>
        let sp := sp0.unhold
        let s := if sp0.wait = .ready then s else s.updSplit r.rid r.gang r.split Split.unhold
        let s := if t.source.isSome then s.updTeam r.rid (fun u => { u with source := none }) else s
        if t.runsNative g then .next ((s.issueNative t r g sp).madeAgain r sp0)
        else if s.holdOf t r.gang g r.split sp == .short then .next (s.tickCore t.core r.seq 1 none)
        else if t.moveReq.isSome && g.handler.isNone then
          .next (s.updSplit r.rid r.gang r.split (fun x => { x with wait := .moveReq, waitStart := s.ptp }))
        else
          match (s.tickCore t.core r.seq 1 none).runJv t r.gang r.split sp with
          | .next s1 => .next (s1.madeAgain r sp0)
          | .fault x => .fault x
          | .refused x => .refused x

/-- After its eqp bundle, a context parks for a standing request (R339). -/
def State.parkEqp (s : State) (r : Ready) (op : Option Op) : State :=
  match s.team? r.rid, s.split? r.rid r.gang r.split with
  | some t, some sp =>
    if op = some .eqp && t.moveReq.isSome && sp.used && sp.wait == .ready && sp.sinceCommit == 0 && sp.stage.isNone && t.native then
      s.updSplit r.rid r.gang r.split (fun x => { x with wait := .moveReq, waitStart := s.ptp })
    else s
  | _, _ => s

/-- A commit point, at which a switch may fall (R54). -/
def commitsAt (native : Bool) (sp : Split) : Bool := !native || (sp.sinceCommit == 0 && sp.stage.isNone)

/-- What the step of a context has come to: the operation if it, or its bundle, was under way, whether it issued in this step, and whether a
bundle or an instruction has become complete (R54). -/
structure Issued where
  op : Option Op
  issued : Bool
  complete : Bool

/-- Whether a context issued or completed something between two states: with a hold or a drain only, it did neither. -/
def State.issuedOf (s0 s1 : State) (r : Ready) (op : Option Op) : Issued :=
  let a := (s0.split? r.rid r.gang r.split).getD Split.unused
  let b := (s1.split? r.rid r.gang r.split).getD Split.unused
  let issued := b.sinceSel != a.sinceSel
  { op := op, issued := issued, complete := b.stage.isNone && (issued || a.stage.isSome) }

/-- The sequencer keeps the context selected, or switches (R54); a yield selects anew, if only the same context (R187). A long-latency interlock that
takes the selection away counts though it ends by the next step (R55). -/
def State.switch (s : State) (r : Ready) (native : Bool) (x : Issued) : State :=
  let rs := s.readyList.filter (fun x => x.sameUnit r)
  let still := rs.any (fun x => x.ctx == r.ctx)
  let other := rs.any (fun x => x.ctx != r.ctx)
  match s.split? r.rid r.gang r.split with
  | some sp =>
    if !still then
      let away := ((s.team? r.rid).bind (fun t => (t.gangs[r.gang]?).map (fun g => s.heldAway t r.gang g r.split sp))).getD false
      (s.setSel r.core r.seq none).updSplit r.rid r.gang r.split (fun x => { x with away := x.away || away })
    else if (x.issued && x.op == some .yield) || (x.complete && other && commitsAt native sp && decide (256 ≤ sp.sinceSel)) then
      (s.setSel r.core r.seq none).updSplit r.rid r.gang r.split (fun x => { x with stamp := s.now })
    else s
  | none => s.setSel r.core r.seq none

/-- Select a context, which takes a clock (R55): it has issued no bundle since. -/
def State.select (s : State) (r : Ready) : State :=
  ((s.tickCore r.core r.seq 1 none).setSel r.core r.seq (some r.ctx)).updSplit r.rid r.gang r.split (fun x => { x with sinceSel := 0 })

/-- What surrounds the execution of a context's instruction: moves and migs that it completes, the switch, and time. -/
def State.afterIssue (s : State) (r : Ready) (native : Bool) (x : Issued) : State :=
  let s1 := { s with cur := none }.parkEqp r (if x.complete then x.op else none)
  let s2 := ((s1.settleMig r.rid).settleMove r.rid).settleEntries
  (s2.switch r native x).tickTime

/-- One context issues, with everything around it. -/
def State.runCtx (s : State) (r : Ready) (selected : Bool) : Result :=
  let s0 := if selected then s else s.select r
  let native := ((s0.team? r.rid).bind (fun t => (t.gangs[r.gang]?).map (fun g => t.runsNative g))).getD false
  let op := (s0.team? r.rid).bind (fun t => (t.gangs[r.gang]?).bind (fun g => (g.splits[r.split]?).bind (fun sp => t.nextOp g sp)))
  match s0.issueCtx r with
  | .next s1 => .next (s1.afterIssue r native (State.issuedOf s0 s1 r op))
  | .fault x => .fault x
  | .refused x => .refused x

/-! ## Events that are due -/

/-- Every used context, with its team and gang. -/
def State.contexts (s : State) : List (Team × Nat × Gang × Nat × Split) :=
  s.teams.flatMap (fun t => (t.gangs.zip (List.range t.gangs.length)).flatMap (fun (x : Gang × Nat) =>
    (x.1.splits.zip (List.range 4)).filterMap (fun (y : Split × Nat) => if y.1.used then some (t, x.2, x.1, y.2, y.1) else none)))

/-- A timer of a context has run out. -/
def State.dueCtx (s : State) (x : Team × Nat × Gang × Nat × Split) : Option Instr :=
  let (t, i, g, k, sp) := x
  if k = (g.handler.map (fun h => h.split)).getD 0 && t.onCore && s.maskExpired g then some (.maskWatchdogExpiry t.rid i)
  else match sp.wait with
  | .asleep time => if time ≤ s.ptp ∧ t.onCore then some (.nsleepWake t.rid i k) else none
  | _ =>
    if (s.waitExpired t i k sp).isSome && (match t.status with | .ending _ _ _ _ _ _ => false | _ => true) then some (.waitWatchdogExpiry t.rid i k)
    else none

def State.dueTeam (s : State) (t : Team) : Option Instr :=
  if s.overBudget t && (t.stoppable || decide (8 ≤ t.overruns + 1)) then some (.budgetOverrun t.rid)
  else match t.moveReq with
    | some t0 => if s.lapsed t0 then some (.dispatcherMoveLapse t.rid) else none
    | none => none

def State.duePage (s : State) (p : Page) : Option Instr :=
  match p.place, p.parked with
  | .hbm pkg _ _, some t0 =>
    if t0 + 10000000 ≤ s.ptp && (s.placeDie pkg p.size).isNone && s.pkgAnswers pkg then some (.migrationTimeout p.asid p.vbase) else none
  | _, _ => none

def State.duePeer (s : State) (x : Nat × PeerState) : Option Instr :=
  match x.2 with
  | .silent since => if since + 100000000 ≤ s.ptp then some (.peerSilentTimeout x.1) else none
  | .recovering since => if since + 60000000000 ≤ s.ptp then some (.doneNoticeTimeout x.1) else none
  | _ => none

/-- The first event whose time has come [4, DESIGN CHOICE]. -/
def State.due (s : State) : Option Instr :=
  (s.contexts.findSome? s.dueCtx).orElse fun _ =>
  (s.teams.findSome? s.dueTeam).orElse fun _ =>
  (s.pages.findSome? s.duePage).orElse fun _ =>
  (s.hub.peers.findSome? s.duePeer).orElse fun _ =>
  ((s.hub.asks.find? (fun (a : PeerAsk) => !a.late && decide (a.since + 50000 ≤ s.ptp))).map (fun a => Instr.lodePeerTimeout a.want.key)).orElse fun _ =>
  (((List.range 40).find? s.lateBit).map (fun b => Instr.readyDeadline b)).orElse fun _ =>
  (s.mapOverdue.map (fun _ => Instr.mapWaitTimeout))

/-! ## Engines' events -/

/-- What a context waits for from an engine. -/
def State.engineCtx (s : State) (x : Team × Nat × Gang × Nat × Split) : Option Instr :=
  let (t, i, _, k, sp) := x
  match sp.wait with
  | .codeload _ _ _ code => if s.asking (s.regionEntry t code).key then none else some (.codeloadDone t.rid i k)
  | .ckver _ _ _ _ _ => some (.ckverDone t.rid i k)
  | .word spc a ty cmp v => if t.onCore && s.waitHolds t spc a ty cmp v then some (.waitaWake t.rid i k) else none
  | _ => none

/-- The chunk waits at its end for a package in recovery (R483). -/
def State.landHeld (s : State) (j : Job) (x : Transit) : Bool :=
  match j.kind with
  | .tens map store origin => (s.tensReach j (TMap.ofWords map) store none (tensElems (TMap.ofWords map) store origin none j.n x.chunk)).1 == .held
  | .rows map store index => (s.tensReach j (TMap.ofWords map) store (some index) (tensElems (TMap.ofWords map) store [] (some index) j.n x.chunk)).1 == .held
  | _ => s.reach (x.dst j) 0 (x.size j) true j.hostOk == .held

/-- A transit can go on: its rest be read, its next link take it, its face unit add it, or its bytes be written. -/
def State.engineTransit (s : State) (x : Transit) : Option Instr :=
  match job? s x.job with
  | none => some (.chunkHop x.id)
  | some j =>
    let q := j.chunkAt (x.index j)
    if x.read.isSome then (if s.reach q.1 0 q.2.1 false j.hostOk = .held then none else some (.chunkHop x.id))
    else
      match x.path with
      | h :: _ => if s.crossing j x h = .wait then none else some (.chunkHop x.id)
      | [] =>
        if s.landHeld j x then none
        else if j.kind != .red then some (.chunkHop x.id)
        else if j.deadline || !s.deadlineAt (s.sideUnit (x.dst j)) then some (.chunkReduction x.id)
        else none

def State.engineJob (s : State) (j : Job) : Option Instr :=
  if j.done = j.chunks then
    match j.notify with
    | some (x, _) => if s.reach x 0 8 true j.hostOk = .held || s.sideMoves x then none else some (.haulJobComplete j.id)
    | none => some (.haulJobComplete j.id)
  else if s.tagFree j.die && s.canTake j then some (.haulChunk j.die (s.turn % 16))
  else none

def State.engineTeam (s : State) (t : Team) : Option Instr :=
  if t.releases then some (.heldWriteRelease t.rid)
  else if s.retirable t then some (.teamRetire t.rid)
  else match t.status with
    | .stopping _ _ => if s.atCommit t then some (.virtualPreciseStop t.rid) else none
    | .suspending => if t.masked then none else some (.nativeSuspend t.rid)
    | _ => none

/-- A page that firmware can move to HBM to free a frame for another one: of the package, with no access parked on it or on its way to it, in no
ingress area; the first that finds a frame in HBM (R465) [22, DESIGN CHOICE]. -/
def State.evictable (s : State) (pkg : Nat) : Option Instr :=
  s.pages.findSome? (fun p => match p.place with
    | .die k _ _ =>
      if k = pkg && !p.pinned && p.parked.isNone && !s.pageBusy p then
        (match s.placeHbm pkg p.size with
         | some (.hbm _ stack _) => some (.pageMoveToHbm p.asid p.vbase stack)
         | _ => none)
      else none
    | _ => none)

def State.enginePage (s : State) (p : Page) : Option Instr :=
  match p.place, p.parked with
  | .hbm pkg _ _, some _ =>
    if !s.pkgAnswers pkg then none
    else if (s.placeDie pkg p.size).isSome then some (.pageMigrationComplete p.asid p.vbase) else s.evictable pkg
  | _, _ => none

/-- What the issue stage does with a queue's head before its turn. -/
def State.queueEvent (s : State) (q : Queue) : Option Instr :=
  if q.halted.isSome then none
  else if q.haltReason.isSome then some (.unassignedPacket q.num)
  else
    match q.ahead.head?, q.headWords with
    | some x, some ws => if pType ws = 1 && s.stages q x ws then some (.launchPacket q.num) else none
    | _, _ => none

/-- The packet that issues next. -/
def State.enginePacket (s : State) : Option Instr :=
  match s.nextQueue with
  | none => none
  | some (q, _) =>
    match q.headWords with
    | some ws =>
      (match pType ws with
       | 0 => some (.noopPacket q.num)
       | 1 => some (.taskAdmit q.num)
       | 2 => some (.callPacket q.num)
       | 3 => some (.joinPacket q.num)
       | _ => some (.signalPacket q.num))
    | none => none

def State.engineLode (s : State) : Option Instr :=
  if s.hub.ready.getLsbD 2 && s.lodeRoom then
    (s.waiting.findSome? (fun x => (x.1.kinds.find? (fun kind => (s.misses x.1.handle kind).isSome)).map (fun kind => Instr.tiarloTranslate x.1.handle kind))).orElse
      (fun _ => (s.hub.lode.find? (fun (e : LodeEntry) => (s.hot e).isSome)).map (fun e => Instr.reoptimise e.key))
  else none

/-- What the dispatchers do next. -/
def State.engineDispatch (s : State) : Option Instr :=
  if s.hub.tasks.isEmpty then none
  else
    let pick := [0, 1, 2, 3].findSome? (fun d => (s.nextPick d).map (fun p => (d, p)))
    match pick with
    | some (d, .start _ _ _) => some (.teamPlace d)
    | some (_, .resume rid _) => some (.teamResume rid)
    | none =>
      match s.deadlineStuck.bind s.victims with
      | some x => if s.victimsReady x.2 then x.2.head?.map (fun r => Instr.nativeSuspend r) else none
      | none => none

/-- The management command that runs. -/
def State.engineCommand (s : State) : Option Instr :=
  if s.hub.cmdGo && s.hub.serving then
    match s.cmdField 0 0 8 with
    | 0x01 => some .qcreate
    | 0x02 => some .qdestroy
    | 0x10 => if s.mapWaits then none else some .mapPages
    | 0x11 => if s.unmapWaits then none else some .unmap
    | 0x20 => some .coload
    | 0x21 => some .counload
    | 0x30 => some .tresume
    | 0x31 => some .tstop
    | 0x40 => some .resync
    | 0x50 => some .fwupdate
    | 0x70 => some .ingset
    | _ => some .unassignedCommand
  else none

/-- The next event of an engine: boot, commands, packets, translation, dispatch, face units, haul, pages, teams [4, DESIGN CHOICE]. -/
def State.engine (s : State) : Option Instr :=
  if !s.hub.booted then some .packageReset
  else
    (((List.range 40).find? s.startable).map (fun b => Instr.unitReady b)).orElse fun _ =>
    ((s.faceReqs.find? (fun q => (s.pickFace q.unit).isSome)).map (fun q => Instr.faceUnitOperation q.unit)).orElse fun _ =>
    (s.contexts.findSome? s.engineCtx).orElse fun _ =>
    (s.transits.findSome? s.engineTransit).orElse fun _ =>
    (s.jobs.findSome? s.engineJob).orElse fun _ =>
    (s.pages.findSome? s.enginePage).orElse fun _ =>
    (s.teams.findSome? s.engineTeam).orElse fun _ =>
    s.engineCommand.orElse fun _ =>
    (if s.hub.serving then (s.hub.queues.findSome? s.queueEvent).orElse (fun _ => s.enginePacket) else none).orElse fun _ =>
    s.engineLode.orElse fun _ => s.engineDispatch

/-! ## Profile counters (R334) -/

/-- The intervals that a context ended are counted in the entry its team runs. Of a translation made by Tiarlo, whose commit points the model does not
see, it is a free value whether an instruction ends an interval, and where [70, DESIGN CHOICE]. -/
def State.feedLode (r : Ready) (old new : State) : State :=
  match new.team? r.rid, (old.team? r.rid).bind (fun t => t.gangs[r.gang]?), old.split? r.rid r.gang r.split with
  | some t, some g, some sp =>
    let key := if sp.region = 0 then new.heldKey t else (t.regions.find? (fun x => x.serial == sp.region)).map (fun x => x.key)
    match key with
    | none => if t.ended.isEmpty then new else new.updTeam r.rid (fun u => { u with ended := [] })
    | some key =>
      if t.runsNative g then
        if t.ended.isEmpty then new
        else (t.ended.foldl (fun s x => s.countAt key x.1 x.2) new).updTeam r.rid (fun u => { u with ended := [] })
      else if ((t.gangs[r.gang]?).map (fun x => x.issued)) = some g.issued then new
      else
        match Config.tiarloEnds new.free with
        | none => new.nextFree
        | some n =>
          let tally := ((t.gangs[r.gang]?).bind (fun x => x.splits[r.split]?.map (fun y => y.tally))).getD Counters.zero
          ((new.countAt key n { tally.plus t.tally with exec := 1 }).nextFree.updTeam r.rid (fun u => { u with tally := Counters.zero })).updSplit
            r.rid r.gang r.split (fun y => { y with tally := Counters.zero })
  | _, _, _ => new

/-! ## One step -/

/-- An event happens and time passes. -/
def State.happen (s : State) (i : Instr) : Result :=
  match exec i s with
  | .next s1 => .next s1.settleEntries.tickTime
  | .fault x => .fault x
  | .refused x => .refused x

/-- A context issues. -/
def State.issueOne (s : State) (x : Ready × Bool) : Result :=
  match s.runCtx x.1 x.2 with
  | .next s1 => .next (State.feedLode x.1 s s1)
  | .fault e => .fault e
  | .refused e => .refused e

/-- What happens when no outside event is pending and none is due: contexts and engines take turns [4, DESIGN CHOICE]. -/
def State.advanceOnce (s : State) : Result :=
  let s1 : State := { s with turn := s.turn + 1 }
  if s.turn % 2 = 0 then
    match s.candidate with
    | some x => s1.issueOne x
    | none => (match s.engine with
        | some i => s1.happen i
        | none => .next s1.tickTime)
  else
    match s.engine with
    | some i => s1.happen i
    | none => (match s.candidate with
        | some x => s1.issueOne x
        | none => .next s1.tickTime)

/-- The oldest outside event, else an event that is due, else a context or an engine [4, DESIGN CHOICE]. -/
def State.chooseStep (s : State) : Result :=
  match s.agenda with
  | i :: r => (match exec i { s with agenda := r, cur := none } with
      | .next s1 => .next s1.settleEntries
      | .fault x => .fault x
      | .refused x => .refused x)
  | [] =>
    match s.due with
    | some i => s.happen i
    | none => s.advanceOnce

/-- A context that a long-latency interlock has released took its ready stamp then (R55). -/
def State.stampReady (s : State) : State :=
  s.teams.foldl (fun s t => if !t.onCore then s else
    (t.gangs.zip (List.range t.gangs.length)).foldl (fun s x =>
      (x.1.splits.zip (List.range 4)).foldl (fun s y =>
        if !y.1.used then s
        else
          let away := s.heldAway t x.2 x.1 y.2 y.1
          if away = y.1.away then s
          else s.updSplit t.rid x.2 y.2 (fun sp => { sp with away := away, stamp := if away then sp.stamp else s.now })) s) s) s

/-- The teams that began a move before this step and still stand for it take their places (R337, R340). -/
def State.finishMoves (old new : State) : State :=
  (old.teams.filter (fun t => t.rebuild)).foldl (fun s t => (s.readTeam t (CoreKind.other t.core.kind)).finishMove t.rid) new

/-- One step, the moves that were under way before it, and the look-ahead of the queues (R337, R349, R365) [4, DESIGN CHOICE]. -/
def State.stepOnce (s : State) : Result :=
  match s.chooseStep with
  | .next s1 => .next (State.finishMoves s s1).settleFreed.hostTurn.lookAhead.stampReady
  | .fault x => .fault x
  | .refused x => .refused x

/-! ## Placing one instruction where the next step fetches it [7, DESIGN CHOICE] -/

/-- The record of every point of the placed native code: nothing mapped. -/
def fetchRecord (npc : Nat) : Record :=
  { jvpc := 0, eq := false, keyed := true, npc := npc, xpc := 2 ^ 64 - 1, safe := 0, nmap := 0, rrb := 0, first := 0 }

/-- The kernel that holds a placed word: four JV words at 0x10000, or a D-core bundle with the word in its slot and an empty
bundle behind it [7, DESIGN CHOICE]. -/
def fetchKernel (asid : Nat) (ws : List Word) (native : Bool) : Kernel :=
  let w := ws.getD 0 0
  let slot := tableSlot w
  let bundle : List Word := (List.range 16).map (fun i => if i = slot then w else 0)
  let code : NatCode := { code := bundle, indexed := [fetchRecord 0], keyed := [fetchRecord 0, fetchRecord 64], maps := [], spillSize := 0 }
  { handle := 0, asid := asid, base := 0x10000, code := ws, decls := [{ kind := .lane 32, count := 0xF00 }], gangs := 1, scr := 4096, hauls := 1
    kind := 2, acc := 1, args := 0, feat0 := 0, feat1 := 0, pinnedL := none, pinnedD := if native then some code else none }

/-- A team of one gang that has just been placed on D-core 0 with a kernel [7, DESIGN CHOICE]. -/
def fetchTeam (k : Kernel) (now ptp : Nat) : Team :=
  let native := k.pinnedD.isSome
  { rid := 0, gen := 0, asid := 1, task := 0, index := 0, count := 1, argAddr := argBase 0, dbg := false, kern := k, core := { kind := .dcore, num := 0 }
    home := 0, spillDie := 0, transSpill := 0, status := .resident, native := native, gangs := [newGang k native k.pinnedD 0 now]
    scratch := [], scratchSize := k.alloc, bank := 0, scratchAt := 0, scratchPoison := [], heldWrites := [], moving := false, rebuild := false, source := none
    tiles := List.replicate k.acc Tile.zero, tileLate := [], bars := List.replicate 16 Barrier.initial, hauls := k.hauls, haulsUsed := 0, haulStall := 0
    residentNs := 0, placedAt := ptp, prefUseful := 0, prefLate := 0, prefUnused := 0, tally := Counters.zero, ended := [], budget := 0, budgetUsed := 0, overruns := 0
    regions := [], nextRegion := 1, moveReq := none, chk := none, epoch := 0, idempotent := true, consumed := 0, logged := [], loggedTiles := [], saveArea := [] }

/-- The words of a placed instruction: the bits above are 0. -/
def placedWords (w : Nat) : List Word :=
  [BitVec.ofNat 64 w, BitVec.ofNat 64 (w / 2 ^ 64), BitVec.ofNat 64 (w / 2 ^ 128), BitVec.ofNat 64 (w / 2 ^ 192)]

/-- The word is a JV instruction. -/
def isJvWord (ws : List Word) : Bool := match decodeJv ws with | .ok _ _ _ => true | .bad _ _ => false

/-- The machine with one instruction loaded as the next one to issue: a program comes from outside the machine [7, DESIGN CHOICE]. -/
def State.placeWord (s : State) (w : Nat) : State :=
  let ws := placedWords w
  let k := fetchKernel 1 ws (!isJvWord ws)
  { s with teams := [fetchTeam k s.now s.ptp], cores := s.cores.filter (fun c => c.id != { kind := .dcore, num := 0 })
           agenda := [], turn := 0, faceReqs := [] }

end Sys2Proof.Machine
end

