-- ==== Sys2Proof/Machine/Step.lean ====
section
/-! DEFINITION. One step of the machine, and the placing of one instruction where the next step fetches it. -/

namespace Sys2Proof.Machine

/-- One step: the oldest outside event, else an event whose time has come, else a context issues or an engine acts [4, DESIGN CHOICE]. -/
def step (s : State) : Host.Outcome State Fault Refusal := s.stepOnce

/-- The machine with the instruction of bits w loaded as the one that the next step issues [7, DESIGN CHOICE]: the JV instruction at the PC
of a context that is alone and ready, or, for a native slot word, the bundle that holds it in a slot of its kind. -/
def State.withFetchWord (s : State) (_nbits w : Nat) : State := s.placeWord w

end Sys2Proof.Machine
end

