-- ==== Sys2Proof/Safety.lean ====
section
/-! DEFINITION. What counts as a safe state and a safe run, and the terms in which claims speak of one instruction. -/

namespace Sys2Proof.Safety

open Sys2Proof.Machine

/-! ## States and runs -/

/-- The memory is in its canonical form: addresses strictly rise and no byte that reads as an unlisted one is listed. -/
def MemOk (s : State) : Prop := s.mem.wf = true

/-- The step from a state answers a next state. -/
def Goes (s : State) : Prop := ∃ t, step s = .next t

/-- A run of k steps from a state meets no stop. -/
def RunsOn (k : Nat) (s : State) : Prop := ∃ t, Sys2Proof.core.run k s = .next t

/-! ## One encoded instruction -/

/-- The conditions an operation checks beyond those of its operands (R453 to R459). -/
def ownChecks (o : Op) (f : Form) : View → Args → Mask → List Raise :=
  match o with
  | .movi => moviChecks
  | .rdsr => rdsrChecks
  | .bra => braChecks
  | .brx => brxChecks f
  | .call => callChecks (fun v a => v.label a.a)
  | .callx => callChecks (fun v a => (v.rdU a.a 7).toNat)
  | .ret => retChecks
  | .join => joinChecks
  | .exit => exitChecks
  | .waita => waitaChecks
  | .bar | .barar => barChecks true
  | .barwt => barwtChecks
  | .ld => loadChecks false
  | .ldu => loadChecks true
  | .st => storeChecks
  | .atom => atomChecks .atom
  | .cas => atomChecks .cas
  | .aqadd => atomChecks .aqadd
  | .fgath => fgathChecks
  | .codeload => codeloadChecks
  | .hcopy => hcopyChecks false
  | .hcopyCk => hcopyChecks true
  | .htens | .htensSt => htensChecks
  | .hgath | .hscat => rowsChecks
  | .hred => hredChecks
  | .hmcast => hmcastChecks
  | .hfill => hfillChecks
  | .hwait | .htest => maskChecks
  | .ckpack | .ckpackUnpk => ckpackChecks
  | .ckver => ckverChecks
  | .ckinfo => ckinfoChecks
  | .mma => mmaChecks false
  | .mmaRa => mmaChecks true
  | .accz | .asstClr => dstTile
  | .accld => accldChecks
  | .accst => accstChecks
  | .accmax | .asstSt => srcTile
  | .accanc => accancChecks
  | .tri => triChecks
  | .xcut => xcutChecks
  | .asstTol => asstTolChecks
  | .trap | .brkpt => View.numChecks 64
  | .tvec => tvecChecks
  | .tret => tretChecks
  | .mig => migChecks
  | .query => View.numChecks 4
  | .prfrd => View.numChecks 7
  | .chksig => chksigChecks
  | .launch => launchChecks
  | .loop => loopChecks
  | .rrbset => rrbsetChecks
  | _ => noChecks

/-- E: the lanes of the open context v that form f of o executes in (R154). -/
def lanes (o : Op) (f : Form) (v : View) : Mask := (v.enter o f).active f

/-- The context as the effect of form f of o finds it: SIG has stepped (R226). -/
def ready (o : Op) (f : Form) (v : View) : View := (v.enter o f).stepSig o (f.args o).ty

/-- The context v is open in s, the form meets no class 1 condition (R450, R451), some lane executes, and no condition of
R447 or R452 to R459 holds: form f of o has its own effect. -/
structure Executes (o : Op) (f : Form) (s : State) (v : View) : Prop where
  opened : View.open s = some v
  formed : Form.problem o f = none
  some_lane : lanes o f v ≠ 0
  clean : Raise.first ((v.enter o f).conditions o f (ownChecks o f)) = none

/-- The machine after form f of o has put in its destination, for every lane of E, the value that F gives of the lane's three
operand patterns, and the PC has moved past the instruction. -/
def valueNext (o : Op) (f : Form) (v : View) (F : Args → Word → Word → Word → Word) : State :=
  let a := f.args o
  let w := ready o f v
  (w.put a.d a.ty (lanes o f v) (fun l => F a (w.rd a.a a.ty l) (w.rd a.b a.ty l) (w.rd a.c a.ty l))).retire f

/-- The same with a predicate destination and predicate operands. -/
def predNext (o : Op) (f : Form) (v : View) (F : Mask → Mask → Mask → Mask) : State :=
  let a := f.args o
  let w := ready o f v
  (w.putPred a.d (lanes o f v) (F (w.rdP a.a) (w.rdP a.b) (w.rdP a.c))).retire f

/-- A value clamped to the range of an integer type (R162). -/
def clamped (ty : Nat) (x : Int) : Word := ofInt (tyWidth ty) (max (tyMin ty) (min (tyMax ty) x))

/-- Byte k of a word, signed under I32 (dp4 of R162). -/
def byteOf (ty : Nat) (x : Word) (k : Nat) : Int :=
  let b : BitVec 8 := BitVec.ofNat 8 (x.toNat >>> (8 * k))
  if ty = 4 then b.toInt else (b.toNat : Int)

/-- One rounding of an exact result, with the flags of the function and of the rounding (R111, R170). -/
def rounded (fmt : Word) (rm ty : Nat) (x : Ex × Flags) : Nat × Flags :=
  let c := roundF ty (effRm fmt rm) (fmtSat fmt) (fmtFtz fmt) x.1
  (c.1, Flags.join x.2 c.2)

/-- The lanes that compute a result: those of E, or one for a uniform destination (R154); with no destination the flags are still those of every lane. -/
def computing (o : Op) (f : Form) (v : View) : List Nat :=
  if (ready o f v).isLane (f.args o).d || (f.args o).d == .none then lanesOf (lanes o f v) else (lanesOf (lanes o f v)).take 1

/-- The machine after form f of o has put in its destination, of type ty, the patterns that G gives lane by lane, and has raised
G's flags (R158). -/
def flaggedNext (o : Op) (f : Form) (v : View) (ty : Nat) (G : View → Args → Nat → Nat × Flags) : State :=
  let a := f.args o
  let w := ready o f v
  let ls := computing o f v
  ((w.flag (ls.foldl (fun acc l => Flags.join acc (G w a l).2) 0)).put a.d ty (lanes o f v)
    (fun l => if ls.contains l then BitVec.ofNat 64 (G w a l).1 else 0)).retire f

/-- A floating operand of a lane, a subnormal read as zero under FMT.ftz (R111). -/
def fop (w : View) (x : Operand) (ty l : Nat) : Ex := readF (fmtFtz w.sp.fmt) ty (w.rd x ty l).toNat

/-- Half k of a packed operand (R102, R173). -/
def half (w : View) (x : Operand) (ty l k : Nat) : Ex :=
  readF (fmtFtz w.sp.fmt) (packedElem ty) ((w.rd x ty l).toNat / 2 ^ (16 * k) % 2 ^ 16)

/-- Two packed results, the second in the upper half. -/
def packed (x y : Nat × Flags) : Nat × Flags := (x.1 + y.1 * 2 ^ 16, Flags.join x.2 y.2)

/-- What loop does to LR, RRB and the stage predicates before it branches (R300): LR falls while it is above 0, RRB turns by one,
and each stage predicate of the active lanes takes its lower neighbour, the lowest one the new stage. -/
def loopStep (w : View) (a : Args) : View :=
  let lr1 := if w.sp.lr = 0 then w.sp.lr else w.sp.lr - 1
  let stage := w.sp.lr ≠ 0 ∧ a.off.toNat ≤ lr1.toNat
  let old (i : Nat) : Mask := Tab.get 0#32 w.g.nregs.pr i
  let src (i : Nat) : Mask := if i = 8 then (if stage then BitVec.allOnes 32 else 0) else old (i - 1)
  let pr := [8, 9, 10, 11, 12, 13, 14, 15].foldl
    (fun p i => Tab.set 0#32 p i ((old i &&& ~~~w.sp.mask) ||| (src i &&& w.sp.mask))) w.g.nregs.pr
  { w with g := { w.g with nregs := { w.g.nregs with pr := pr } }
           sp := { w.sp with lr := lr1, rrb := (w.sp.rrb + 1) % rotating w.t.core.kind } }

/-- The haul job that an instruction describes (R206), issued with the next job number; lost where its list or map could not be read (R467). -/
def newJob (w : View) (f : Form) (kind : JobKind) (src dst : Side) (n tok scope : Nat) (notify : Option (Side × Word)) (lost : Bool)
    (taintAll : Bool := false) (taint : List Nat := []) : Job :=
  { id := w.s.nextJob, rid := w.t.rid, gen := w.t.gen, asid := w.t.asid, task := w.t.task, team := w.t.index, gang := w.gang
    token := tok, jvpc := w.jobPc f.slot, die := CoreId.die w.t.core, deadline := w.s.isDeadline w.t.task, kind := kind
    src := src, dst := dst, n := n, fmt := w.sp.fmt, notify := notify, scope := scope, chunks := kind.chunks n, taken := 0
    done := 0, degraded := false, lost := lost, foreign := false, taintAll := taintAll, taint := taint }

/-- The machine after a job was issued (R206, R208): it stands behind the earlier jobs, holds a queue entry of the team's
reservation, and has counted its token up; a job without a chunk is complete at once. -/
def issued (w : View) (f : Form) (j : Job) : State :=
  let u : View := { w with s := { w.s with jobs := w.s.jobs ++ [j], nextJob := w.s.nextJob + 1 }
                           t := { w.t with haulsUsed := w.t.haulsUsed + 1, idempotent := false }
                           g := w.g.tokenUp j.token
                           sp := { w.sp with stalled := false } }
  (if j.chunks = 0 then u.onState (fun s => s.completeJob j) else u).retire f

/-! ## Management commands -/

/-- The management commands with their codes and the conditions on their words. -/
def commandTable (s : State) : List (Instr × Nat × List (Nat × Bool)) :=
  [(.qcreate, 0x01, s.qcreateWords), (.qdestroy, 0x02, s.zeroAbove 1 12 :: s.zeroFrom 2), (.mapPages, 0x10, s.mapWords), (.unmap, 0x11, s.unmapWords),
   (.coload, 0x20, s.coloadWords), (.counload, 0x21, (1, s.cmdField 1 0 32 == 0) :: s.zeroFrom 2), (.tresume, 0x30, s.zeroAbove 1 32 :: s.zeroFrom 3),
   (.tstop, 0x31, s.zeroAbove 1 32 :: s.zeroFrom 3), (.resync, 0x40, s.resyncWords), (.fwupdate, 0x50, s.fwupdateWords), (.ingset, 0x70, s.ingsetWords)]

/-- A command of a code runs and its operand words meet their conditions. -/
def Accepted (s : State) (code : Nat) (words : List (Nat × Bool)) : Prop :=
  s.cmdRuns code = true ∧ offending (s.zeroAbove 0 8 :: words) = none

/-! ## What an instruction leaves alone -/

/-- Around the gang g and split sp that the open context v of s has become, the machine t is s: memory, caches, pages, jobs, the
hub, every other team, and of the context's own team and gang all but JV registers and their poison, FLG and the instruction count;
of the split all but PC, SIG, its counts, held flags, results on their way, and what it keeps of one instruction alone. -/
structure Around (s : State) (v : View) (t : State) (g : Gang) (sp : Split) : Prop where
  rest : t = { s with teams := t.teams }
  others : ∀ r, r ≠ v.t.rid → t.team? r = s.team? r
  team : t.team? v.t.rid = some { v.t with gangs := v.t.gangs.set v.gang { g with splits := v.g.splits.set v.k sp } }
  gang : g = { v.g with jregs := g.jregs, regPoison := g.regPoison, flg := g.flg, issued := g.issued }
  split : sp = { v.sp with
    pc := sp.pc, sig := sp.sig, sinceSel := sp.sinceSel, sinceCommit := sp.sinceCommit, held := sp.held
    wrote := sp.wrote, flight := sp.flight, loads := sp.loads, latched := sp.latched, tileLog := sp.tileLog, tilePos := sp.tilePos }

/-- The operations whose one effect is a register, a predicate or flags. -/
def registerOps : List Op :=
  [.add, .sub, .mul, .mulhi, .mad, .div, .rem, .min, .max, .abs, .neg, .dp4, .lea, .and, .or, .xor, .not, .shl, .shr, .sar, .rotl,
   .popc, .clz, .brev, .bfx, .bfi, .mov, .movi, .sel, .setp, .pand, .por, .pxor, .pnot]
  ++ [.fadd, .fsub, .fmul, .ffma, .fmin, .fmax, .fabs, .fneg, .fdiv, .fsqrt, .frcp, .frsq, .fex2, .flg2, .fscale, .fsetp, .fclass,
   .frnd, .fcvt, .f2i, .i2f, .fadd2, .fmul2, .ffma2, .fdot2, .rdsr, .elect, .vote, .matchLanes, .shfl, .redux, .scan, .getfmt]

/-- Those that raise no flag. -/
def flaglessOps : List Op :=
  [.add, .sub, .mul, .mulhi, .mad, .div, .rem, .min, .max, .abs, .neg, .dp4, .lea, .and, .or, .xor, .not, .shl, .shr, .sar, .rotl,
   .popc, .clz, .brev, .bfx, .bfi, .movi, .sel, .setp, .pand, .por, .pxor, .pnot, .fabs, .fneg, .fclass, .rdsr, .elect, .vote,
   .matchLanes, .shfl, .getfmt]

/-- A byte of die memory as a core sees it: in its L1 line, or at home. -/
def coreByte (s : State) (c : CoreId) (asid va : Nat) : Byte :=
  match (s.coreOf c).l1.find? (fun l => l.is asid (va / 128)) with
  | some l => l.data.getD (va % 128) 0
  | none => s.vaByte asid va

/-- The context that a sequencer runs with x: where it is selected already, or after the selection. -/
def picked (s : State) (x : Ready × Bool) : State :=
  let s1 : State := { s with turn := s.turn + 1 }
  if x.2 then s1 else s1.select x.1

end Sys2Proof.Safety
end

