-- ==== Sys2Proof/Certificates/Slice0/Obligations.lean ====
section
/-! DEFINITION. The statements for the provers: what the spec's rules say, as propositions about the model. -/

open Sys2Proof Sys2Proof.Machine Sys2Proof.Safety

/-- The thirteen integer arithmetic instructions write the results of R162. (R161, R162, R154) -/
def Obligations.IntegerArithmeticResults : Prop :=
  ∀ (f : Form) (s : State) (v : View),
    (Executes .add f s v → exec (.add f) s = .next (valueNext .add f v (fun a x y _ => if a.sub = 1 then clamped a.ty (tyVal a.ty x + tyVal a.ty y) else lowBits (tyWidth a.ty) (x + y)))) ∧
    (Executes .sub f s v → exec (.sub f) s = .next (valueNext .sub f v (fun a x y _ => if a.sub = 1 then clamped a.ty (tyVal a.ty x - tyVal a.ty y) else lowBits (tyWidth a.ty) (x - y)))) ∧
    (Executes .mul f s v → exec (.mul f) s = .next (valueNext .mul f v (fun a x y _ => lowBits (tyWidth a.ty) (x * y)))) ∧
    (Executes .mulhi f s v → exec (.mulhi f) s = .next (valueNext .mulhi f v (fun a x y _ => ofInt (tyWidth a.ty) ((tyVal a.ty x * tyVal a.ty y) >>> tyWidth a.ty)))) ∧
    (Executes .mad f s v → exec (.mad f) s = .next (valueNext .mad f v (fun a x y z => if a.sub = 1 then clamped a.ty (tyVal a.ty x * tyVal a.ty y + tyVal a.ty z) else lowBits (tyWidth a.ty) (x * y + z)))) ∧
    (Executes .div f s v → exec (.div f) s = .next (valueNext .div f v (fun a x y _ => if tyVal a.ty y = 0 then lowBits (tyWidth a.ty) (BitVec.allOnes 64) else ofInt (tyWidth a.ty) (Int.tdiv (tyVal a.ty x) (tyVal a.ty y))))) ∧
    (Executes .rem f s v → exec (.rem f) s = .next (valueNext .rem f v (fun a x y _ => if tyVal a.ty y = 0 then lowBits (tyWidth a.ty) x else ofInt (tyWidth a.ty) (Int.tmod (tyVal a.ty x) (tyVal a.ty y))))) ∧
    (Executes .min f s v → exec (.min f) s = .next (valueNext .min f v (fun a x y _ => lowBits (tyWidth a.ty) (if tyVal a.ty x ≤ tyVal a.ty y then x else y)))) ∧
    (Executes .max f s v → exec (.max f) s = .next (valueNext .max f v (fun a x y _ => lowBits (tyWidth a.ty) (if tyVal a.ty x ≤ tyVal a.ty y then y else x)))) ∧
    (Executes .abs f s v → exec (.abs f) s = .next (valueNext .abs f v (fun a x _ _ => lowBits (tyWidth a.ty) (if tyVal a.ty x < 0 then -x else x)))) ∧
    (Executes .neg f s v → exec (.neg f) s = .next (valueNext .neg f v (fun a x _ _ => lowBits (tyWidth a.ty) (-x)))) ∧
    (Executes .dp4 f s v → exec (.dp4 f) s = .next (valueNext .dp4 f v (fun a x y z => if a.sub = 1 then clamped a.ty (tyVal a.ty z + byteOf a.ty x 0 * byteOf a.ty y 0 + byteOf a.ty x 1 * byteOf a.ty y 1 + byteOf a.ty x 2 * byteOf a.ty y 2 + byteOf a.ty x 3 * byteOf a.ty y 3)
        else ofInt (tyWidth a.ty) (tyVal a.ty z + byteOf a.ty x 0 * byteOf a.ty y 0 + byteOf a.ty x 1 * byteOf a.ty y 1 + byteOf a.ty x 2 * byteOf a.ty y 2 + byteOf a.ty x 3 * byteOf a.ty y 3)))) ∧
    (Executes .lea f s v → exec (.lea f) s = .next (valueNext .lea f v (fun a x y _ => lowBits (tyWidth a.ty) (x + y * BitVec.ofNat 64 (2 ^ a.sub)))))

/-- The thirteen logic and bit instructions write the results of R163 and R164. (R163, R164, R154) -/
def Obligations.LogicAndBitResults : Prop :=
  ∀ (f : Form) (s : State) (v : View),
    (Executes .and f s v → exec (.and f) s = .next (valueNext .and f v (fun a x y _ => lowBits (tyWidth a.ty) (x &&& y)))) ∧
    (Executes .or f s v → exec (.or f) s = .next (valueNext .or f v (fun a x y _ => lowBits (tyWidth a.ty) (x ||| y)))) ∧
    (Executes .xor f s v → exec (.xor f) s = .next (valueNext .xor f v (fun a x y _ => lowBits (tyWidth a.ty) (x ^^^ y)))) ∧
    (Executes .not f s v → exec (.not f) s = .next (valueNext .not f v (fun a x _ _ => lowBits (tyWidth a.ty) (~~~x)))) ∧
    (Executes .shl f s v → exec (.shl f) s = .next (valueNext .shl f v (fun a x y _ => lowBits (tyWidth a.ty) (x <<< uval (tyWidth a.ty) y)))) ∧
    (Executes .shr f s v → exec (.shr f) s = .next (valueNext .shr f v (fun a x y _ => lowBits (tyWidth a.ty) x >>> uval (tyWidth a.ty) y))) ∧
    (Executes .sar f s v → exec (.sar f) s = .next (valueNext .sar f v (fun a x y _ => ofInt (tyWidth a.ty) (sval (tyWidth a.ty) x >>> uval (tyWidth a.ty) y)))) ∧
    (Executes .rotl f s v → exec (.rotl f) s = .next (valueNext .rotl f v (fun a x y _ => lowBits (tyWidth a.ty) ((lowBits (tyWidth a.ty) x <<< (uval (tyWidth a.ty) y % tyWidth a.ty)) ||| (lowBits (tyWidth a.ty) x >>> (tyWidth a.ty - uval (tyWidth a.ty) y % tyWidth a.ty)))))) ∧
    (Executes .popc f s v → exec (.popc f) s = .next (valueNext .popc f v (fun a x _ _ => BitVec.ofNat 64 (((List.range (tyWidth a.ty)).filter (fun i => x.getLsbD i)).length)))) ∧
    (Executes .clz f s v → exec (.clz f) s = .next (valueNext .clz f v (fun a x _ _ => BitVec.ofNat 64 (tyWidth a.ty - (if lowBits (tyWidth a.ty) x = 0 then 0 else Nat.log2 (uval (tyWidth a.ty) x) + 1))))) ∧
    (Executes .brev f s v → exec (.brev f) s = .next (valueNext .brev f v (fun a x _ _ => (lowBits (tyWidth a.ty) x).reverse >>> (64 - tyWidth a.ty)))) ∧
    (Executes .bfx f s v → exec (.bfx f) s = .next (valueNext .bfx f v (fun a x y _ => 
      let p := Nat.min (uval (tyWidth a.ty) y % 256) (tyWidth a.ty)
      let n := Nat.min (uval (tyWidth a.ty) y / 256 % 256) (tyWidth a.ty - Nat.min (uval (tyWidth a.ty) y % 256) (tyWidth a.ty))
      if tySigned a.ty = true ∧ n ≠ 0 then ofInt (tyWidth a.ty) (sval n (lowBits (tyWidth a.ty) x >>> p)) else lowBits n (lowBits (tyWidth a.ty) x >>> p)))) ∧
    (Executes .bfi f s v → exec (.bfi f) s = .next (valueNext .bfi f v (fun a x y z => 
      let p := Nat.min (uval (tyWidth a.ty) z % 256) (tyWidth a.ty)
      let n := Nat.min (uval (tyWidth a.ty) z / 256 % 256) (tyWidth a.ty - Nat.min (uval (tyWidth a.ty) z % 256) (tyWidth a.ty))
      let m : Word := BitVec.ofNat 64 ((2 ^ n - 1) * 2 ^ p)
      lowBits (tyWidth a.ty) ((x &&& ~~~m) ||| ((y <<< p) &&& m)))))

/-- mov, movi, sel, setp and the predicate operations write what R165 to R169 say. (R165, R166, R167, R168, R169, R158) -/
def Obligations.MoveSelectPredicateResults : Prop :=
  ∀ (f : Form) (s : State) (v : View),
    (Executes .mov f s v → (f.args .mov).ty = 15 → exec (.mov f) s = .next (predNext .mov f v (fun x _ _ => x))) ∧
    (Executes .mov f s v → (f.args .mov).ty ≠ 15 → (f.args .mov).d ≠ .sys 9 →
      exec (.mov f) s = .next (valueNext .mov f v (fun _ x _ _ => x))) ∧
    (Executes .mov f s v → (f.args .mov).ty ≠ 15 → (f.args .mov).d = .sys 9 →
      let w := ready .mov f v
      let x : BitVec 6 := (w.rdU (f.args .mov).a (f.args .mov).ty).truncate 6
      exec (.mov f) s = .next (View.retire { w with g := { w.g with flg := x } } f)) ∧
    (Executes .movi f s v →
      let a := f.args .movi
      let w := ready .movi f v
      exec (.movi f) s = .next ((w.put a.d a.ty (lanes .movi f v)
        (fun l => w.rd (a.a.shift (memberStep a.a a.ty * (uval 32 (w.rd a.b 5 l) % a.off.toNat))) a.ty l)).retire f)) ∧
    (Executes .sel f s v → (f.args .sel).ty = 15 →
      exec (.sel f) s = .next (predNext .sel f v (fun x y z => (x &&& z) ||| (y &&& ~~~z)))) ∧
    (Executes .sel f s v → (f.args .sel).ty ≠ 15 →
      let a := f.args .sel
      let w := ready .sel f v
      exec (.sel f) s = .next ((w.put a.d a.ty (lanes .sel f v)
        (fun l => if (w.rdP a.c).getLsbD l then w.rd a.a a.ty l else w.rd a.b a.ty l)).retire f)) ∧
    (Executes .setp f s v →
      let a := f.args .setp
      let w := ready .setp f v
      exec (.setp f) s = .next ((w.putPred a.d (lanes .setp f v) (maskOf (fun l =>
        let x := tyVal a.ty (w.rd a.a a.ty l)
        let y := tyVal a.ty (w.rd a.b a.ty l)
        match a.sub with
        | 0 => decide (x = y)
        | 1 => decide (x ≠ y)
        | 2 => decide (x < y)
        | 3 => decide (x ≤ y)
        | 4 => decide (x > y)
        | _ => decide (x ≥ y)))).retire f)) ∧
    (Executes .pand f s v → exec (.pand f) s = .next (predNext .pand f v (fun x y _ => x &&& y))) ∧
    (Executes .por f s v → exec (.por f) s = .next (predNext .por f v (fun x y _ => x ||| y))) ∧
    (Executes .pxor f s v → exec (.pxor f) s = .next (predNext .pxor f v (fun x y _ => x ^^^ y))) ∧
    (Executes .pnot f s v → exec (.pnot f) s = .next (predNext .pnot f v (fun x _ _ => ~~~x)))

/-- Floating arithmetic rounds the exact result once and raises its flags. (R170, R171, R111, R158)
Model's own choices and readings used in it: [9, DEDUCED]. -/
def Obligations.FloatArithmeticResults : Prop :=
  ∀ (f : Form) (s : State) (v : View),
    (Executes .fadd f s v → exec (.fadd f) s = .next (flaggedNext .fadd f v (f.args .fadd).ty (fun w a l => rounded w.sp.fmt a.rm a.ty ((fop w a.a a.ty l).add (effRm w.sp.fmt a.rm) (fop w a.b a.ty l))))) ∧
    (Executes .fsub f s v → exec (.fsub f) s = .next (flaggedNext .fsub f v (f.args .fsub).ty (fun w a l => rounded w.sp.fmt a.rm a.ty ((fop w a.a a.ty l).add (effRm w.sp.fmt a.rm) (fop w a.b a.ty l).negate)))) ∧
    (Executes .fmul f s v → exec (.fmul f) s = .next (flaggedNext .fmul f v (f.args .fmul).ty (fun w a l => rounded w.sp.fmt a.rm a.ty ((fop w a.a a.ty l).mul (fop w a.b a.ty l))))) ∧
    (Executes .ffma f s v → exec (.ffma f) s = .next (flaggedNext .ffma f v (f.args .ffma).ty (fun w a l => rounded w.sp.fmt a.rm a.ty (Ex.fma (effRm w.sp.fmt a.rm) (fop w a.a a.ty l) (fop w a.b a.ty l) (fop w a.c a.ty l))))) ∧
    (Executes .fdiv f s v → exec (.fdiv f) s = .next (flaggedNext .fdiv f v (f.args .fdiv).ty (fun w a l => rounded w.sp.fmt a.rm a.ty ((fop w a.a a.ty l).div (fop w a.b a.ty l))))) ∧
    (Executes .fsqrt f s v → exec (.fsqrt f) s = .next (flaggedNext .fsqrt f v (f.args .fsqrt).ty (fun w a l => rounded w.sp.fmt a.rm a.ty ((fop w a.a a.ty l).sqrt)))) ∧
    (Executes .frcp f s v → exec (.frcp f) s = .next (flaggedNext .frcp f v (f.args .frcp).ty (fun w a l => rounded w.sp.fmt a.rm a.ty ((Ex.num false 1 0).div (fop w a.a a.ty l))))) ∧
    (Executes .frsq f s v → exec (.frsq f) s = .next (flaggedNext .frsq f v (f.args .frsq).ty (fun w a l => rounded w.sp.fmt a.rm a.ty ((fop w a.a a.ty l).rsqrt)))) ∧
    (Executes .fex2 f s v → exec (.fex2 f) s = .next (flaggedNext .fex2 f v (f.args .fex2).ty (fun w a l => rounded w.sp.fmt a.rm a.ty ((fop w a.a a.ty l).exp2)))) ∧
    (Executes .flg2 f s v → exec (.flg2 f) s = .next (flaggedNext .flg2 f v (f.args .flg2).ty (fun w a l => rounded w.sp.fmt a.rm a.ty ((fop w a.a a.ty l).log2)))) ∧
    (Executes .fmin f s v → exec (.fmin f) s = .next (flaggedNext .fmin f v (f.args .fmin).ty (fun w a l => minMaxElem false w.sp.fmt a.ty (w.rd a.a a.ty l).toNat (w.rd a.b a.ty l).toNat))) ∧
    (Executes .fmax f s v → exec (.fmax f) s = .next (flaggedNext .fmax f v (f.args .fmax).ty (fun w a l => minMaxElem true w.sp.fmt a.ty (w.rd a.a a.ty l).toNat (w.rd a.b a.ty l).toNat))) ∧
    (Executes .fabs f s v → exec (.fabs f) s = .next (valueNext .fabs f v (fun a x _ _ => x &&& BitVec.ofNat 64 (signBit a.ty - 1)))) ∧
    (Executes .fneg f s v → exec (.fneg f) s = .next (valueNext .fneg f v (fun a x _ _ => x ^^^ BitVec.ofNat 64 (signBit a.ty)))) ∧
    (Executes .fscale f s v → exec (.fscale f) s = .next (flaggedNext .fscale f v (f.args .fscale).ty (fun w a l => 
      let b := max (-20000) (min 20000 (sval 32 (w.rd a.b 4 l)))
      rounded w.sp.fmt a.rm a.ty (match fop w a.a a.ty l with
        | .num n m k => (if m = 0 then Ex.num n m k else Ex.num n m (k + b), 0)
        | .nan sg => (Ex.nan false, if sg then 1 else 0)
        | .inf n => (Ex.inf n, 0)))))

/-- Floating comparison, class, rounding, conversion and packed arithmetic write the results of R172 and R173. (R172, R173, R101, R110) -/
def Obligations.FloatCompareConvertPackedResults : Prop :=
  ∀ (f : Form) (s : State) (v : View),
    (Executes .fsetp f s v →
      let a := f.args .fsetp
      let w := ready .fsetp f v
      let r := fun l => fcmp a.sub (fop w a.a a.ty l) (fop w a.b a.ty l)
      exec (.fsetp f) s = .next (((w.flag ((lanesOf (lanes .fsetp f v)).foldl (fun acc l => Flags.join acc (r l).2) 0)).putPred a.d
        (lanes .fsetp f v) (maskOf (fun l => (r l).1))).retire f)) ∧
    (Executes .fclass f s v →
      let a := f.args .fclass
      let w := ready .fclass f v
      exec (.fclass f) s = .next ((w.put a.d 5 (lanes .fclass f v) (fun l => BitVec.ofNat 64 (fclassBits a.ty (w.rd a.a a.ty l).toNat))).retire f)) ∧
    (Executes .frnd f s v → exec (.frnd f) s = .next (flaggedNext .frnd f v (f.args .frnd).ty (fun w a l => 
      let r := frndFn (effRm w.sp.fmt a.rm) (fop w a.a a.ty l) (fop w a.a a.ty l) (fop w a.a a.ty l)
      ((cvtF a.ty 0 false r.1).1, Flags.join r.2 (cvtF a.ty 0 false r.1).2)))) ∧
    (Executes .fcvt f s v → exec (.fcvt f) s = .next (flaggedNext .fcvt f v (f.args .fcvt).ty (fun w a l => rounded w.sp.fmt a.rm a.ty ((fop w a.a a.sub l, if (fop w a.a a.sub l).isSig then 1 else 0))))) ∧
    (Executes .f2i f s v → exec (.f2i f) s = .next (flaggedNext .f2i f v (f.args .f2i).ty (fun w a l => 
      let x := fop w a.a a.sub l
      let c := cvtI (tyMin a.ty) (tyMax a.ty) (effRm w.sp.fmt a.rm) x
      ((ofInt (tyWidth a.ty) c.1).toNat, Flags.join (if x.isSig then 1 else 0) c.2)))) ∧
    (Executes .i2f f s v → exec (.i2f f) s = .next (flaggedNext .i2f f v (f.args .i2f).ty (fun w a l => roundF a.ty (effRm w.sp.fmt a.rm) (fmtSat w.sp.fmt) (fmtFtz w.sp.fmt) (Ex.ofInt (tyVal a.sub (w.rd a.a a.sub l)))))) ∧
    (Executes .fadd2 f s v → exec (.fadd2 f) s = .next (flaggedNext .fadd2 f v (f.args .fadd2).ty (fun w a l => 
      let el := fun k => rounded w.sp.fmt a.rm (packedElem a.ty) ((half w a.a a.ty l k).add (effRm w.sp.fmt a.rm) (half w a.b a.ty l k))
      packed (el 0) (el 1)))) ∧
    (Executes .fmul2 f s v → exec (.fmul2 f) s = .next (flaggedNext .fmul2 f v (f.args .fmul2).ty (fun w a l => 
      let el := fun k => rounded w.sp.fmt a.rm (packedElem a.ty) ((half w a.a a.ty l k).mul (half w a.b a.ty l k))
      packed (el 0) (el 1)))) ∧
    (Executes .ffma2 f s v → exec (.ffma2 f) s = .next (flaggedNext .ffma2 f v (f.args .ffma2).ty (fun w a l => 
      let el := fun k => rounded w.sp.fmt a.rm (packedElem a.ty) (Ex.fma (effRm w.sp.fmt a.rm) (half w a.a a.ty l k) (half w a.b a.ty l k) (half w a.c a.ty l k))
      packed (el 0) (el 1)))) ∧
    (Executes .fdot2 f s v → exec (.fdot2 f) s = .next (flaggedNext .fdot2 f v 10 (fun w a l =>
      let p := fun k => (half w a.a a.ty l k).mul (half w a.b a.ty l k)
      let d := dotSum (effRm w.sp.fmt a.rm) (p 0).1 (p 1).1 (fop w a.c 10 l)
      let r := rounded w.sp.fmt a.rm 10 (d.1, 0)
      (r.1, Flags.join (Flags.join (p 0).2 (p 1).2) (Flags.join d.2 r.2)))))

/-- rdsr, elect, vote, match, shfl, redux, scan, setfmt and getfmt write the results of R174 to R180. (R101, R111, R125, R131, R174, R175, R176, R177, R178, R179, R180)
Model's own choices and readings used in it: [80, DEDUCED]. -/
def Obligations.GangOperationResults : Prop :=
  ∀ (f : Form) (s : State) (v : View),
    (Executes .rdsr f s v → ∀ n, (f.args .rdsr).a = .sys n →
      let a := f.args .rdsr
      let w := ready .rdsr f v
      exec (.rdsr f) s = .next ((w.put a.d a.ty (lanes .rdsr f v) (w.special n)).retire f)) ∧
    (Executes .elect f s v →
      let a := f.args .elect
      let w := ready .elect f v
      let e := lanes .elect f v
      exec (.elect f) s = .next (View.retire (w.putPred a.d e (1#32 <<< electLane e (uval 32 (w.rdU a.a 5)))) f)) ∧
    (Executes .vote f s v →
      let a := f.args .vote
      let w := ready .vote f v
      let e := lanes .vote f v
      exec (.vote f) s = .next (View.retire (
        let m := w.rdP a.a &&& e
        match a.sub with
        | 0 => w.put a.d 5 e (fun _ => m.zeroExtend 64)
        | 1 => w.put a.d 5 e (fun _ => BitVec.ofNat 64 (lanesOf m).length)
        | 2 => w.put a.d 5 e (fun _ => BitVec.ofNat 64 ((lanesOf m).headD 32))
        | 3 => w.putPred a.d e (if m = e then BitVec.allOnes 32 else 0)
        | 4 => w.putPred a.d e (if m = 0 then 0 else BitVec.allOnes 32)
        | _ => w.putPred a.d e (if m = 0 ∨ m = e then BitVec.allOnes 32 else 0)) f)) ∧
    (Executes .matchLanes f s v →
      let a := f.args .matchLanes
      let w := ready .matchLanes f v
      let e := lanes .matchLanes f v
      exec (.matchLanes f) s = .next (View.retire (w.put a.d 5 e (fun l =>
        let same := maskOf (fun j => e.getLsbD j && laneOf (tab32 (fun i => w.rd a.a a.ty i)) j == laneOf (tab32 (fun i => w.rd a.a a.ty i)) l)
        if a.sub = 0 then same.zeroExtend 64 else BitVec.ofNat 64 ((lanesOf same).headD 0))) f)) ∧
    (Executes .shfl f s v →
      let a := f.args .shfl
      let w := ready .shfl f v
      let e := lanes .shfl f v
      exec (.shfl f) s = .next (View.retire (
        let x := tab32 (fun l => w.rd a.a a.ty l)
        w.put a.d a.ty e (fun l =>
          match shflSource (a.sub % 4) (32 / 2 ^ (a.sub / 4 % 8)) l (w.rd a.b (if a.sub % 4 = 2 then 4 else 5) l) with
          | some j => if e.getLsbD j then laneOf x j else laneOf x l
          | none => laneOf x l)) f)) ∧
    (Executes .redux f s v →
      let a := f.args .redux
      let w := ready .redux f v
      let e := lanes .redux f v
      exec (.redux f) s = .next (View.retire (
        let r := laneTree (combine w.sp.fmt a.rm a.ty a.sub) (fun l => laneOperand w.sp.fmt a.ty (w.rd a.a a.ty l).toNat) e 5 0
        (w.flag r.2).put a.d a.ty e (fun _ => BitVec.ofNat 64 (r.1.getD 0))) f)) ∧
    (Executes .scan f s v → exec (.scan f) s = .next (flaggedNext .scan f v (f.args .scan).ty (fun w a l =>
      laneScan (combine w.sp.fmt a.rm a.ty a.sub) (fun j => laneOperand w.sp.fmt a.ty (w.rd a.a a.ty j).toNat) (lanes .scan f v) l))) ∧
    (Executes .setfmt f s v →
      let a := f.args .setfmt
      let w := ready .setfmt f v
      exec (.setfmt f) s = .next (View.retire (
        let m := if a.b = .none then BitVec.allOnes 64 else w.rdU a.b 7
        { w with sp := { w.sp with fmt := ((w.sp.fmt &&& ~~~m) ||| (w.rdU a.a 7 &&& m)) &&& fmtMask } }) f)) ∧
    (Executes .getfmt f s v →
      let a := f.args .getfmt
      let w := ready .getfmt f v
      let e := lanes .getfmt f v
      exec (.getfmt f) s = .next (View.retire (w.put a.d 7 e (fun _ => w.sp.fmt)) f))

/-- bra, brx, call, callx and ret move the PC as R43, R46 and R181 to R184 say. (R43, R46, R181, R182, R183, R184)
Model's own choices and readings used in it: [18, DEDUCED]. -/
def Obligations.BranchAndCallResults : Prop :=
  ∀ (f : Form) (s : State) (v : View),
    (Executes .bra f s v →
      let a := f.args .bra
      let w := ready .bra f v
      let e := lanes .bra f v
      w.sp.mask &&& ~~~e = 0 → exec (.bra f) s = .next (((w.goto (w.label a.a)).complete).close)) ∧
    (Executes .bra f s v →
      let a := f.args .bra
      let w := ready .bra f v
      let e := lanes .bra f v
      w.sp.mask &&& ~~~e ≠ 0 → exec (.bra f) s = .next ((((w.diverge (w.sp.mask &&& ~~~e) (w.label a.b) (w.fall f) w.sp.region).goto (w.label a.a)).complete).close)) ∧
    (Executes .brx f s v →
      let a := f.args .brx
      let w := ready .brx f v
      let e := lanes .brx f v
      ∀ g : Nat × Mask, brxGroups (w.brxTarget f a e) (lanesOf w.sp.mask) = [g] → g.1 ≠ w.fall f → exec (.brx f) s = .next (((w.goto g.1).complete).close)) ∧
    (Executes .brx f s v →
      let a := f.args .brx
      let w := ready .brx f v
      let e := lanes .brx f v
      ∀ (g : Nat × Mask) (r : List (Nat × Mask)), brxGroups (w.brxTarget f a e) (lanesOf w.sp.mask) = g :: r →
      let place := fun t => if t = w.fall f then w.sp.region else (w.target? t).getD 0
      let u := r.foldl (fun (u : View) h => u.diverge h.2 (w.label a.b) h.1 (place h.1)) w
      exec (.brx f) s = .next (({ u with sp := { u.sp with pc := g.1, region := place g.1 } } : View).complete.close)) ∧
    (Executes .call f s v →
      let a := f.args .call
      let w := ready .call f v
      exec (.call f) s = .next (((({ w with sp := { w.sp with ret := (w.fall f, w.sp.region, openDepth w.g.entries w.k) :: w.sp.ret } } : View).goto (w.label a.a)).complete).close)) ∧
    (Executes .callx f s v →
      let a := f.args .callx
      let w := ready .callx f v
      exec (.callx f) s = .next (((({ w with sp := { w.sp with ret := (w.fall f, w.sp.region, openDepth w.g.entries w.k) :: w.sp.ret } } : View).goto (w.rdU a.a 7).toNat).complete).close)) ∧
    (Executes .ret f s v →
      let w := ready .ret f v
      ∀ (x : Nat × Nat × Nat) (r : List (Nat × Nat × Nat)), w.sp.ret = x :: r → exec (.ret f) s = .next (({ w with sp := { w.sp with pc := x.1, region := x.2.1, ret := r } } : View).complete.close))

/-- join and exit carry a gang on as R44, R45 and R47 say; a join whose lane sets are inconsistent raises 642, and the last exit or join
in a handler ends it, once its frame can be read. (R44, R45, R47, R185, R436, R488)
Model's own choices and readings used in it: [83, DEDUCED], [89, DEDUCED]. -/
def Obligations.JoinAndExitResults : Prop :=
  ∀ (f : Form) (s : State) (v : View),
    (Executes .join f s v →
      let w := ready .join f v
      let x := w.here
      let next := fun y => if y = x then (w.fall f, w.sp.region) else w.nextOf y
      let j := w.gangNow.join next w.s.now w.k x
      let r := Gang.settle 1100 next w.s.now j.2 j.1
      (w.gangNow.joinBad w.k x = true → exec (.join f) s = .next ((v.enter .join f).fail f.slot { cause := 642, info := 0, addr := 0 })) ∧
      (w.gangNow.joinBad w.k x = false → r.2 = false → exec (.join f) s = .next (((w.onGang r.1).complete).close)) ∧
      (w.gangNow.joinBad w.k x = false → r.2 = true → (w.onGang r.1).g.handler.isSome = true → w.s.frameWait w.t (w.onGang r.1).g = none →
        exec (.join f) s = .next (State.endHandler ((w.onGang r.1).complete).close w.t.rid w.gang)) ∧
      (∀ p, w.gangNow.joinBad w.k x = false → r.2 = true → (w.onGang r.1).g.handler.isSome = true → w.s.frameWait w.t (w.onGang r.1).g = some p →
        exec (.join f) s = .next (({ w with sp := { w.sp with sig := v.sp.sig, tilePos := v.sp.tilePos } } : View).close.parkGang v.t.rid (v.enter .join f).gang v.k p)) ∧
      (w.gangNow.joinBad w.k x = false → r.2 = true → (w.onGang r.1).g.handler = none →
        exec (.join f) s = .next ((((w.onGang r.1).complete).onTeam (fun t => t.gangExit w.s.now w.gang)).close)) ∧
      -- where the gang has its four contexts, a join leaves it lanes
      (w.g.splits.length ≤ 4 → r.2 = false)) ∧
    (Executes .exit f s v →
      let w := ready .exit f v
      let e := lanes .exit f v
      let sp : Split := { w.sp with mask := w.sp.mask &&& ~~~e, pc := w.fall f }
      let g : Gang := { w.gangNow with gone := w.g.gone ||| e, splits := w.g.splits.set w.k sp }
      let u := (w.onGang g).onTeam (fun t => (t.escape).arriveLeft w.s.now w.gang)
      let r := Gang.settle 1100 u.nextOf w.s.now w.k u.gangNow
      let z := u.onGang r.1
      (r.2 = false → exec (.exit f) s = .next ((z.complete).close)) ∧
      (r.2 = true → z.g.handler = none → exec (.exit f) s = .next (((z.complete).onTeam (fun t => t.gangExit u.s.now u.gang)).close)) ∧
      (r.2 = true → z.g.handler.isSome = true → u.s.frameWait z.t z.g = none →
        exec (.exit f) s = .next (State.endHandler (z.complete).close u.t.rid u.gang)) ∧
      (∀ p, r.2 = true → z.g.handler.isSome = true → u.s.frameWait z.t z.g = some p →
        exec (.exit f) s = .next (({ w with sp := { w.sp with sig := v.sp.sig, tilePos := v.sp.tilePos } } : View).close.parkGang v.t.rid (v.enter .exit f).gang v.k p)))

/-- yield, nsleep, waita and the team barriers do what R57 and R186 to R190 say. (R57, R186, R187, R188, R189, R190)
Model's own choices and readings used in it: [54, DEDUCED]. -/
def Obligations.WaitAndBarrierResults : Prop :=
  ∀ (f : Form) (s : State) (v : View),
    (Executes .yield f s v →
      let w := ready .yield f v
      exec (.yield f) s = .next (({ w with sp := { w.sp with stamp := w.s.now } } : View).retire f)) ∧
    (Executes .nsleep f s v →
      let a := f.args .nsleep
      let w := ready .nsleep f v
      exec (.nsleep f) s = .next (({ w with sp := { w.sp with wait := .asleep (w.s.ptp + min (w.rdU a.a 7).toNat 10000000), waitStart := w.s.ptp } } : View).retire f)) ∧
    (Executes .waita f s v →
      let a := f.args .waita
      let w := ready .waita f v
      let e := lanes .waita f v
      let x := w.watchAddr a e
      let r := w.watched a.spc x (tyBytes a.ty)
      w.parkOf a.spc x false = none → w.nearPoison a.spc x (tyBytes a.ty) = false →
      (a.spc = 3 → w.s.dmPoison w.t.core w.t.asid x (tyBytes a.ty) true = false) →
      cmpInt a.sub (tyVal a.ty r.1) (tyVal a.ty (w.watchValue a)) = true →
      exec (.waita f) s = .next (((({ (r.2).acquire (a.acq && a.wide) with due := w.farTime a.spc x }.put a.d a.ty e (fun _ => r.1)).holdUntil
        (w.farTime a.spc x)).retire f))) ∧
    (Executes .waita f s v →
      let a := f.args .waita
      let w := ready .waita f v
      let x := w.watchAddr a (lanes .waita f v)
      let r := w.watched a.spc x (tyBytes a.ty)
      w.parkOf a.spc x false = none → w.nearPoison a.spc x (tyBytes a.ty) = false →
      (a.spc = 3 → w.s.dmPoison w.t.core w.t.asid x (tyBytes a.ty) true = false) →
      cmpInt a.sub (tyVal a.ty r.1) (tyVal a.ty (w.watchValue a)) = false →
      exec (.waita f) s = .next (({ r.2 with sp := { r.2.sp with sig := v.sp.sig, tilePos := v.sp.tilePos } } : View).close.parkGang v.t.rid (v.enter .waita f).gang v.k
        (.word a.spc x a.ty a.sub (w.watchValue a)))) ∧
    (Executes .waita f s v →
      let a := f.args .waita
      let w := ready .waita f v
      ∀ p : Wait, w.parkOf a.spc (w.watchAddr a (lanes .waita f v)) false = some p →
      exec (.waita f) s = .next (({ w with sp := { w.sp with sig := v.sp.sig, tilePos := v.sp.tilePos } } : View).close.parkGang v.t.rid (v.enter .waita f).gang v.k p)) ∧
    (Executes .waita f s v →
      let a := f.args .waita
      let w := ready .waita f v
      let x := w.watchAddr a (lanes .waita f v)
      w.parkOf a.spc x false = none →
      (w.nearPoison a.spc x (tyBytes a.ty) = true ∨ (a.spc = 3 ∧ w.s.dmPoison w.t.core w.t.asid x (tyBytes a.ty) true = true)) →
      exec (.waita f) s = .next ((v.enter .waita f).fail f.slot (raise256 (w.poisonSource a.spc x) x))) ∧
    (Executes .bar f s v →
      let a := f.args .bar
      let w := ready .bar f v
      let e := lanes .bar f v
      
      let n := (w.barArgs a).1
      let u := w.complete.advance f.bytes
      exec (.bar f) s = .next (((({ u with sp := { u.sp with wait := .bar n (w.t.bar n).phase, waitStart := w.s.ptp } } : View).onTeam (fun t => t.arrive w.s.now w.gang n (w.barArgs a).2 e)).close))) ∧
    (Executes .barar f s v →
      let a := f.args .barar
      let w := ready .barar f v
      let e := lanes .barar f v
      exec (.barar f) s = .next ((((w.complete.advance f.bytes).onTeam (fun t => t.arrive w.s.now w.gang (w.barArgs a).1 (w.barArgs a).2 e)).close))) ∧
    (Executes .barwt f s v →
      let a := f.args .barwt
      let w := ready .barwt f v
      w.sp.latched.isSome = true ∨ Tab.get 0 w.g.lastPhase (w.barArgs a).1 ≤ (w.t.bar (w.barArgs a).1).phase →
      exec (.barwt f) s = .next (w.retire f)) ∧
    (Executes .barwt f s v →
      let a := f.args .barwt
      let w := ready .barwt f v
      let last := Tab.get 0 w.g.lastPhase (w.barArgs a).1
      w.sp.latched = none → (w.t.bar (w.barArgs a).1).phase < last →
      exec (.barwt f) s = .next (({ w with sp := { w.sp with sig := v.sp.sig, tilePos := v.sp.tilePos } } : View).close.parkGang v.t.rid (v.enter .barwt f).gang v.k
        (.barwt (w.barArgs a).1 last)))

/-- ld, ldu and st read and write at their points of performance. (R191, R193, R195, R260, R261, R304, R308)
Model's own choices and readings used in it: [33, DEDUCED], [37, DESIGN CHOICE]. -/
def Obligations.LoadAndStoreResults : Prop :=
  ∀ (f : Form) (s : State) (v : View),
    (Executes .ld f s v →
      let a := f.args .ld
      let w := ready .ld f v
      let e := lanes .ld f v
      let ls := w.accessLanes a e false
      let n := tyBytes a.ty
      let home := a.acq && a.wide
      let m := w.loadTimes a home ls
      let r := (m.2.acquire home).loadAll a ls n home
      (∀ l ∈ ls, w.parkOf a.spc (w.addr a l) false = none) → (∀ l ∈ ls, w.nearPoison a.spc (w.addr a l) n = false) →
      (a.spc = 3 → ∀ l ∈ ls, w.s.dmPoison w.t.core w.t.asid (w.addr a l) n (home || a.pol != 0) = false) →
      exec (.ld f) s = .next (((({ (if w.native then r.1.record a ls n else r.1) with due := m.1 }.put a.d a.ty e (laneVal r.2)).holdUntil m.1)).retire f)) ∧
    (Executes .ldu f s v →
      let a := f.args .ldu
      let w := ready .ldu f v
      let e := lanes .ldu f v
      let ls := w.accessLanes a e true
      let n := tyBytes a.ty
      let home := a.acq && a.wide
      let m := w.loadTimes a home ls
      let r := (m.2.acquire home).loadAll a ls n home
      (∀ l ∈ ls, w.parkOf a.spc (w.addr a l) false = none) → (∀ l ∈ ls, w.nearPoison a.spc (w.addr a l) n = false) →
      (a.spc = 3 → ∀ l ∈ ls, w.s.dmPoison w.t.core w.t.asid (w.addr a l) n (home || a.pol != 0) = false) →
      exec (.ldu f) s = .next (((({ (if w.native then r.1.record a ls n else r.1) with due := m.1 }.put a.d a.ty e (laneVal r.2)).holdUntil m.1)).retire f)) ∧
    (Executes .st f s v →
      let a := f.args .st
      let w := ready .st f v
      let e := lanes .st f v
      let n := tyBytes a.ty
      let vals := (lanesOf e).map (fun l => (w.addr a l, toBytesLE n (w.rd a.b a.ty l).toNat, l))
      let u := vals.foldl (fun u x => u.store a.spc a.pol (a.rel && a.wide) x.1 x.2.1) (w.release (a.rel && a.wide))
      (w.native = true → a.rel = true) → (w.native = true → ∀ d ∈ w.sp.adt, ∀ x ∈ vals, d.meets a.spc x.1 n = false) →
      (∀ l ∈ lanesOf e, w.parkOf a.spc (w.addr a l) true = none) →
      exec (.st f) s = .next ((({ u with sp := u.sp.countStore } : View).holdUntil (vals.foldl (fun t x => Nat.max t (w.farTime a.spc x.1)) 0)).retire f)) ∧
    (Executes .st f s v →
      let a := f.args .st
      let w := ready .st f v
      let e := lanes .st f v
      let n := tyBytes a.ty
      let vals := (lanesOf e).map (fun l => (w.addr a l, toBytesLE n (w.rd a.b a.ty l).toNat, l))
      let sp1 := vals.foldl (fun (sp : Split) x => sp.gate a.spc a.pol x.1 x.2.2 x.2.1) w.sp.countStore
      w.native = true → a.rel = false → (∀ d ∈ w.sp.adt, ∀ x ∈ vals, d.meets a.spc x.1 n = false) →
      (sp1.gated.length ≤ 64 → sp1.gated.length + w.othersGated ≤ 64 → exec (.st f) s = .next (({ w with sp := sp1 } : View).retire f)) ∧
      (sp1.gated.length ≤ 64 → 64 < sp1.gated.length + w.othersGated → exec (.st f) s = .next (({ w with sp := { w.sp with sig := v.sp.sig, tilePos := v.sp.tilePos } } : View).close.parkGang
        v.t.rid (v.enter .st f).gang v.k (.buffer (sp1.gated.length - w.sp.gated.length)))) ∧
      (64 < sp1.gated.length → exec (.st f) s = .next ((v.enter .st f).fail f.slot { cause := 771, info := 0, addr := 0 })))

/-- atom (amax among its operations), cas, aqadd and fgath act at the face units or the scratch bank. (R87, R88, R193, R196, R197, R198, R199, R200, R203)
Model's own choices and readings used in it: [33, DEDUCED]. -/
def Obligations.AtomicAndGatherResults : Prop :=
  ∀ (f : Form) (s : State) (v : View),
    (Executes .atom f s v →
      let a := f.args .atom
      let w := ready .atom f v
      let e := lanes .atom f v
      
      let ls := w.accessLanes a e false
      let n := tyBytes (wordTy .atom a.ty)
      (∀ l ∈ ls, w.parkOf a.spc (w.addr a l) true = none) → (∀ l ∈ ls, w.nearPoison a.spc (w.addr a l) n = false) →
      (a.spc = 3 → ∀ l ∈ ls, w.s.dmPoison w.t.core w.t.asid (w.addr a l) n true = false) →
      a.spc = 3 → exec (.atom f) s = .next ((w.toFaceUnits .atom a ls (w.addr a)).retire f)) ∧
    (Executes .atom f s v →
      let a := f.args .atom
      let w := ready .atom f v
      let e := lanes .atom f v
      
      let ls := w.accessLanes a e false
      let n := tyBytes (wordTy .atom a.ty)
      (∀ l ∈ ls, w.parkOf a.spc (w.addr a l) true = none) → (∀ l ∈ ls, w.nearPoison a.spc (w.addr a l) n = false) →
      (a.spc = 3 → ∀ l ∈ ls, w.s.dmPoison w.t.core w.t.asid (w.addr a l) n true = false) →
      let r := (w.release (a.rel && a.wide)).atBank .atom a ls
      a.spc ≠ 3 → exec (.atom f) s = .next ((((r.1).acquire (a.acq && a.wide)).put a.d (wordTy .atom a.ty) e (laneVal r.2)).retire f)) ∧
    (Executes .cas f s v →
      let a := f.args .cas
      let w := ready .cas f v
      let e := lanes .cas f v
      
      let ls := w.accessLanes a e false
      let n := tyBytes (wordTy .cas a.ty)
      (∀ l ∈ ls, w.parkOf a.spc (w.addr a l) true = none) → (∀ l ∈ ls, w.nearPoison a.spc (w.addr a l) n = false) →
      (a.spc = 3 → ∀ l ∈ ls, w.s.dmPoison w.t.core w.t.asid (w.addr a l) n true = false) →
      a.spc = 3 → exec (.cas f) s = .next ((w.toFaceUnits .cas a ls (w.addr a)).retire f)) ∧
    (Executes .cas f s v →
      let a := f.args .cas
      let w := ready .cas f v
      let e := lanes .cas f v
      
      let ls := w.accessLanes a e false
      let n := tyBytes (wordTy .cas a.ty)
      (∀ l ∈ ls, w.parkOf a.spc (w.addr a l) true = none) → (∀ l ∈ ls, w.nearPoison a.spc (w.addr a l) n = false) →
      (a.spc = 3 → ∀ l ∈ ls, w.s.dmPoison w.t.core w.t.asid (w.addr a l) n true = false) →
      let r := (w.release (a.rel && a.wide)).atBank .cas a ls
      a.spc ≠ 3 → exec (.cas f) s = .next ((((r.1).acquire (a.acq && a.wide)).put a.d (wordTy .cas a.ty) e (laneVal r.2)).retire f)) ∧
    (Executes .aqadd f s v →
      let a := f.args .aqadd
      let w := ready .aqadd f v
      let e := lanes .aqadd f v
      
      let ls := w.accessLanes a e false
      let n := tyBytes (wordTy .aqadd a.ty)
      (∀ l ∈ ls, w.parkOf a.spc (w.addr a l) true = none) → (∀ l ∈ ls, w.nearPoison a.spc (w.addr a l) n = false) →
      (a.spc = 3 → ∀ l ∈ ls, w.s.dmPoison w.t.core w.t.asid (w.addr a l) n true = false) →
      a.spc = 3 → exec (.aqadd f) s = .next ((w.toFaceUnits .aqadd a ls (w.addr a)).retire f)) ∧
    (Executes .aqadd f s v →
      let a := f.args .aqadd
      let w := ready .aqadd f v
      let e := lanes .aqadd f v
      
      let ls := w.accessLanes a e false
      let n := tyBytes (wordTy .aqadd a.ty)
      (∀ l ∈ ls, w.parkOf a.spc (w.addr a l) true = none) → (∀ l ∈ ls, w.nearPoison a.spc (w.addr a l) n = false) →
      (a.spc = 3 → ∀ l ∈ ls, w.s.dmPoison w.t.core w.t.asid (w.addr a l) n true = false) →
      let r := (w.release (a.rel && a.wide)).atBank .aqadd a ls
      a.spc ≠ 3 → exec (.aqadd f) s = .next ((((r.1).acquire (a.acq && a.wide)).put a.d (wordTy .aqadd a.ty) e (laneVal r.2)).retire f)) ∧
    (Executes .fgath f s v →
      let a := f.args .fgath
      let w := ready .fgath f v
      let e := lanes .fgath f v
      (∀ l ∈ lanesOf e, w.parkOf 3 (w.gathAddr a l) false = none) →
      (∀ l ∈ lanesOf e, w.s.dmPoison w.t.core w.t.asid (w.gathAddr a l) (tyBytes a.ty) true = false) → exec (.fgath f) s = .next ((w.toFaceUnits .fgath a (lanesOf e) (w.gathAddr a)).retire f))

/-- fence, pref and codeload do what R201, R202, R204 and R205 say. (R201, R202, R204, R205, R261)
Model's own choices and readings used in it: [3, DESIGN CHOICE], [37, DESIGN CHOICE]. -/
def Obligations.FencePrefetchCodeloadResults : Prop :=
  ∀ (f : Form) (s : State) (v : View),
    (Executes .fence f s v →
      let a := f.args .fence
      let w := ready .fence f v
      exec (.fence f) s = .next ((((if a.wide then { w with t := w.t.escape } else w : View).release (a.rel && a.wide)).acquire (a.acq && a.wide)).retire f)) ∧
    (Executes .pref f s v →
      let a := f.args .pref
      let w := ready .pref f v
      let e := lanes .pref f v
      exec (.pref f) s = .next ((w.onState (fun u => (lanesOf e).foldl (fun u l =>
        if w.addr a l < 2 ^ 56 then u.prefetch w.t.core w.t.asid w.t.rid a.pol (w.addr a l) else u) u)).retire f)) ∧
    (Executes .codeload f s v →
      let a := f.args .codeload
      let w := ready .codeload f v
      
      let x := (w.rdU a.a 7).toNat
      let n := uval 32 (w.rdU a.b 5)
      let u := w.onState (fun u => u.dropRange w.t.core w.t.asid x n)
      (∀ y ∈ blocksOf x n, w.parkOf 3 y false = none) →
      (∀ i < n / 8, u.s.dmPoison w.t.core w.t.asid (x + 8 * i) 8 true = false) →
      regionFault (n / 8) (declTotal w.t.kern.decls) 0 (u.s.wordsAt w.t.asid x n) = none → exec (.codeload f) s = .next (({ u with t := u.t.escape, sp := { u.sp with wait := .codeload a.d (w.locsOf a.d 32) x (u.s.wordsAt w.t.asid x n), waitStart := w.s.ptp } } : View).retire f))

/-- The system instructions do what R222 to R225, R227 to R229, R231, R232 and R435 say. (R222, R223, R224, R225, R227, R228, R229, R231, R232, R435)
Model's own choices and readings used in it: [3, DESIGN CHOICE], [15, DEDUCED], [28, DEDUCED], [32, DEDUCED], [70, DESIGN CHOICE], [82, DEDUCED], [84, DEDUCED]. -/
def Obligations.SystemInstructionResults : Prop :=
  ∀ (f : Form) (s : State) (v : View),
    (Executes .tvec f s v →
      let a := f.args .tvec
      let w := ready .tvec f v
      exec (.tvec f) s = .next (({ w with g := { w.g with tvec := w.handlerAddr a, tframe := (w.rdU a.b 7).toNat } } : View).retire f)) ∧
    (Executes .query f s v →
      let a := f.args .query
      let w := ready .query f v
      exec (.query f) s = .next ((w.putUni a.d 7 (match w.num a with
        | 0 => w.t.kern.feat0
        | 1 => w.t.kern.feat1
        | 2 => 0x10000
        | _ => BitVec.ofNat 64 w.s.hub.config.package)).retire f)) ∧
    (Executes .qkind f s v →
      let a := f.args .qkind
      let w := ready .qkind f v
      exec (.qkind f) s = .next ((w.putUni a.d 5 (BitVec.ofNat 64 ((if w.t.core.kind = .dcore then 1 else 0) + w.t.core.num * 2 ^ 8 + CoreId.die w.t.core * 2 ^ 16))).retire f)) ∧
    (Executes .ptime f s v →
      let a := f.args .ptime
      let w := ready .ptime f v
      exec (.ptime f) s = .next ((w.putUni a.d 7 (BitVec.ofNat 64 (match a.sub with
        | 0 => w.s.ptp
        | 1 => w.s.ptp / 1000000000 % 2 ^ 48
        | _ => w.s.ptp % 1000000000))).retire f)) ∧
    (Executes .prfrd f s v →
      let a := f.args .prfrd
      let w := ready .prfrd f v
      let steps := (w.g.splits.set w.k w.sp).foldl (fun n sp => if sp.used then n + sp.steps else n) w.g.issued
      (w.native = true → w.num a ≠ 0) → exec (.prfrd f) s = .next ((w.putUni a.d 7 (BitVec.ofNat 64 (match w.num a with
        | 0 => steps
        | 1 => w.t.residentNs + (w.s.ptp - w.t.placedAt)
        | 2 => w.t.haulStall
        | 3 => w.t.prefUseful
        | 4 => w.t.prefLate
        | 5 => w.t.prefUnused
        | _ => w.g.conflicts))).retire f)) ∧
    (Executes .prfrd f s v →
      let a := f.args .prfrd
      let w := ready .prfrd f v
      let u : View := { w with sp := { w.sp with
        steps := Nat.max w.sp.steps ((jvBefore w.t.kern.code (w.t.rjvpc w.sp) w.sp.counts).getD
          (w.sp.steps + Config.jvSteps w.t.kern.code (w.t.rjvpc w.sp) (2 ^ 64 + w.sp.counts) w.sp.sigThen w.sp.sig)), counts := w.sp.counts + 1 } }
      let steps := (u.g.splits.set u.k u.sp).foldl (fun n sp => if sp.used then n + sp.steps else n) u.g.issued
      w.native = true → w.num a = 0 →
      exec (.prfrd f) s = .next ((u.putUni a.d 7 (BitVec.ofNat 64 steps)).retire f)) ∧
    (Executes .chksig f s v →
      let w := ready .chksig f v
      exec (.chksig f) s = .next (w.retire f)) ∧
    (Executes .sigset f s v →
      let a := f.args .sigset
      let w := ready .sigset f v
      exec (.sigset f) s = .next (({ w with sp := { w.sp with sig := w.rdU a.a 7, sigOff := false } } : View).retire f)) ∧
    (Executes .brkpt f s v →
      let w := ready .brkpt f v
      w.t.dbg = false → exec (.brkpt f) s = .next (w.retire f)) ∧
    (Executes .brkpt f s v →
      let a := f.args .brkpt
      let w := ready .brkpt f v
      w.t.dbg = true → exec (.brkpt f) s = .next (({ w with t := { w.t with
        status := w.t.status.atBreak (w.num a, w.gang, if w.native then w.t.rjvpc w.sp else w.t.kern.jvOffset (w.fall f)) } } : View).retire f)) ∧
    (Executes .mig f s v →
      let a := f.args .mig
      let w := ready .mig f v
      
      let u := w.complete
      exec (.mig f) s = .next ((({ u with sp := { u.sp with wait := .mig (w.num a) a.d (w.locsOf a.d 32), waitStart := w.s.ptp } } : View).close).settleMig w.t.rid)) ∧
    (Executes .trap f s v →
      let a := f.args .trap
      let w := ready .trap f v
      
      let u := (({ w with t := w.t.escape } : View).complete).advance f.bytes
      exec (.trap f) s = .next (u.close.deliver { cause := 576 + w.num a, info := w.num a, addr := 0 }
        { rid := u.t.rid, gang := u.gang, split := u.k, after := true, slot := f.slot,
          npc := if w.native then BitVec.ofNat 64 (v.sp.pc - bundleBytes v.t.core.kind) else Config.nativePc v.t.kern.handle v.t.core.kind v.sp.pc })) ∧
    (Executes .tret f s v →
      let w := ready .tret f v
      (w.s.frameWait w.t w.g = none → exec (.tret f) s = .next ((w.complete.close).endHandler w.t.rid w.gang)) ∧
      (∀ p, w.s.frameWait w.t w.g = some p → exec (.tret f) s =
        .next (({ w with sp := { w.sp with sig := v.sp.sig, tilePos := v.sp.tilePos } } : View).close.parkGang v.t.rid (v.enter .tret f).gang v.k p)))

/-- launch places its packet in the queue's next slot and says whether it did. (R230, R343) -/
def Obligations.DeviceLaunchResult : Prop :=
  ∀ (f : Form) (s : State) (v : View),
    (Executes .launch f s v → ∀ q : Queue,
      let a := f.args .launch
      let w := ready .launch f v
      let p := (w.rdU a.a 7).toNat
      launchQueue w a = some q → w.parkOf 3 p false = none → w.s.dmPoison w.t.core w.t.asid p 64 true = false →
      let u := w.release true
      let r := u.close.homeRead w.t.core w.t.asid p 64
      let u2 := (u.onState (fun _ => r.2)).holdUntil (w.farTime 3 p)
      (q.size ≤ (q.wr - q.rd).toNat → exec (.launch f) s = .next ((u2.putNow a 1).retire f)) ∧
      ((q.wr - q.rd).toNat < q.size → exec (.launch f) s = .next (((u2.onState (fun z =>
        let z1 := z.putPkg q.asid (q.ring + 64 * (q.wr.toNat % q.size)) r.1
        { z1 with hub := { z1.hub with queues := updFirst (fun (x : Queue) => x.num == q.num) (fun (x : Queue) => { x with wr := x.wr + 1 }) z1.hub.queues } })).putNow a 0).retire f)))

/-- The native-only operations do what R279, R297, R298, R300 to R302, R305, R307 and R533 say. (R279, R297, R298, R300, R301, R302, R305, R307, R533)
Model's own choices and readings used in it: [33, DEDUCED], [35, DEDUCED]. -/
def Obligations.NativeOperationResults : Prop :=
  ∀ (f : Form) (s : State) (v : View),
    (Executes .loop f s v →
      let a := f.args .loop
      let w := ready .loop f v
      ∀ u : View, u = loopStep w a → w.sp.lr ≠ 0 → exec (.loop f) s = .next ((u.goto (w.label a.a)).complete.close)) ∧
    (Executes .loop f s v →
      let a := f.args .loop
      let w := ready .loop f v
      ∀ u : View, u = loopStep w a → w.sp.lr = 0 → exec (.loop f) s = .next (u.complete.close)) ∧
    (Executes .rrbset f s v →
      let a := f.args .rrbset
      let w := ready .rrbset f v
      exec (.rrbset f) s = .next (({ w with sp := { w.sp with rrb := a.off.toNat } } : View).retire f)) ∧
    (Executes .movx f s v →
      let a := f.args .movx
      let w := ready .movx f v
      let e := lanes .movx f v
      exec (.movx f) s = .next ((w.putLanes a.d 5 e (fun l => w.rd a.a 5 l)).retire f)) ∧
    (Executes .sigadv f s v →
      let a := f.args .sigadv
      let w := ready .sigadv f v
      exec (.sigadv f) s = .next (({ w with sp := { w.sp with sig := (w.sp.sig.rotateLeft (13 * a.off.toNat % 64)) ^^^ w.rdU a.a 7 } } : View).retire f)) ∧
    (Executes .nop f s v →
      let w := ready .nop f v
      exec (.nop f) s = .next (w.retire f)) ∧
    (Executes .cmt f s v →
      let a := f.args .cmt
      let w := ready .cmt f v
      ∀ r : Record, w.useRecord (w.t.natCode.bind (fun c => c.indexed[a.off.toNat]?)) = .ok r → w.gatedCheck = none → exec (.cmt f) s = .next (((w.commit w.sp.pc (some r) none).endInterval r).retire f)) ∧
    (Executes .eqp f s v →
      let a := f.args .eqp
      let w := ready .eqp f v
      ∀ r : Record, w.useRecord (w.t.natCode.bind (fun c => c.indexed[a.off.toNat]?)) = .ok r → w.sp.tailings = [] → (∀ x ∈ w.sp.flight, x.remain ≤ 1) → w.sp.rrb = r.rrb → w.gatedCheck = none → exec (.eqp f) s = .next (((w.commit w.sp.pc (some r) none).endInterval r).retire f))

/-- mma and mma.ra accumulate group sums into their tile, unless a group check fails. (R114, R119, R233, R239, R240, R241, R489, R490)
Model's own choices and readings used in it: [13, DEDUCED], [16, DEDUCED], [76, DESIGN CHOICE]. -/
def Obligations.MatrixMultiplyResults : Prop :=
  ∀ (f : Form) (s : State) (v : View),
    (Executes .mma f s v →
      let a := f.args .mma
      let w := ready .mma f v
      let k := w.tileOf a.d
      let fmt := w.sp.fmt
      let da := w.rdU a.a 7
      let db := w.rdU a.b 7
      let n := a.off.toNat
      let x := w.operandBytes da (fmtAfmt fmt) n (fmtBsc fmt)
      let y := w.operandBytes db (fmtBfmt fmt) n (fmtBsc fmt)
      let lt : ALatch := { k := n, afmt := fmtAfmt fmt, w16 := fmtW16 fmt, bsc := fmtBsc fmt, desc := da, bytes := x.1, scales := x.2 }
      let ga := operandGroups (fmtAfmt fmt) n (fmtW16 fmt) x.1 x.2
      let gb := operandGroups (fmtBfmt fmt) n (fmtW16 fmt) y.1 y.2
      let core := w.s.coreOf w.t.core
      let steps := groupSteps (aligned16 (fmtAfmt fmt) (fmtW16 fmt)) (aligned16 (fmtBfmt fmt) (fmtW16 fmt)) core.pipe ga gb
      let r := (w.tile k).mma steps.1 ga gb
      let u := ((if core.pipe.isEmpty then w else { w with s := w.s.setCore { core with pipe := [] } }).flag r.2).setTile k r.1
      (w.tile k).poison = false → w.operandPoison db (fmtBfmt fmt) n (fmtBsc fmt) = false → w.operandPoison da (fmtAfmt fmt) n (fmtBsc fmt) = false →
      (steps.2 = none → r.1.misSum = none → exec (.mma f) s = .next (({ u with g := { u.g with latch := some lt } } : View).retire f)) ∧
      (∀ z : GroupFail, steps.2 = some z → exec (.mma f) s = .next ((v.enter .mma f).fail f.slot (z.raise a.d.regNum k)))) ∧
    (Executes .mmaRa f s v →
      let a := f.args .mmaRa
      let w := ready .mmaRa f v
      ∀ lt : ALatch, w.g.latch = some lt →
      let k := w.tileOf a.d
      let fmt := w.sp.fmt
      let db := w.rdU a.b 7
      let y := w.operandBytes db (fmtBfmt fmt) lt.k (fmtBsc fmt)
      let now := w.operandBytes lt.desc lt.afmt lt.k lt.bsc
      let ga := operandGroups lt.afmt lt.k lt.w16 (pickBytes w.s.free lt.bytes now.1) (pickBytes (w.s.free + lt.bytes.length) lt.scales now.2)
      let gb := operandGroups (fmtBfmt fmt) lt.k (fmtW16 fmt) y.1 y.2
      let core := w.s.coreOf w.t.core
      let steps := groupSteps (aligned16 lt.afmt lt.w16) (aligned16 (fmtBfmt fmt) (fmtW16 fmt)) core.pipe ga gb
      let r := (w.tile k).mma steps.1 ga gb
      let u := ((if core.pipe.isEmpty then w else { w with s := w.s.setCore { core with pipe := [] } }).flag r.2).setTile k r.1
      (w.tile k).poison = false → w.operandPoison db (fmtBfmt fmt) lt.k (fmtBsc fmt) = false →
      (steps.2 = none → r.1.misSum = none →
        exec (.mmaRa f) s = .next (({ u with s := { u.s with free := u.s.free + lt.bytes.length + lt.scales.length } } : View).retire f)) ∧
      (∀ z : GroupFail, steps.2 = some z → exec (.mmaRa f) s = .next ((v.enter .mmaRa f).fail f.slot (z.raise a.d.regNum k))))

/-- The group check of a step without an error of the pipe passes and its residues carry the exact group integers; an error in one
residue fails the check of its row. (R115, R116, R254, R489) -/
def Obligations.GroupCheckFindsAnError : Prop :=
  ∀ (x : GroupStep) (grp : Nat), x.a.length = 64 → x.b.length = 64 →
    (∀ l ∈ x.a, l.length = 16 ∧ ∀ y ∈ l, y.natAbs < (if x.wa then 2 ^ 16 else 2 ^ 8)) →
    (∀ l ∈ x.b, l.length = 16 ∧ ∀ y ∈ l, y.natAbs < (if x.wb then 2 ^ 16 else 2 ^ 8)) →
    (x.errs = [] → x.check grp = none ∧ ∀ i < 64, ∀ j < 64, x.value i j = dot (x.a.getD i []) (x.b.getD j [])) ∧
    (∀ e : PipeErr, x.errs = [e] → e.row < 64 → e.col < 64 → e.chan < 3 → e.limb ∈ limbPairs x.wa x.wb → e.delta % modulus e.chan ≠ 0 →
      x.check grp = some { grp := grp, chan := e.chan, limb := e.limb, col := false, line := e.row })

/-- accz, accld, accmax, accanc, tri, xcut and the asst operations do what R245, R246, R249 to R254 and R256 say. (R245, R246, R249, R250, R251, R252, R253, R254, R256)
Model's own choices and readings used in it: [16, DEDUCED]. -/
def Obligations.TileResults : Prop :=
  ∀ (f : Form) (s : State) (v : View),
    (Executes .accz f s v →
      let a := f.args .accz
      let w := ready .accz f v
      
      let k := w.tileOf a.d
      exec (.accz f) s = .next ((w.setTile k { Tile.zero with anchor := fmtAnchor w.sp.fmt, tol := (w.tile k).tol, rowSums := List.replicate 64 0, colSums := List.replicate 64 0 }).retire f)) ∧
    (Executes .accld f s v →
      let a := f.args .accld
      let w := ready .accld f v
      let e := lanes .accld f v
      
      let k := w.tileOf a.d
      let x := w.accAddr a e
      let wd := accWidth a.ty
      let n := 64 * accRows a * wd
      let due := w.blockTime a x n
      let r := (due.2.acquire (a.acq && a.wide)).readBlock a x n
      let el := (List.range (64 * accRows a)).map (fun i => accldElem a.ty (fmtAnchor w.sp.fmt) (BitVec.ofNat 64 (ofBytesLE ((r.1.drop (i * wd)).take wd))))
      let base : Tile := { Tile.zero with anchor := fmtAnchor w.sp.fmt, tol := (w.tile k).tol, rowSums := List.replicate 64 0, colSums := List.replicate 64 0 }
      (∀ y ∈ blocksOf x n, w.parkOf a.spc y false = none) → w.nearPoison a.spc x n = false →
      (a.spc = 3 → ∀ p ∈ lineRuns (n / 128 + 2) x (List.replicate n 0), w.s.dmPoison w.t.core w.t.asid p.1 p.2.length ((a.acq && a.wide) || a.pol != 0) = false) → exec (.accld f) s = .next ((((r.2.flag (el.foldl (fun z i => Flags.join z i.2.2) 0)).setTile k (base.setElems (fun i => match el[i]? with | some z => (z.1, z.2.1) | none => (0, 0)))).holdUntil due.1).retire f)) ∧
    (Executes .accmax f s v →
      let a := f.args .accmax
      let w := ready .accmax f v
      let e := lanes .accmax f v
      let k := w.tileOf a.a
      let x := w.firstTile k
      let es := (List.range 4096).map x.elem
      x.poison = false → x.misSum = none → exec (.accmax f) s = .next (((w.logTile k).put a.d a.ty e (fun _ => BitVec.ofNat 64 (
        if a.ty = 6 then Nat.min (es.foldl (fun m z => Nat.max m z.1.natAbs) 0) (2 ^ 63 - 1)
        else if es.any (fun z => z.2 == 3) then 0x7FC00000
        else if es.any (fun z => z.2 == 1) || es.any (fun z => z.2 == 2) then 0x7F800000
        else (cvtF 10 2 false (Ex.ofScaled (es.foldl (fun m z => Nat.max m z.1.natAbs) 0 : Nat) x.anchor)).1))).retire f)) ∧
    (Executes .accanc f s v →
      let a := f.args .accanc
      let w := ready .accanc f v
      let k := w.tileOf a.d
      let b := sval 32 (w.rdU a.a 4)
      let el := (List.range 4096).map (fun i => (reanchor ((w.tile k).elem i).1 (w.tile k).anchor b, ((w.tile k).elem i).2))
      (w.tile k).poison = false → (w.tile k).misSum = none → exec (.accanc f) s = .next (((w.flag (el.foldl (fun z i => Flags.join z i.1.2) 0)).setTile k { (w.tile k).setElems (fun i => match el[i]? with | some z => (z.1.1, z.2) | none => (0, 0)) with anchor := b }).retire f)) ∧
    (Executes .tri f s v →
      let a := f.args .tri
      let w := ready .tri f v
      let e := lanes .tri f v
      exec (.tri f) s = .next ((w.nearStore 2 (w.accAddr { a with spc := 2 } e) ((List.range 4096).flatMap (fun i =>
        toBytesLE (tyBytes a.ty) (if triHolds a.sub (i / 64) (i % 64) then oneOf a.ty else 0)))).retire f)) ∧
    (Executes .xcut f s v →
      let a := f.args .xcut
      let w := ready .xcut f v
      let e := lanes .xcut f v
      let ty := if w.native then 5 else a.ty
      let src := (List.range 32).map (fun l => tab32 (fun k => w.rd (a.a.shift l) ty k))
      exec (.xcut f) s = .next (((if w.native then List.range 32 else lanesOf e).foldl (fun u k =>
        u.putLanes (a.d.shift k) ty (if e.getLsbD k then e else 0) (fun l => laneOf (src.getD l []) k)) w).retire f)) ∧
    (Executes .asstSt f s v →
      let a := f.args .asstSt
      let w := ready .asstSt f v
      let e := lanes .asstSt f v
      let x := w.firstTile (w.tileOf a.a)
      x.poison = false → exec (.asstSt f) s = .next (((w.logTile (w.tileOf a.a)).put a.d 7 e (fun _ => BitVec.ofNat 64 (x.grp + x.rows * 2 ^ 32 + x.mis * 2 ^ 48))).retire f)) ∧
    (Executes .asstTol f s v →
      let a := f.args .asstTol
      let w := ready .asstTol f v
      exec (.asstTol f) s = .next ((w.setTol (w.tileOf a.d) (BitVec.ofNat 32 ((w.rdU a.a 10).toNat % 2 ^ 31))).retire f)) ∧
    (Executes .asstClr f s v →
      let a := f.args .asstClr
      let w := ready .asstClr f v
      exec (.asstClr f) s = .next ((w.setTile (w.tileOf a.d) { w.tile (w.tileOf a.d) with grp := 0, rows := 0, mis := 0 }).retire f))

/-- accst converts each element, checks its rows and stores them. (R124, R247, R248, R255, R458)
Model's own choices and readings used in it: [16, DEDUCED]. -/
def Obligations.TileExportResult : Prop :=
  ∀ (f : Form) (s : State) (v : View),
    (Executes .accst f s v →
      let a := f.args .accst
      let w := ready .accst f v
      let e := lanes .accst f v
      
      let k := w.tileOf a.b
      let x := w.accAddr a e
      let wd := accWidth a.ty
      let n := 64 * accRows a * wd
      let named := a.c != .none
      let flt := tyIsFmt a.ty
      let q := (w.rdU a.c 7).toNat
      let fmt := w.sp.fmt
      let tile := w.firstTile k
      let scales := (List.range 64).map (fun j => if named then some (w.t.scratch.readLE (q + 4 * j) 4) else none)
      let el := (List.range (64 * accRows a)).map (fun i =>
        let m := tile.elem i
        let sc := scales.getD (i % 64) none
        let r := accstElem a.ty (effRm fmt a.rm) (fmtSat fmt) (fmtFtz fmt) tile.anchor sc m.1 m.2
        (m.1, m.2, sc, r.1, r.2))
      let u := ((w.logTile k).flag (el.foldl (fun z i => Flags.join z i.2.2.2.2) 0)).release (a.rel && a.wide)
      (∀ y ∈ blocksOf x n, w.parkOf a.spc y true = none) → tile.poison = false → tile.misSum = none → (named = true → w.nearPoison 2 q 256 = false) →
      (flt = true → ∀ i < accRows a, rowPasses a.ty (fmtFtz fmt) tile.tol tile.anchor ((el.drop (64 * i)).take 64) = true) → exec (.accst f) s = .next ((((lineRuns (n / 128 + 2) x (el.flatMap (fun z => toBytesLE wd z.2.2.2.1))).foldl (fun u p => u.store a.spc a.pol (a.rel && a.wide) p.1 p.2)
        (if flt then u.setTile k { w.tile k with rows := Nat.min ((w.tile k).rows + accRows a) 65535 } else u)).holdUntil
        ((blockLines x n).foldl (fun t y => Nat.max t (w.farTime a.spc y)) 0)).retire f))

/-- The eleven job instructions issue the job that they describe. (R206, R207, R208, R209, R210, R211, R212, R213, R215, R216, R218, R219)
Model's own choices and readings used in it: [19, DEDUCED]. -/
def Obligations.HaulJobIssueResults : Prop :=
  ∀ (f : Form) (s : State) (v : View),
    (Executes .hcopy f s v →
      let a := f.args .hcopy
      let w := ready .hcopy f v
      w.t.haulsUsed < w.t.hauls → exec (.hcopy f) s = .next (issued w f (newJob w f .copy (w.sideA a) (w.sideB a) (w.count64 a.c) (token a) a.scp (w.notifyOf a) false))) ∧
    (Executes .hcopyCk f s v →
      let a := f.args .hcopyCk
      let w := ready .hcopyCk f v
      w.t.haulsUsed < w.t.hauls → exec (.hcopyCk f) s = .next (issued w f (newJob w f .copyCk (w.sideA a) (w.sideB a) (w.count64 a.c) (token a) a.scp (w.notifyOf a) false))) ∧
    (Executes .htens f s v →
      let a := f.args .htens
      let w := ready .htens f v
      let ws := w.mapWords a
      let m := TMap.ofWords ws
      w.t.haulsUsed < w.t.hauls → w.listHeld (w.rdU a.a 7).toNat 128 = none → exec (.htens f) s = .next (issued w f (newJob w f (.tens ws false (w.originOf a m.dims)) (.va w.t.asid m.base) (w.sideB a) (if ws.isEmpty then 0 else productOf (m.wins.take m.dims)) (token a) a.scp (w.notifyOf a) ws.isEmpty (w.mapTaint a) []))) ∧
    (Executes .htensSt f s v →
      let a := f.args .htensSt
      let w := ready .htensSt f v
      let ws := w.mapWords a
      let m := TMap.ofWords ws
      w.t.haulsUsed < w.t.hauls → w.listHeld (w.rdU a.a 7).toNat 128 = none → exec (.htensSt f) s = .next (issued w f (newJob w f (.tens ws true (w.originOf a m.dims)) (.va w.t.asid m.base) (w.sideB a) (if ws.isEmpty then 0 else productOf (m.wins.take m.dims)) (token a) a.scp (w.notifyOf a) ws.isEmpty (w.mapTaint a) []))) ∧
    (Executes .hgath f s v →
      let a := f.args .hgath
      let w := ready .hgath f v
      let lst := w.s.listAt w.t.asid (w.rdU a.c 7).toNat (4 * w.haulK a)
      let ws := w.mapWords a
      let m := TMap.ofWords ws
      let ix := (List.range (w.haulK a)).map (fun i => ofBytesLE (((lst.getD []).drop (4 * i)).take 4))
      w.t.haulsUsed < w.t.hauls → w.listHeld (w.rdU a.a 7).toNat 128 = none → w.listHeld (w.rdU a.c 7).toNat (4 * w.haulK a) = none →
        exec (.hgath f) s = .next (issued w f (newJob w f (.rows ws false ix) (.va w.t.asid m.base) (w.sideB a) (if ws.isEmpty then 0 else m.wins.getD 0 0 * w.haulK a) (token a) a.scp (w.notifyOf a) (ws.isEmpty || lst.isNone) (w.mapTaint a) (w.listTaint (w.rdU a.c 7).toNat (w.haulK a) 4)))) ∧
    (Executes .hscat f s v →
      let a := f.args .hscat
      let w := ready .hscat f v
      let lst := w.s.listAt w.t.asid (w.rdU a.c 7).toNat (4 * w.haulK a)
      let ws := w.mapWords a
      let m := TMap.ofWords ws
      let ix := (List.range (w.haulK a)).map (fun i => ofBytesLE (((lst.getD []).drop (4 * i)).take 4))
      w.t.haulsUsed < w.t.hauls → w.listHeld (w.rdU a.a 7).toNat 128 = none → w.listHeld (w.rdU a.c 7).toNat (4 * w.haulK a) = none →
        exec (.hscat f) s = .next (issued w f (newJob w f (.rows ws true ix) (.va w.t.asid m.base) (w.sideB a) (if ws.isEmpty then 0 else m.wins.getD 0 0 * w.haulK a) (token a) a.scp (w.notifyOf a) (ws.isEmpty || lst.isNone) (w.mapTaint a) (w.listTaint (w.rdU a.c 7).toNat (w.haulK a) 4)))) ∧
    (Executes .hred f s v →
      let a := f.args .hred
      let w := ready .hred f v
      w.t.haulsUsed < w.t.hauls → exec (.hred f) s = .next (issued w f (newJob w f .red (w.sideA a) (w.sideB a) (w.count64 a.c) (token a) a.scp (w.notifyOf a) false))) ∧
    (Executes .hmcast f s v →
      let a := f.args .hmcast
      let w := ready .hmcast f v
      w.t.haulsUsed < w.t.hauls → w.listHeld (w.rdU a.b 7).toNat (8 * w.haulK a) = none →
        let ts := w.targets a
        exec (.hmcast f) s = .next (issued w f (newJob w f (.mcast (if ts.isEmpty then List.replicate (w.haulK a) 0 else ts)) (w.sideA a) (w.sideA a) (w.count64 a.c) (token a) a.scp
          (w.notifyOf a) ts.isEmpty false (w.listTaint (w.rdU a.b 7).toNat ts.length 8)))) ∧
    (Executes .hfill f s v →
      let a := f.args .hfill
      let w := ready .hfill f v
      w.t.haulsUsed < w.t.hauls → exec (.hfill f) s = .next (issued w f (newJob w f (.fill (w.rdU a.b 7)) (w.sideA a) (w.sideA a) (w.count64 a.c) (token a) a.scp (w.notifyOf a) false))) ∧
    (Executes .ckpack f s v →
      let a := f.args .ckpack
      let w := ready .ckpack f v
      w.t.haulsUsed < w.t.hauls → exec (.ckpack f) s = .next (issued w f (newJob w f (.pack a.ty (ckRaw a) (w.count64 a.d) (w.rdU a.c 7)) (.va w.t.asid (w.rdU a.a 7).toNat) (.va w.t.asid (w.rdU a.b 7).toNat) (w.count64 a.d) (token a) a.scp none false))) ∧
    (Executes .ckpackUnpk f s v →
      let a := f.args .ckpackUnpk
      let w := ready .ckpackUnpk f v
      w.t.haulsUsed < w.t.hauls → exec (.ckpackUnpk f) s = .next (issued w f (newJob w f (.unpack a.ty (ckRaw a) (w.count64 a.d) (w.rdU a.c 7)) (.va w.t.asid (w.rdU a.b 7).toNat) (.va w.t.asid (w.rdU a.a 7).toNat) (w.count64 a.d) (token a) a.scp none false)))

/-- hwait, htest, ckver and ckinfo read tokens and chunks as R217, R220 and R221 say. (R89, R90, R217, R220, R221)
Model's own choices and readings used in it: [36, DEDUCED]. -/
def Obligations.HaulTokenAndCheckResults : Prop :=
  ∀ (f : Form) (s : State) (v : View),
    (Executes .hwait f s v →
      let a := f.args .hwait
      let w := ready .hwait f v
      w.sp.latched.isSome = true ∨ w.g.complete (haulMask a) = haulMask a → exec (.hwait f) s = .next ((w.acquire a.wide).retire f)) ∧
    (Executes .hwait f s v →
      let a := f.args .hwait
      let w := ready .hwait f v
      w.sp.latched = none → w.g.complete (haulMask a) ≠ haulMask a →
      exec (.hwait f) s = .next (({ w with sp := { w.sp with sig := v.sp.sig, tilePos := v.sp.tilePos } } : View).close.parkGang v.t.rid (v.enter .hwait f).gang v.k (.haul (haulMask a)))) ∧
    (Executes .htest f s v →
      let a := f.args .htest
      let w := ready .htest f v
      exec (.htest f) s = .next (((w.acquire a.wide).putUni a.d 5 (BitVec.ofNat 64 (w.g.complete (haulMask a)))).retire f)) ∧
    (Executes .ckver f s v →
      let a := f.args .ckver
      let w := ready .ckver f v
      
      let x := (w.rdU a.a 7).toNat
      let n := w.count32 a.b
      (∀ y ∈ blocksOf x (4096 * n), w.parkOf 3 y false = none) → w.t.haulsUsed < w.t.hauls → exec (.ckver f) s = .next (({ w with t := { w.t with haulsUsed := w.t.haulsUsed + 1, idempotent := false }, sp := { w.sp with wait := .ckver a.d (w.locsOf a.d 32) x n (w.rdU a.c 7), waitStart := w.s.ptp, stalled := false } } : View).retire f)) ∧
    (Executes .ckinfo f s v →
      let a := f.args .ckinfo
      let w := ready .ckinfo f v
      
      let x := (w.rdU a.a 7).toNat
      let r := w.close.homeRead w.t.core w.t.asid x 128
      w.parkOf 3 x false = none → w.s.dmPoison w.t.core w.t.asid (x + ckFieldAt a.sub) 8 true = false → 
      let due := ((w.s.homeOf w.t.asid x).map (fun h => w.s.now + w.s.homeLatency w.t.core h.1 h.2)).getD 0
      exec (.ckinfo f) s = .next (((({ w.onState (fun _ => r.2) with due := due }.putUni a.d 7 (ckField a.sub r.1)).holdUntil due)).retire f))

/-- Results in flight land, and sleeping, watching and held contexts wake. (R60, R87, R188, R189, R204, R205, R220, R261, R290, R293, R313)
Model's own choices and readings used in it: [34, DEDUCED]. -/
def Obligations.ResultsLandAndContextsWake : Prop :=
  ∀ s : State,
    (∀ (rid gang split n : Nat) (t : Team) (g : Gang) (sp : Split), s.team? rid = some t → t.gangs[gang]? = some g → g.splits[split]? = some sp →
      t.onCore = true → s.selected t gang split = false → (∀ x ∈ sp.flight, n ≤ x.remain) → (∃ x ∈ sp.flight, x.remain = n) → 0 < n →
      let rest := sp.flight.map (fun (x : Flight) => { x with remain := x.remain - n })
      let g1 : Gang := (rest.filter (fun x => x.remain == 0)).foldl (fun (y : Gang) x => y.setLoc t.core.kind split x.loc x.lanes x.value)
        { g with splits := g.splits.set split { sp with flight := rest.filter (fun x => x.remain != 0) } }
      exec (.exposedResultLand rid gang split) s = .next (s.updTeam rid (fun u => u.updGang gang (fun g => g.landNext t.core.kind split))) ∧
      exec (.tailingLand rid gang split) s = .next (s.updTeam rid (fun u => u.updGang gang (fun g => g.landNext t.core.kind split))) ∧
      g.landNext t.core.kind split = g1) ∧
    (∀ (g : Gang) (kind : CoreKind) (k loc : Nat) (lanes : Mask) (x : Lanes),
      (loc ≠ 208 → (g.setLoc kind k loc lanes x).nregs = g.nregs.put kind loc lanes x ∧ (g.setLoc kind k loc lanes x).splits = g.splits) ∧
      g.setLoc kind k 208 lanes x = g.updSplit k (fun sp => { sp with lr := (laneOf x 0).truncate 32 })) ∧
    (∀ (rid gang split : Nat) (t : Team), s.team? rid = some t →
      exec (.loadResultArrive rid gang split) s = .next (s.updTeam rid (fun u => u.updGang gang (fun g => g.landLoads t.core.kind split)))) ∧
    (∀ (rid gang split : Nat) (t : Team) (sp : Split), s.team? rid = some t → s.split? rid gang split = some sp → ∀ time, sp.wait = .asleep time → time ≤ s.ptp →
      exec (.nsleepWake rid gang split) s = .next (s.updSplit rid gang split (fun q => { q with wait := .ready, stamp := s.now }))) ∧
    (∀ (rid gang split : Nat) (t : Team) (sp : Split), s.team? rid = some t → s.split? rid gang split = some sp → ∀ (spc a ty k : Nat) (x : Word), sp.wait = .word spc a ty k x → s.waitHolds t spc a ty k x = true →
      exec (.waitaWake rid gang split) s = .next (s.updSplit rid gang split (fun q => { q with wait := .ready, stamp := s.now }))) ∧
    (∀ (rid gang split : Nat) (t : Team) (sp : Split), s.team? rid = some t → s.split? rid gang split = some sp → ∀ (d : Operand) (locs : List Nat) (a : Nat) (code : List Word), sp.wait = .codeload d locs a code →
      let e := s.regionEntry t code
      let s0 := s.readKey e.key
      let s1 := s0.obtain e
      (s1.asking e.key = true → exec (.codeloadDone rid gang split) s = .next s1) ∧
      (s1.asking e.key = false → (s0.team? rid).map (fun (x : Team) => x.status) = some t.status → exec (.codeloadDone rid gang split) s = .next (s1.updTeam rid (fun u =>
        ({ u with regions := u.regions ++ [{ serial := u.nextRegion, key := e.key, base := a, code := code }], nextRegion := u.nextRegion + 1 } : Team).updGang gang
          (fun g => (g.putLate u.core.kind split d locs 5 sp.mask true true (fun _ => 0)).updSplit split (fun q => q.wake s.now)))))) ∧
    (∀ (rid gang split : Nat) (t : Team) (sp : Split), s.team? rid = some t → s.split? rid gang split = some sp → ∀ (d : Operand) (locs : List Nat) (a n : Nat) (id : Word), sp.wait = .ckver d locs a n id →
      let s1 := s.dropRange t.core t.asid a (4096 * n)
      exec (.ckverDone rid gang split) s = .next (s1.updTeam rid (fun u =>
        let u1 := u.updGang gang (fun g => (g.putLate u.core.kind split d locs 5 sp.mask true true (fun _ => BitVec.ofNat 64 (s1.ckverCount t.asid a n id))).updSplit split (fun q => q.wake s.now))
        ({ u1 with haulsUsed := u1.haulsUsed - 1 }).wakeIf s.now (fun w => match w with | .full => true | _ => false)))) ∧
    (∀ (unit : Nat) (q : FaceReq), s.pickFace unit = some q → exec (.faceUnitOperation unit) s = .next (s.facePerform q)) ∧
    (∀ (core : CoreId) (asid line : Nat), (s.coreOf core).l1.any (fun l => l.is asid line) = true → exec (.l1Eviction core asid line) s = .next (s.dropLine core asid line))

/-- Page moves, their timeout and memory errors happen as R80, R81, R464, R465 and R471 say. (R80, R81, R464, R465, R471)
Model's own choices and readings used in it: [4, DESIGN CHOICE], [5, DESIGN CHOICE], [22, DESIGN CHOICE], [51, DESIGN CHOICE], [54, DEDUCED], [71, DEDUCED], [76, DESIGN CHOICE]. -/
def Obligations.PagesMoveAndErrorsPoison : Prop :=
  ∀ s : State,
    (∀ (asid vbase stack f pkg die frame : Nat) (p : Page), s.pages.find? (samePage asid vbase) = some p → p.place = .die pkg die frame → s.freeHbm pkg stack p.size = some f →
      stack < 12 → s.stackReady pkg stack = true → p.pinned = false → p.parked = none → s.pageBusy p = false →
      exec (.pageMoveToHbm asid vbase stack) s = .next (s.movePage p (.hbm pkg stack f))) ∧
    (∀ (asid vbase pkg stack frame t0 : Nat) (p : Page) (dest : Place), s.pages.find? (samePage asid vbase) = some p → p.place = .hbm pkg stack frame → p.parked = some t0 →
      s.placeDie pkg p.size = some dest → s.pkgAnswers pkg = true →
      exec (.pageMigrationComplete asid vbase) s = .next ((s.movePage p dest).wakePage asid vbase)) ∧
    (∀ (asid vbase pkg stack frame t0 : Nat) (p : Page), s.pages.find? (samePage asid vbase) = some p → p.place = .hbm pkg stack frame → p.parked = some t0 →
      t0 + 10000000 ≤ s.ptp → s.placeDie pkg p.size = none → s.pkgAnswers pkg = true →
      let u := s.failPage p 197
      exec (.migrationTimeout asid vbase) s = .next ({ u with pages := updFirst (samePage asid vbase) (fun (q : Page) => { q with parked := none }) u.pages })) ∧
    (∀ (site : EccSite), siteSilent site = false → exec (.eccError site true) s = .next (s.logLimited (0x1000000 + s.siteUnit site) 1000000000 (s.siteRecord site 262))) ∧
    (∀ (site : EccSite), siteSilent site = true → exec (.eccError site true) s = .next s) ∧
    (∀ (site : EccSite), (∀ (rid gang reg granule : Nat) (t : Team), site = .regs rid gang reg granule → s.team? rid = some t → t.source = none) →
      exec (.eccError site false) s = .next (s.poisonSite site)) ∧
    (∀ (rid gang reg granule : Nat) (t : Team) (x : MoveSource), s.team? rid = some t → t.source = some x →
      exec (.eccError (.regs rid gang reg granule) false) s = .next (s.transferFault t x)) ∧
    (∀ (rid gang reg granule : Nat) (t : Team) (g : Gang), s.team? rid = some t → t.gangs[gang]? = some g →
      s.poisonSite (.regs rid gang reg granule) = s.updTeam rid (fun u => u.updGang gang (fun (y : Gang) =>
        { y with regPoison := Tab.set 0#32 y.regPoison reg (Tab.get 0#32 y.regPoison reg ||| u.granuleLanes reg granule) })))

/-- Teams retire, expire, overrun, stop and are asked to move as R52, R339, R363, R364, R391, R437, R479 and R482 say. (R52, R339, R363, R364, R391, R423, R437, R479, R482)
Model's own choices and readings used in it: [23, DEDUCED], [28, DEDUCED], [84, DEDUCED]. -/
def Obligations.TeamsEndStopAndExpire : Prop :=
  ∀ s : State,
    (∀ (rid : Nat) (t : Team), s.team? rid = some t → s.retirable t = true → exec (.teamRetire rid) s = .next (s.retireTeam t)) ∧
    (∀ (rid gang : Nat) (t : Team) (g : Gang) (h : Handler), s.team? rid = some t → t.gangs[gang]? = some g → g.handler = some h → s.maskExpired g = true →
      exec (.maskWatchdogExpiry rid gang) s = .next (s.terminate rid 960 0 gang ((g.splits[h.split]?.map t.rjvpc).getD 0))) ∧
    (∀ (rid gang split : Nat) (t : Team) (sp : Split), s.team? rid = some t → s.split? rid gang split = some sp → ∀ a, s.waitExpired t gang split sp = some a →
      exec (.waitWatchdogExpiry rid gang split) s = .next (s.terminateAt rid 962 0 gang (t.rjvpc sp) a)) ∧
    (∀ (rid : Nat) (t : Team), s.team? rid = some t → s.overBudget t = true → 7 ≤ t.overruns → exec (.budgetOverrun rid) s = .next (s.terminate rid 963 0 0 (2 ^ 64 - 1))) ∧
    (∀ (rid : Nat) (t : Team), s.team? rid = some t → s.overBudget t = true → t.overruns < 7 → t.stoppable = true →
      let u := ((s.log { cause := 963, task := t.task, team := t.index }).suspendNative t).updTeam rid (fun (u : Team) => { u with overruns := u.overruns + 1, budgetUsed := 0 })
      exec (.budgetOverrun rid) s = .next (State.switchIn { u with hub := { u.hub with overran := u.hub.overran ++ [(t.task, t.index)] } } t.core)) ∧
    (∀ (rid : Nat) (t : Team) (brks : List (Nat × Nat × Nat)) (host : Bool), s.team? rid = some t → t.status = .stopping brks host → s.atCommit t = true →
      let u := ((s.updTeam rid (fun (u : Team) => { u with gangs := u.gangs.map Gang.rollbackAll })).saveTeam rid .stopped true).freeCore t.core
      let b := brks.foldl (fun (z : State) x => z.event 1 x.1 x.2.1 t.task t.index (mkWord x.2.2) 0) u
      (host = false → exec (.virtualPreciseStop rid) s = .next b) ∧
      (host = true → exec (.virtualPreciseStop rid) s = .next (b.event 4 0 0 t.task t.index 0 0))) ∧
    (∀ (rid : Nat) (t : Team), s.team? rid = some t → t.status = .resident → t.moveReq = none → t.moving = false → t.kern.kinds.contains (CoreKind.other t.core.kind) = true →
      exec (.dispatcherMoveRequest rid) s = .next (s.updTeam rid (fun (u : Team) => { u with moveReq := some s.dclocks }))) ∧
    (∀ (rid t0 : Nat) (t : Team), s.team? rid = some t → t.moveReq = some t0 → t0 + 120000000 ≤ s.dclocks → exec (.dispatcherMoveLapse rid) s = .next (s.dropMoveReq rid))

/-- Dispatchers place, resume, preload and suspend teams as R355 to R366, R440 and R480 say. (R355, R356, R357, R359, R360, R361, R362, R363, R366, R440, R480)
Model's own choices and readings used in it: [22, DESIGN CHOICE], [48, DESIGN CHOICE], [49, DEDUCED], [64, DEDUCED]. -/
def Obligations.TeamsArePlacedAndResumed : Prop :=
  ∀ s : State,
    (∀ (die i : Nat) (k : Task) (core : CoreId) (u : State), s.nextPick die = some (.start k i core) → s.startTeam k i core false = some u → exec (.teamPlace die) s = .next (u)) ∧
    (∀ (rid die : Nat) (core : CoreId), s.nextPick die = some (.resume rid core) → (∀ d < die, ∀ p, s.nextPick d = some p → ∀ r x, p = .resume r x → r ≠ rid) → die < 4 →
      exec (.teamResume rid) s = .next (s.resumeFull rid core)) ∧
    (∀ (core : CoreId) (p : Preload) (k : Task), (s.coreOf core).preload = none → s.nextFor core = some p →
      s.hub.tasks.find? (fun (k : Task) => k.id == p.task) = some k →
      let s1 := s.readHeld k core.kind
      s1.hub.tasks.any (fun (k : Task) => k.id == p.task && !k.ended) = true →
      (s.preloadBad p = false → exec (.preload core) s = .next (s1.setCore { s1.coreOf core with preload := some p })) ∧
      (s.preloadBad p = true → exec (.preload core) s = .next s1)) ∧
    (∀ (core : CoreId) (p : Preload) (rid : Nat) (k : Task) (t : Team), (s.coreOf core).preload = some p → p.rid = some rid →
      s.hub.tasks.find? (fun (k : Task) => k.id == p.task && !k.ended) = some k → s.team? rid = some t → t.waits = true →
      (s.resumeKinds t).contains core.kind = true → s.fits core t.kern = true → (k.coop = false ∨ s.coopFits k = true) →
      let u := (s.setCore { s.coreOf core with preload := none }).resumeBrought rid core true p.bank.isSome
      exec (.preloadSwitch core) s = .next (match p.bank with
        | some b => u.updTeam rid (fun (u : Team) => { u with bank := b, scratchAt := 0 })
        | none => u)) ∧
    (∀ (core : CoreId) (p : Preload) (k : Task) (u : State), (s.coreOf core).preload = some p → p.rid = none →
      s.hub.tasks.find? (fun (k : Task) => k.id == p.task && !k.ended) = some k → s.fits core k.kern = true →
      s.spillFits (CoreId.die core) (s.spillNeed k core.kind) = true → k.started.contains p.index = false →
      (s.setCore { s.coreOf core with preload := none }).startTeam k p.index core true = some u → exec (.preloadSwitch core) s = .next u) ∧
    (∀ (core : CoreId), (s.coreOf core).preload.isSome = true → exec (.preloadDropped core) s = .next (s.setCore { s.coreOf core with preload := none })) ∧
    (∀ (rid : Nat) (t : Team) (k : Task × Bool) (c : CoreId) (l : List Nat), s.team? rid = some t → t.status ≠ .suspending → s.deadlineStuck = some k →
      s.victims k = some (c, l) → rid ∈ l → s.victimsReady l = true →
      let u := l.foldl (fun (u : State) r => match u.team? r with
        | some x => if x.status = .resident then u.suspendNative x else u
        | none => u) s
      exec (.nativeSuspend rid) s = .next (u.freeCore c)) ∧
    (∀ c : CoreId, s.hub.freed.contains c = false → s.freeCore c = { s with hub := { s.hub with freed := s.hub.freed ++ [c] } }) ∧
    (∀ (rid : Nat) (t : Team), s.team? rid = some t → t.status = .suspending → t.masked = false → exec (.nativeSuspend rid) s = .next (s.finishSuspend t)) ∧
    (∀ (rid : Nat) (t : Team), s.team? rid = some t → t.masked = true → t.rebuild = false →
      ∃ u : Team, (s.suspendOne rid).team? rid = some u ∧ u.status = .suspending ∧ u.masked = true)

/-- Haul agents, hops and reductions move chunks, and a finished job completes. (R21, R78, R90, R208, R216, R376, R378, R392, R394, R467)
Model's own choices and readings used in it: [21, DESIGN CHOICE], [29, DESIGN CHOICE], [61, DEDUCED]. -/
def Obligations.EnginesMoveChunks : Prop :=
  ∀ s : State,
    (∀ (die agent : Nat) (j : Job), die < 4 → agent < 16 → s.tagFree die = true → s.pickJob die = some j → exec (.haulChunk die agent) s = .next (s.takeChunk j die agent)) ∧
    (∀ (flight got : Nat) (t : Transit) (j : Job), transit? s flight = some t → job? s t.job = some j → t.read = some got →
      exec (.chunkHop flight) s = .next (s.sendChunk j t got)) ∧
    (∀ (flight : Nat) (t : Transit) (j : Job) (h : Hop) (rest : List Hop), transit? s flight = some t → job? s t.job = some j → t.read = none → t.path = h :: rest →
      ((h.via = none ∨ ∃ l, h.via = some l ∧ (s.hub.links.getD l Link.down).ready = true) →
        (s.bufferFree h = true → exec (.chunkHop flight) s = .next (s.chunkHop j t h rest)) ∧
        (s.bufferFree h = false → exec (.chunkHop flight) s = .next s)) ∧
      (∀ l, h.via = some l → (s.hub.links.getD l Link.down).ready = false →
        (s.haulRoute (s.farSide j t h) 0 = none → s.farSide j t h ≠ s.hub.config.package → exec (.chunkHop flight) s = .next { s with
          transits := updFirst (fun (q : Transit) => q.id == t.id) (fun (q : Transit) => { q with path := s.turnPath j t h }) s.transits }) ∧
        (∀ p, s.haulRoute (s.farSide j t h) 0 = some (.park p) → exec (.chunkHop flight) s = .next s))) ∧
    (∀ (flight : Nat) (t : Transit) (j : Job), transit? s flight = some t → job? s t.job = some j → t.read = none → t.path = [] →
      (∀ map store origin, j.kind = .tens map store origin → exec (.chunkHop flight) s = .next (s.landTens j t map store origin none)) ∧
      (∀ map store index, j.kind = .rows map store index → exec (.chunkHop flight) s = .next (s.landTens j t map store [] (some index))) ∧
      (j.kind ≠ .red → (∀ map store origin, j.kind ≠ .tens map store origin) → (∀ map store index, j.kind ≠ .rows map store index) →
        exec (.chunkHop flight) s = .next (s.landTransit j t))) ∧
    (∀ (flight : Nat) (t : Transit), transit? s flight = some t → job? s t.job = none → exec (.chunkHop flight) s = .next (s.dropTransit flight)) ∧
    (∀ (flight : Nat) (t : Transit) (j : Job), transit? s flight = some t → job? s t.job = some j → t.read = none → t.path = [] → j.kind = .red →
      (j.deadline = true ∨ s.deadlineAt (s.sideUnit (t.dst j)) = false) → exec (.chunkReduction flight) s = .next (s.reduce j t)) ∧
    (∀ (id : Nat) (j : Job), job? s id = some j → j.done = j.chunks → exec (.haulJobComplete id) s = .next (s.completeJob j)) ∧
    (∀ (rid : Nat) (t : Team), s.team? rid = some t → t.rebuild = false → (t.moving = true ∨ t.heldWrites ≠ []) →
      let u := s.updTeam t.rid (fun u => { u.heldWrites.foldl Team.scratchLand u with moving := false, rebuild := false, heldWrites := [] })
      exec (.heldWriteRelease rid) s = .next (((t.heldWrites.filterMap (fun w => w.part)).eraseDups).foldl (fun (u : State) x => match job? u x.1 with
        | some j => u.chunkEnd j x.2
        | none => u) u)) ∧
    (∀ (id : Nat) (j : Job), job? s id = some j → j.taken < j.chunks → j.kind = .copy → s.sidePlace j.next.1 = none →
      exec (.pcieCompletionTimeout id j.taken) s = .next (((s.updJob id (fun q => { q with taken := q.taken + 1 })).degrade j 332 0 j.next.1.addr j.taken).chunkDone j)) ∧
    (∀ (id chunk : Nat) (j : Job) (t : Transit), job? s id = some j → j.taken ≠ chunk → j.kind = .copy →
      s.transits.find? (fun x => x.job == id && x.chunk == chunk && x.read.isSome) = some t → s.sidePlace (j.chunkAt (t.index j)).1 = none →
      exec (.pcieCompletionTimeout id chunk) s = .next (((s.dropTransit t.id).degrade j 332 0 (j.chunkAt (t.index j)).1.addr chunk).chunkDone j))

/-- The packet that issues next has its effect (R342, R345 to R350, R352 to R354, R478, R513). (R342, R345, R346, R347, R348, R349, R350, R352, R354, R478, R513)
Model's own choices and readings used in it: [14, DESIGN CHOICE], [24, DEDUCED], [38, DEDUCED], [56, DEDUCED]. -/
def Obligations.PacketsAreProcessed : Prop :=
  ∀ s : State,
    (∀ (q : Queue) (credit : Nat) (ws : List Word), s.hub.serving = true → s.nextQueue = some (q, credit) → q.headWords = some ws → pType ws = 0 →
      exec (.noopPacket q.num) s = .next ((s.visited q credit).consumeHead q.num)) ∧
    (∀ (q : Queue) (credit : Nat) (ws : List Word), s.hub.serving = true → s.nextQueue = some (q, credit) → q.headWords = some ws → pType ws = 2 →
      exec (.callPacket q.num) s = .next ((s.visited q credit).consumeHead q.num)) ∧
    (∀ (q : Queue) (credit : Nat) (ws : List Word), s.hub.serving = true → s.nextQueue = some (q, credit) → q.headWords = some ws → pType ws = 3 →
      exec (.joinPacket q.num) s = .next ((s.visited q credit).consumeHead q.num)) ∧
    (∀ (q : Queue) (credit : Nat) (ws : List Word), s.hub.serving = true → s.nextQueue = some (q, credit) → q.headWords = some ws → pType ws = 4 →
      let u := ((s.visited q credit).writeBackEverywhere q.asid).cpWrite q.num q.asid (field (ws.getD 1 0) 0 56) (toBytesLE 8 (ws.getD 2 0).toNat)
        ((ws.getD 0 0).getLsbD 10) true
      exec (.signalPacket q.num) s = .next (u.consumeHead q.num)) ∧
    (∀ (q : Queue) (credit : Nat) (ws : List Word), s.hub.serving = true → s.nextQueue = some (q, credit) → q.headWords = some ws → pType ws = 1 →
      ∀ (x : Ahead) (k : Kernel), q.ahead.head? = some x → (s.visited q credit).kernel? q.asid (launchHandle ws) = some k →
      exec (.taskAdmit q.num) s = .next ((s.visited q credit).admitTask q x k ws)) ∧
    (∀ (n : Nat) (q : Queue) (x : Ahead) (ws : List Word), s.queue? n = some q → q.ahead.head? = some x → q.headWords = some ws → s.hub.serving = true →
      q.halted = none → q.haltReason = none → pType ws = 1 →
      (s.argsStale q x ws = true → s.rereads q x ws = true → exec (.launchPacket n) s = .next (s.reread q x ws)) ∧
      (∀ r, s.argsStale q x ws = false → (q.staged = false ∨ s.kernel? q.asid (launchHandle ws) = none) → s.refusal q x ws = some r →
        exec (.launchPacket n) s = .next (s.refuseLaunch q ws r)) ∧
      (s.argsStale q x ws = false → q.staged = false → s.refusal q x ws = none →
        exec (.launchPacket n) s = .next (s.updQueue n (fun (q : Queue) => { q with staged := true })))) ∧
    (∀ (n r a : Nat) (q : Queue), s.queue? n = some q → q.haltReason = some (r, a) → s.hub.serving = true → q.halted = none →
      exec (.unassignedPacket n) s = .next ((s.updQueue n (fun (q : Queue) => { q with halted := some r })).log { cause := 0, reason := r, addr := a }))

/-- The lode is filled by Tiarlo or by a peer, and hot kernels are translated again. (R329, R331, R332, R335, R476, R477)
Model's own choices and readings used in it: [3, DESIGN CHOICE], [5, DESIGN CHOICE], [70, DESIGN CHOICE]. -/
def Obligations.LodeServesAndTranslates : Prop :=
  ∀ s : State,
    (∀ (handle : Nat) (kind : CoreKind) (k : Kernel) (dbg : Bool),
      s.waiting.find? (fun x => x.1.handle == handle && x.1.kinds.contains kind && !s.lodeHas x.1 kind x.2 && !s.asking (s.newEntry x.1 kind x.2).key) = some (k, dbg) →
      s.hub.ready.getLsbD 2 = true →
      let e := s.newEntry k kind dbg
      let held := s.hub.lode.any (fun (x : LodeEntry) => x.key == e.key)
      (∀ a, held = false → s.hub.asks.find? (fun (a : PeerAsk) => a.want.key == e.key) = some a → a.late = true →
        exec (.tiarloTranslate handle kind) s = .next ((s.dropAsk e.key).lodeAdd e).nextFree) ∧
      (held = false → s.hub.asks.find? (fun (a : PeerAsk) => a.want.key == e.key) = none → s.hub.config.packages ≤ 1 →
        exec (.tiarloTranslate handle kind) s = .next (s.lodeAdd e).nextFree) ∧
      (held = false → s.hub.asks.find? (fun (a : PeerAsk) => a.want.key == e.key) = none → 1 < s.hub.config.packages →
        exec (.tiarloTranslate handle kind) s = .next { s with hub := { s.hub with asks := s.hub.asks ++ [{ want := e, since := s.ptp, late := false }] } })) ∧
    (∀ (package : Nat) (key : BitVec 256), package < s.hub.config.packages → package ≠ s.hub.config.package → s.hub.ready.getLsbD 2 = true →
      exec (.lodePeerQuery package key) s = .next (match s.hub.lode.find? (fun (e : LodeEntry) => e.key == key) with | some e => s.readEntry e | none => s)) ∧
    (∀ (package : Nat) (key : BitVec 256) (a : PeerAsk), package < s.hub.config.packages → package ≠ s.hub.config.package →
      s.hub.asks.find? (fun (a : PeerAsk) => a.want.key == key && !a.late) = some a →
      exec (.lodePeerReply package key true) s = .next ((s.dropAsk key).lodeAdd a.want)) ∧
    (∀ (package : Nat) (key : BitVec 256), exec (.lodePeerReply package key false) s = .next s) ∧
    (∀ (key : BitVec 256) (a : PeerAsk), s.hub.asks.find? (fun (a : PeerAsk) => a.want.key == key && !a.late) = some a → a.since + 50000 ≤ s.ptp →
      exec (.lodePeerTimeout key) s = .next { s with hub := { s.hub with
        asks := s.hub.asks.map (fun (b : PeerAsk) => if b.want.key = key then { b with late := true } else b) } }) ∧
    (∀ (key : BitVec 256) (e : LodeEntry) (k : Kernel) (kind : CoreKind) (dbg : Bool),
      s.hub.lode.find? (fun (e : LodeEntry) => e.key == key && (s.hot e).isSome) = some e → s.hot e = some (k, kind, dbg) → s.hub.ready.getLsbD 2 = true →
      exec (.reoptimise key) s = .next ((s.lodeAdd (s.newEntry k kind dbg)).nextFree))

/-- Host accesses to the doorbells, the device-memory window and the management registers. (R342, R385, R386, R387, R391, R514, R524, R526)
Model's own choices and readings used in it: [20, DEDUCED], [44, DEDUCED], [45, DEDUCED], [47, DEDUCED]. -/
def Obligations.HostPortResults : Prop :=
  ∀ s : State,
    -- doorbells: a write is taken up, held until cmd serves, or kept in order behind accesses that wait; the value of one taken up is kept
    (∀ (offset : Nat) (value : BitVec 32),
      (s.hub.hostOps = [] → s.hub.serving = true → exec (.doorbell offset value) s = .next (s.ring offset value)) ∧
      (s.hub.hostOps = [] → s.hub.serving = false →
        exec (.doorbell offset value) s = .next { s with hub := { s.hub with heldBells := s.hub.heldBells ++ [(offset, value)] } }) ∧
      (s.hub.hostOps ≠ [] → exec (.doorbell offset value) s = .next { s with hub := { s.hub with hostOps := s.hub.hostOps ++ [.bell offset value] } }) ∧
      (∀ q : Queue, s.queue? (offset / 64) = some q → q.device = false → offset % 64 = 0 →
        let u : State := { s with hub := { s.hub with doorbells := Tab.set 0 s.hub.doorbells q.num value } }
        ((value - q.rd).toNat ≤ q.size → s.ring offset value = u.updQueue q.num (fun q => { q with wr := value })) ∧
        (q.size < (value - q.rd).toNat → q.halted = none →
          s.ring offset value = (u.updQueue q.num (fun q => { q with halted := some 22 })).log { cause := 0, reason := 22, addr := value.toNat }) ∧
        (q.size < (value - q.rd).toNat → q.halted ≠ none → s.ring offset value = u)) ∧
      (∀ q : Queue, s.queue? (offset / 64) = some q → (q.device = true ∨ offset % 64 ≠ 0) → s.ring offset value = s.hostRecord 21 offset) ∧
      (s.queue? (offset / 64) = none → s.ring offset value = s.hostRecord 21 offset)) ∧
    -- the window: a read
    (∀ (offset n : Nat), s.hub.hostOps ≠ [] → exec (.bar2Read offset n) s = .next { s with hub := { s.hub with hostOps := s.hub.hostOps ++ [.read offset n] } }) ∧
    (∀ (offset n asid va : Nat) (u : State), s.hub.hostOps = [] → s.hub.window offset = some (asid, va) → s.hostReach offset n false false = (.ok, u) →
      exec (.bar2Read offset n) s = .next { u with hub := { u.hub with hostRead := u.vaBytes asid va n } }) ∧
    (∀ (offset n : Nat) (u : State), s.hub.hostOps = [] → s.hostReach offset n false false = (.bad, u) →
      exec (.bar2Read offset n) s = .next { s.hostRecord 20 offset with hub := { (s.hostRecord 20 offset).hub with hostRead := List.replicate n 0xFF } }) ∧
    (∀ (offset n : Nat) (u : State), s.hub.hostOps = [] → s.hostReach offset n false false = (.wait, u) →
      exec (.bar2Read offset n) s = .next { u with hub := { u.hub with hostOps := [.read offset n], hostSince := s.ptp } }) ∧
    -- and a write
    (∀ (offset : Nat) (bytes : List Byte), s.hub.hostOps ≠ [] →
      exec (.bar2Write offset bytes) s = .next { s with hub := { s.hub with hostOps := s.hub.hostOps ++ [.write offset bytes] } }) ∧
    (∀ (offset asid va : Nat) (bytes : List Byte) (u : State), s.hub.hostOps = [] → s.hub.window offset = some (asid, va) →
      s.hostReach offset bytes.length true false = (.ok, u) → exec (.bar2Write offset bytes) s = .next (u.putVa asid va bytes)) ∧
    (∀ (offset : Nat) (bytes : List Byte) (u : State), s.hub.hostOps = [] → s.hostReach offset bytes.length true false = (.bad, u) →
      exec (.bar2Write offset bytes) s = .next (s.hostRecord 20 offset)) ∧
    (∀ (offset : Nat) (bytes : List Byte) (u : State), s.hub.hostOps = [] → s.hostReach offset bytes.length true false = (.wait, u) →
      exec (.bar2Write offset bytes) s = .next { u with hub := { u.hub with hostOps := [.write offset bytes], hostSince := s.ptp } }) ∧
    -- the management registers
    (exec (.ptpsec) s = .next { s with hub := { s.hub with ptpLatch := mkWord (s.ptp % 1000000000), hostRead := toBytesLE 8 (s.ptp / 1000000000 % 2 ^ 48) } }) ∧
    (∀ (value : Word),
      let u : State := State.flushEvents 64 { s with hub := { s.hub with evHead := value.toNat % 64, evUnread := s.hub.evUnread - (value.toNat % 64 + 64 - s.hub.evHead) % 64 } }
      exec (.evhead value) s = .next u ∧ exec (.bar4RegisterWrite 0x50 value) s = .next u) ∧
    (∀ (value : Word), s.hub.config.testMode = false →
      exec (.injctl value) s = .next (s.hostRecord 20 0x400) ∧ exec (.bar4RegisterWrite 0x400 value) s = .next (s.hostRecord 20 0x400) ∧
      exec (.bar4RegisterWrite 0x408 value) s = .next (s.hostRecord 20 0x408) ∧ exec (.bar4RegisterWrite 0x410 value) s = .next (s.hostRecord 20 0x410)) ∧
    (∀ (value : Word), s.hub.config.testMode = true →
      let kept : Word := value &&& 0x000007FFFFFF1F01
      let u : State := { s with hub := { s.hub with
        injCtl := if s.hub.injCtl.getLsbD 1 && !value.getLsbD 1 then kept ||| 2 else kept
        injCount := if value.getLsbD 0 && !s.hub.injCtl.getLsbD 0 then 0 else s.hub.injCount } }
      exec (.injctl value) s = .next u ∧ exec (.bar4RegisterWrite 0x400 value) s = .next u ∧
      exec (.bar4RegisterWrite 0x408 value) s = .next { s with hub := { s.hub with injKey := value } } ∧
      exec (.bar4RegisterWrite 0x410 value) s = .next { s with hub := { s.hub with injXor := value } }) ∧
    (∀ (value : Word),
      (value.getLsbD 0 = true → s.hub.cmdGo = false → exec (.bar4RegisterWrite 0x40 value) s = .next { s with hub := { s.hub with cmdGo := true, cmdSince := s.now } }) ∧
      (value.getLsbD 0 = false ∨ s.hub.cmdGo = true → exec (.bar4RegisterWrite 0x40 value) s = .next s)) ∧
    (∀ (value : Word), exec (.bar4RegisterWrite 0x60 value) s = .next { s with hub := { s.hub with evVec := value.toNat % 2048 } }) ∧
    (∀ (i : Nat) (value : Word), i < 16 →
      exec (.bar4RegisterWrite (0x100 + 8 * i) value) s = .next { s with hub := { s.hub with win := s.hub.win.set i (value &&& 0x00FFFFFFC0000FFF) } }) ∧
    (∀ (i : Nat) (value : Word), i < 8 →
      (s.hub.cmdGo = false → exec (.bar4RegisterWrite (0x1000 + 8 * i) value) s = .next { s with hub := { s.hub with cmd := s.hub.cmd.set i value } }) ∧
      (s.hub.cmdGo = true → exec (.bar4RegisterWrite (0x1000 + 8 * i) value) s = .next (s.hostRecord 20 (0x1000 + 8 * i)))) ∧
    (∀ offset : Nat, offset ∈ [0x0, 0x8, 0x10, 0x18, 0x20, 0x48, 0x58] ∨ (0x2000 ≤ offset ∧ offset < 0x2800 ∧ offset % 8 = 0) →
      ∀ value : Word, exec (.bar4RegisterWrite offset value) s = .next (s.hostRecord 20 offset)) ∧
    (∀ (offset : Nat) (value : Word), offset ∉ [0x0, 0x8, 0x10, 0x18, 0x20, 0x40, 0x48, 0x50, 0x58, 0x60, 0x400, 0x408, 0x410] →
      (offset % 8 ≠ 0 ∨ ¬(0x100 ≤ offset ∧ offset < 0x180) ∧ ¬(0x1000 ≤ offset ∧ offset < 0x1040) ∧ ¬(0x2000 ≤ offset ∧ offset < 0x2800)) →
      exec (.bar4RegisterWrite offset value) s = .next s)

/-- Management commands complete as R388 to R390, R396, R403, R509 to R512, R515, R516 and R518 say. (R388, R389, R390, R396, R403, R509, R510, R511, R512, R515, R516, R518)
Model's own choices and readings used in it: [8, DESIGN CHOICE], [23, DEDUCED], [25, DESIGN CHOICE], [40, DEDUCED], [41, DEDUCED], [42, DEDUCED], [43, DEDUCED], [46, DEDUCED], [55, DEDUCED], [91, DESIGN CHOICE]. -/
def Obligations.ManagementCommandResults : Prop :=
  ∀ s : State,
    -- every command: not running, nothing happens; an operand word against its conditions gives status 2 and the first such word
    (∀ x ∈ commandTable s,
      (s.cmdRuns x.2.1 = false → exec x.1 s = .next s) ∧
      (∀ i, s.cmdRuns x.2.1 = true → offending (s.zeroAbove 0 8 :: x.2.2) = some i → exec x.1 s = .next (s.cmdDone 2 i))) ∧
    (s.hub.cmdGo = true → s.hub.serving = true → s.cmdField 0 0 8 ∉ [0x01, 0x02, 0x10, 0x11, 0x20, 0x21, 0x30, 0x31, 0x40, 0x50, 0x70] →
      exec .unassignedCommand s = .next (s.cmdDone 1 0)) ∧
    -- QCREATE and QDESTROY
    (Accepted s 0x01 s.qcreateWords →
      (s.queue? (s.cmdField 1 0 12) = none → exec .qcreate s = .next (({ s with hub := { s.hub with queues := s.hub.queues ++ [s.newQueue] } } : State).cmdDone 0 0)) ∧
      ((s.queue? (s.cmdField 1 0 12)).isSome = true → exec .qcreate s = .next (s.cmdDone 3 0))) ∧
    (Accepted s 0x02 (s.zeroAbove 1 12 :: s.zeroFrom 2) →
      let n := s.cmdField 1 0 12
      (s.queue? n = none → exec .qdestroy s = .next (s.cmdDone 3 0)) ∧
      (∀ q : Queue, s.queue? n = some q → q.halted = none → (q.pending ≠ 0 ∨ q.ahead ≠ [] ∨ q.look ≠ []) → exec .qdestroy s = .next (s.cmdDone 3 0)) ∧
      (∀ q : Queue, s.queue? n = some q → (∃ k ∈ s.hub.tasks, k.queue = n) → exec .qdestroy s = .next (s.cmdDone 3 0)) ∧
      (∀ q : Queue, s.queue? n = some q → (q.halted.isSome = true ∨ q.pending = 0 ∧ q.ahead = [] ∧ q.look = []) → (∀ k ∈ s.hub.tasks, k.queue ≠ n) →
        exec .qdestroy s = .next (({ s with hub := { s.hub with
          queues := s.hub.queues.filter (fun (x : Queue) => x.num != n), posted := s.hub.posted.filter (fun (p : Posted) => p.queue != n) } } : State).cmdDone 0 0))) ∧
    -- MAP, its wait, and UNMAP
    (Accepted s 0x10 s.mapWords →
      let m := s.mapCmd
      let taken := s.pages.any (meetsPage m.asid m.base (m.count * m.size))
      (taken = true → exec .mapPages s = .next (s.cmdDone 3 0)) ∧
      (taken = false → (s.mapBlocked m).isSome = true → exec .mapPages s = .next s) ∧
      (∀ u, taken = false → s.mapBlocked m = none → State.mapPagesFrom m m.count 0 s = (u, 0) → exec .mapPages s = .next (u.cmdDone 0 0)) ∧
      (∀ u n, taken = false → s.mapBlocked m = none → State.mapPagesFrom m m.count 0 s = (u, n) → n ≠ 0 → exec .mapPages s = .next (s.cmdDone 11 n))) ∧
    (∀ bit, s.cmdRuns 0x10 = true → s.mapBlocked s.mapCmd = some bit → Nat.max s.hub.cmdSince (s.hub.cmdAt.getD 0) + 10000000000 ≤ s.now →
      exec .mapWaitTimeout s = .next (s.cmdDone 5 bit)) ∧
    (Accepted s 0x11 s.unmapWords →
      let asid := s.cmdField 1 0 12
      let lo := (s.cmdWord 2).toNat
      let n := 65536 * (s.cmdWord 3).toNat
      let hit := s.pages.filter (meetsPage asid lo n)
      let u := hit.foldl (fun s (p : Page) => s.failPage p 196) s
      ((∃ p ∈ hit, ¬(lo ≤ p.vbase ∧ p.vbase + p.size ≤ lo + n)) → exec .unmap s = .next (s.cmdDone 3 0)) ∧
      ((∀ p ∈ hit, lo ≤ p.vbase ∧ p.vbase + p.size ≤ lo + n) → (∃ p ∈ hit, s.pageBusy p = true) → exec .unmap s = .next s) ∧
      ((∀ p ∈ hit, lo ≤ p.vbase ∧ p.vbase + p.size ≤ lo + n ∧ s.pageBusy p = false) →
        exec .unmap s = .next (({ u with
          pages := u.pages.filter (fun p => !meetsPage asid lo n p)
          mem := hit.foldl (fun (m : Memory) p => match p.place with | .host _ => m | _ => m.clearRange p.place.flat p.size) u.mem } : State).cmdDone 0 hit.length))) ∧
    -- COLOAD and COUNLOAD
    (Accepted s 0x20 s.coloadWords →
      let asid := s.cmdField 1 0 12
      let region := (s.cmdWord 4).toNat
      let img := s.vaBytes asid (s.cmdWord 2).toNat (s.cmdWord 3).toNat
      let ss := sectionsOf img
      let lay := layout ss region
      let whole := s.mapped asid region (layoutEnd ss region - region) true
      (∀ i, objectBad img = some i → exec .coload s = .next (s.cmdDone 9 i)) ∧
      (objectBad img = none → whole = false → exec .coload s = .next (s.cmdDone 2 4)) ∧
      (objectBad img = none → whole = true →
        let out := relocate img ss lay
        let loaded := loadedAt ss lay
        let jv := ((loaded.find? (fun x => x.1.type == 1)).map (fun x => x.2)).getD 0
        let descs := (ss.filter (fun x => x.type == 6)).flatMap (fun x => piecesOf (x.bytes out) 64)
        let o : Object :=
          { handle := s.hub.nextObject, asid := asid
            kernels := (descs.zip (List.range descs.length)).map (fun x => kernelOf out ss jv asid s.hub.nextObject x.2 x.1 (s.hostDecls.getD x.2 []))
            ranges := (loaded.filter (fun x => x.1.type != 5)).map (fun x => (x.2, x.1.len)) }
        let u := loaded.foldl (fun (s : State) x => s.putVa asid x.2 (x.1.bytes out)) s
        exec .coload s = .next (({ u with
          hostDecls := u.hostDecls.drop descs.length
          hub := { u.hub with objects := u.hub.objects ++ [o], nextObject := s.hub.nextObject + 1 } } : State).cmdDone 0 (s.hub.nextObject * 2 ^ 32)))) ∧
    (Accepted s 0x21 ((1, s.cmdField 1 0 32 == 0) :: s.zeroFrom 2) →
      let h := s.cmdField 1 32 32
      ((∀ o ∈ s.hub.objects, o.handle ≠ h) ∨ (∃ k ∈ s.hub.tasks, k.kern.handle / 2 ^ 32 = h) → exec .counload s = .next (s.cmdDone 3 0)) ∧
      ((∃ o ∈ s.hub.objects, o.handle = h) → (∀ k ∈ s.hub.tasks, k.kern.handle / 2 ^ 32 ≠ h) →
        exec .counload s = .next (({ s with hub := { s.hub with objects := s.hub.objects.filter (fun (o : Object) => o.handle != h) } } : State).cmdDone 0 0))) ∧
    -- TRESUME and TSTOP
    (Accepted s 0x30 (s.zeroAbove 1 32 :: s.zeroFrom 3) →
      (s.taskTeam = none → exec .tresume s = .next (s.cmdDone 3 0)) ∧
      (∀ t : Team, s.taskTeam = some t → t.status ≠ .stopped → exec .tresume s = .next (s.cmdDone 3 0)) ∧
      (∀ t : Team, s.taskTeam = some t → t.status = .stopped →
        exec .tresume s = .next ((s.updTeam t.rid (fun (u : Team) => { u with status := .suspended u.atEquivalence })).cmdDone 0 0))) ∧
    (Accepted s 0x31 (s.zeroAbove 1 32 :: s.zeroFrom 3) →
      (s.taskTeam = none → exec .tstop s = .next (s.cmdDone 3 0)) ∧
      (∀ t : Team, s.taskTeam = some t → (t.status = .resident ∨ t.status = .suspending) →
        exec .tstop s = .next (((s.dropMove t).updTeam t.rid (fun (u : Team) => { u with status := .stopping [] true })).cmdDone 0 0)) ∧
      (∀ (t : Team) (l : List (Nat × Nat × Nat)), s.taskTeam = some t → t.status = .stopping l false →
        exec .tstop s = .next ((s.updTeam t.rid (fun (u : Team) => { u with status := .stopping l true })).cmdDone 0 0)) ∧
      (∀ (t : Team) (b : Bool), s.taskTeam = some t → t.status = .suspended b →
        exec .tstop s = .next (((s.updTeam t.rid (fun (u : Team) => { u with status := .stopped })).event 4 0 0 t.task t.index 0 0).cmdDone 0 0)) ∧
      (∀ t : Team, s.taskTeam = some t → t.status ≠ .resident → t.status ≠ .suspending → (∀ b, t.status ≠ .suspended b) → (∀ l, t.status ≠ .stopping l false) →
        exec .tstop s = .next (s.cmdDone 3 0))) ∧
    -- RESYNC
    (Accepted s 0x40 s.resyncWords →
      let b := s.summaryBody
      let len := 64 + 8 * b.1.length
      let head := bytesOfWords (s.summaryHeader len b.2.1 b.2.2.1 b.2.2.2.1 b.2.2.2.2)
      let u := s.putVa (s.cmdField 1 0 12) (s.cmdWord 2).toNat (head ++ bytesOfWords b.1)
      ((s.cmdWord 3).toNat < len → exec .resync s = .next ((s.putVa (s.cmdField 1 0 12) (s.cmdWord 2).toNat head).cmdDone 10 len)) ∧
      (len ≤ (s.cmdWord 3).toNat →
        exec .resync s = .next ((if s.cmdField 1 12 1 = 1 then { u with hub := { u.hub with faultLog := [] } } else u).cmdDone 0 len))) ∧
    -- FWUPDATE
    (Accepted s 0x50 s.fwupdateWords →
      let img := s.vaBytes (s.cmdField 1 0 12) (s.cmdWord 2).toNat (s.cmdWord 3).toNat
      let u := (s.setComplex false { s.complex false with stver := le img 12 4, svn := le img 8 4 }).setComplex true
        { s.complex true with up := false, stver := le img 12 4, svn := le img 8 4 }
      (s.hub.updating = true → exec .fwupdate s = .next (s.cmdDone 7 0)) ∧
      (s.hub.updating = false → s.hub.ready.getLsbD 3 = false → exec .fwupdate s = .next (s.cmdDone 5 3)) ∧
      (s.hub.updating = false → s.hub.ready.getLsbD 3 = true → imageOk img 1 = false → exec .fwupdate s = .next ((s.log { cause := 897 }).cmdDone 6 0)) ∧
      (s.hub.updating = false → s.hub.ready.getLsbD 3 = true → imageOk img 1 = true → Config.acceptsStateTable (le img 12 4) (s.complex true).stver = false →
        exec .fwupdate s = .next (((s.log { cause := 898 }).setReady 3 false).cmdDone 8 (s.complex true).stver)) ∧
      (s.hub.updating = false → s.hub.ready.getLsbD 3 = true → imageOk img 1 = true → Config.acceptsStateTable (le img 12 4) (s.complex true).stver = true →
        exec .fwupdate s = .next ((({ u with hub := { u.hub with role := !u.hub.role, updating := true } } : State).setReady 3 false).cmdDone 0 0))) ∧
    -- INGSET
    (Accepted s 0x70 s.ingsetWords →
      let g := s.newArea
      (s.cmdField 1 20 1 = 0 → exec .ingset s = .next ((s.dropArea g.area).cmdDone 0 0)) ∧
      (s.cmdField 1 20 1 = 1 → (s.dropArea g.area).bringRange g.asid g.base g.bytes = none → exec .ingset s = .next (s.cmdDone 11 1)) ∧
      (∀ u, s.cmdField 1 20 1 = 1 → (s.dropArea g.area).bringRange g.asid g.base g.bytes = some u →
        let p := u.pinRange g.asid g.base g.bytes true
        exec .ingset s = .next (({ p with hub := { p.hub with ingress := p.hub.ingress ++ [g] } } : State).cmdDone 0 0)))

/-- Frames, clock messages, links, peer recovery and power events. (R29, R394, R395, R396, R397, R398, R400, R484, R485)
Model's own choices and readings used in it: [26, DEDUCED], [52, DEDUCED]. -/
def Obligations.OutsideEventResults : Prop :=
  ∀ s : State,
    (∀ (port stamp : Nat) (frame : List Byte) (g : Ingress), port < 2 → frame.length ≤ 9216 → s.hub.ready.getLsbD (38 + port) = true →
      leastBy (fun (g : Ingress) => g.area) (s.hub.ingress.filter (fun (g : Ingress) => g.takes port frame)) = some g →
      exec (.frameReceive port stamp frame) s = .next (s.store g port stamp frame)) ∧
    (∀ (port stamp : Nat) (frame : List Byte), port < 2 → frame.length ≤ 9216 → s.hub.ready.getLsbD (38 + port) = true →
      (∀ g ∈ s.hub.ingress, g.takes port frame = false) → exec (.frameReceive port stamp frame) s = .next (s)) ∧
    (exec (.ptpMessage .hear) s = .next (s)) ∧
    (∀ (forward : Nat), s.hub.locked = false → s.hub.booted = true → s.hub.bootStatus = 0 →
      exec (.ptpMessage (.lock forward)) s = .next (({ s with ptp := s.ptp + forward, hub := { s.hub with locked := true } } : State).setReady 40 true)) ∧
    (∀ (ppm : Int), s.hub.locked = true → -500 ≤ ppm → ppm ≤ 500 → exec (.ptpMessage (.slew ppm)) s = .next ({ s with hub := { s.hub with slewPpm := ppm } })) ∧
    (∀ link pp pl : Nat, link < 18 → s.hub.config.expected[link]? = some (pp, pl) → s.hub.booted = true → s.hub.bootStatus = 0 →
      ∃ t, exec (.linkReady link pp pl) s = .next t ∧
        t.hub.links = s.hub.links.set link { ready := true, peerPkg := pp, peerLink := pl, chunkBuffers := 128, requestBuffers := 1024 } ∧
        t.hub.ready.getLsbD (20 + link) = true) ∧
    (∀ link : Nat, link < 18 → (s.hub.links.getD link Link.down).ready = true →
      ∃ t, exec (.linkDown link) s = .next t ∧ t.hub.links = s.hub.links.set link Link.down ∧ t.hub.ready.getLsbD (20 + link) = false) ∧
    (∀ (package since : Nat), Tab.get PeerState.normal s.hub.peers package = .silent since → since + 100000000 ≤ s.ptp → exec (.peerSilentTimeout package) s = .next (s.resetPeer package since)) ∧
    (∀ (package : Nat), package < s.hub.config.packages → package ≠ s.hub.config.package →
      exec (.recoveryNotice package) s = .next ({ s with hub := { s.hub with peers := Tab.set PeerState.normal s.hub.peers package (.recovering s.ptp) } })) ∧
    (∀ (package since : Nat), Tab.get PeerState.normal s.hub.peers package = .recovering since →
      exec (.doneNotice package true) s = .next (({ s with hub := { s.hub with peers := Tab.set PeerState.normal s.hub.peers package .normal } } : State).releasePeer package since)) ∧
    (∀ (package since : Nat), Tab.get PeerState.normal s.hub.peers package = .recovering since → exec (.doneNotice package false) s = .next (s.resetPeer package since)) ∧
    (∀ (package since : Nat), Tab.get PeerState.normal s.hub.peers package = .recovering since → since + 60000000000 ≤ s.ptp → exec (.doneNoticeTimeout package) s = .next (s.resetPeer package since)) ∧
    (∀ (milliwatts : Nat), 2800000 < milliwatts → 650 ≤ s.hub.dclock → exec (.powerClockDown milliwatts) s = .next ({ s with hub := { s.hub with dclock := s.hub.dclock - 50, dcount := s.dclocks, clockAt := s.now } })) ∧
    (∀ (milliwatts : Nat), milliwatts < 2700000 → s.hub.dclock + 50 ≤ 1200 → exec (.powerClockUp milliwatts) s = .next ({ s with hub := { s.hub with dclock := s.hub.dclock + 50, dcount := s.dclocks, clockAt := s.now } }))

/-- Package reset, readiness, deadlines and failover. (R399, R400, R403, R501, R503, R505, R506, R507, R508)
Model's own choices and readings used in it: [12, PRESUMED], [41, DEDUCED], [50, DESIGN CHOICE]. -/
def Obligations.BootReadinessAndFailover : Prop :=
  ∀ s : State,
    (exec (.packageReset) s = .next ({ State.reset with
        mem := s.mem.filter (fun c => decide (2 ^ 60 ≤ c.1)), hostWrites := s.hostWrites, peerJobs := s.peerJobs, peerActs := s.peerActs, peerInj := s.peerInj
        now := s.now, agenda := s.agenda, turn := s.turn, stepNs := s.stepNs, free := s.free, hostDecls := s.hostDecls
        hub := { Hub.initial with flash := s.hub.flash, config := s.hub.flash.record, booted := true, bootStatus := s.hub.flash.bootStatus
                                  resetAt := s.now, clockAt := s.now, dawn := Complex.starting s.hub.flash.image, dusk := Complex.starting s.hub.flash.image } })) ∧
    (s.startable 0 = true →
      let u := (s.setReady 0 true).setComplex true { (s.setReady 0 true).complex true with up := true }
      let r : State := { u with hub := { u.hub with fwAt := some s.now, cmdRes := 0 } }
      exec (.unitReady 0) s = .next (if r.hub.domReady then r.setReady 41 true else r)) ∧
    (s.startable 1 = true → exec (.unitReady 1) s = .next (({ s.setReady 1 true with hub := { (s.setReady 1 true).hub with cmdAt := some s.now } } : State).releaseBells)) ∧
    (s.startable 3 = true → s.hub.updating = false → exec (.unitReady 3) s = .next ((s.setReady 3 true).setComplex false { (s.setReady 3 true).complex false with up := true })) ∧
    (s.startable 3 = true → s.hub.updating = true →
      let k : Machine.Complex := { (s.setReady 3 true).complex false with up := true }
      let u := (s.setReady 3 true).setComplex false k
      exec (.unitReady 3) s = .next (({ u with hub := { u.hub with updating := false } } : State).event 3 0 0 0 0 0 (mkWord k.stver))) ∧
    (∀ (bit : Nat), s.startable bit = true → bit ∉ [0, 1, 3] → exec (.unitReady bit) s = .next (s.setReady bit true)) ∧
    (∀ (bit : Nat), s.lateBit bit = true →
      let u := s.log { cause := 0, reason := 23, addr := bit }
      exec (.readyDeadline bit) s = .next ({ u with hub := { u.hub with deadlinesLogged := bit :: u.hub.deadlinesLogged } })) ∧
    (s.hub.ready.getLsbD 0 = true → exec (.heartbeatLoss) s = .next (s.takeover)) ∧
    (s.hub.ready.getLsbD 3 = false → s.takeover = s.packageReset) ∧
    (s.hub.ready.getLsbD 0 = true → exec (.activeFailureReport) s = .next (s.takeover)) ∧
    ((s.complex false).failed = true → (s.complex false).dead = false → s.hub.ready.getLsbD 0 = true →
      exec (.standbyReboot) s = .next ((s.setComplex false { s.complex false with
        up := true, failed := false, rebootAt := some s.now, stver := (s.complex true).stver, svn := (s.complex true).svn }).setReady 3 true)) ∧
    ((s.complex false).up = true → exec (.standbyComplexFailure) s = .next ((s.setComplex false ((s.complex false).fail s.now)).setReady 3 false))

/-- Every well-formed JV instruction decodes from its encoding to itself. (R126, R127, R128, R129, R130, R131, R133, R134, R135) -/
def Obligations.JvFormsRoundTrip : Prop :=
  ∀ (o : Op) (f : JvForm) (rest : List Word), f.wf o = true →
    decodeJv (encodeJv o f ++ rest) = .ok o f (encodeJv o f).length

/-- Every well-formed native slot word decodes from its encoding to itself. (R278, R286, R287, R451) -/
def Obligations.SlotFormsRoundTrip : Prop :=
  ∀ (o : Op) (f : NatForm), f.wf o = true → decodeSlot f.kind f.slot (encodeSlot o f) = .ok (o, f)

/-- Every step keeps the memory in its canonical form. (R71, R73, R80)
Model's own choices and readings used in it: [2, DESIGN CHOICE]. -/
def Obligations.MemoryStaysCanonical : Prop :=
  ∀ s t : State, MemOk s → step s = .next t → MemOk t

/-- The memory after reset is in its canonical form. (R71, R399)
Model's own choices and readings used in it: [1, DESIGN CHOICE], [2, DESIGN CHOICE]. -/
def Obligations.MemoryIsCanonicalAtReset : Prop :=
  MemOk State.reset

/-- Bytes stored within a page read back, and no other byte changes. (R71, R80, R86)
Model's own choices and readings used in it: [2, DESIGN CHOICE]. -/
def Obligations.StoredBytesReadBack : Prop :=
  ∀ (s : State) (asid va : Nat) (bs : List Byte) (p : Page), MemOk s → s.page? asid va = some p → va + bs.length ≤ p.vbase + p.size →
    (s.putVa asid va bs).vaBytes asid va bs.length = bs ∧
    ∀ x, (x < p.flat va ∨ p.flat va + bs.length ≤ x) → (s.putVa asid va bs).mem.read x = s.mem.read x

/-- What package reset leaves: readiness 0, both complexes in ROM, nothing placed, mapped or queued. (R28, R386, R387, R391, R399, R400, R505)
Model's own choices and readings used in it: [1, DESIGN CHOICE]. -/
def Obligations.ResetLeavesWhatTheSpecGives : Prop :=
  let h := State.reset.hub
  h.ready = 0 ∧ h.dawn.up = false ∧ h.dusk.up = false ∧ State.reset.teams = [] ∧ State.reset.pages = [] ∧ State.reset.jobs = [] ∧
    h.queues = [] ∧ h.tasks = [] ∧ h.objects = [] ∧ h.cmdGo = false ∧ h.evUnread = 0 ∧ h.evHeld = [] ∧ (∀ w ∈ h.win, w = 0) ∧
    (∀ l ∈ h.links, l.ready = false) ∧ h.dclock = 1200 ∧ h.serving = false

/-- Words that the spec writes out, and native words formed from its encoding of them, decode to the instructions it gives for them. (R143, R286, R436) -/
def Obligations.SpecExampleWordsDecode : Prop :=
  decodeJv [0x1003C00FE0F05FE0] = .ok .trap { gneg := false, guard := .direct 0, ty := 15, d := .none, a := .lit 5, b := .none, c := .none, off := 0, pol := 0, spc := 0, ord := 0, scp := 0, rm := 0, sub := 0, hasMod := false } 1 ∧
    decodeJv [0x100BC7FFE0FE0FE0] = .ok .tret { gneg := false, guard := .always, ty := 15, d := .none, a := .none, b := .none, c := .none, off := 0, pol := 0, spc := 0, ord := 0, scp := 0, rm := 0, sub := 0, hasMod := false } 1 ∧
    decodeJv [0x0917C7FFE0FE0FE0] = .ok .join { gneg := false, guard := .always, ty := 15, d := .none, a := .none, b := .none, c := .none, off := 0, pol := 0, spc := 0, ord := 0, scp := 0, rm := 0, sub := 0, hasMod := false } 1 ∧
    decodeJv [0x0903E00FE0FF1FF1, 0x38, 0x40] = .ok .bra { gneg := false, guard := .direct 0, ty := 15, d := .none, a := .imm 1 0x38, b := .imm 1 0x40, c := .none, off := 0, pol := 0, spc := 0, ord := 0, scp := 0, rm := 0, sub := 0, hasMod := false } 3 ∧
    decodeJv [0x030D57F000003F00, 0xFE000001] = .ok .setp { gneg := false, guard := .always, ty := 5, d := .reg 0 false, a := .reg 3 false, b := .lit 0, c := .none, off := 0, pol := 0, spc := 0, ord := 0, scp := 0, rm := 0, sub := 1, hasMod := true } 2 ∧
    decodeSlot .dcore 1 0x1400140820140000 = .ok (.fadd, { kind := .dcore, slot := 1, g := 0, gn := false, d := 5, a := 1, b := 2, c := 0, x := 0x140000 }) ∧
    decodeSlot .dcore 1 0x1480182830140000 = .ok (.fmul, { kind := .dcore, slot := 1, g := 0, gn := false, d := 6, a := 5, b := 3, c := 0, x := 0x140000 }) ∧
    decodeSlot .dcore 0 0xFC80000000000007 = .ok (.cmt, { kind := .dcore, slot := 0, g := 0, gn := false, d := 0, a := 0, b := 0, c := 0, x := 7 }) ∧
    decodeSlot .dcore 1 0x04801408200A0000 = .ok (.mul, { kind := .dcore, slot := 1, g := 0, gn := false, d := 5, a := 1, b := 2, c := 0, x := 0xA0000 }) ∧
    decodeSlot .dcore 0 0xFD40084800000000 = .ok (.sigadv, { kind := .dcore, slot := 0, g := 0, gn := false, d := 2, a := 9, b := 0, c := 0, x := 0 }) ∧
    decodeSlot .dcore 0 0xFC000C00001FFFFF = .ok (.loop, { kind := .dcore, slot := 0, g := 0, gn := false, d := 3, a := 0, b := 0, c := 0, x := 0x1FFFFF }) ∧
    decodeSlot .dcore 2 0xFD0E50A0001E0000 = .ok (.movx, { kind := .dcore, slot := 2, g := 3, gn := true, d := 20, a := 20, b := 0, c := 0, x := 0x1E0000 })

/-- A step runs the instruction that is decoded where the selected context stands; what gangs that share a tile see of it meanwhile is the
model's own form [97, DESIGN CHOICE]. (R53, R126, R275, R277)
Model's own choices and readings used in it: [4, DESIGN CHOICE], [10, DESIGN CHOICE], [89, DEDUCED], [97, DESIGN CHOICE]. -/
def Obligations.StepRunsTheDecodedInstruction : Prop :=
  (∀ (s : State) (x : Ready × Bool) (t : Team) (g : Gang) (sp : Split) (ws : List Word) (o : Op) (f : JvForm) (n : Nat),
    let p := picked s x
    s.agenda = [] → s.due = none → s.turn % 2 = 0 → s.candidate = some x →
    p.team? x.1.rid = some t → t.gangs[x.1.gang]? = some g → g.splits[x.1.split]? = some sp →
    t.runsNative g = false → t.source = none → (t.moveReq = none ∨ g.handler.isSome = true) → sp.wait = .ready →
    p.holdOf t x.1.gang g x.1.split sp ≠ .short → t.fetchWords sp.region sp.pc = some ws → decodeJv ws = .ok o f n →
    let b := p.tickCore t.core x.1.seq 1 none
    -- an error that SIG took is found at one of the instructions behind it, a free value says which (R488)
    let ran : Host.Outcome State Fault Refusal :=
      if sp.sigOff = true ∧ Config.freeBit b.free = true then
        .next (({ b with free := b.free + 2 } : State).raiseJv t x.1.gang x.1.split sp { cause := 641, info := 0, addr := (Config.freeWord (b.free + 1)).toNat })
      else State.ordered o (.jv f) { (if sp.sigOff then { b with free := b.free + 1 } else b) with
        cur := some { rid := t.rid, gang := x.1.gang, split := x.1.split } }
    step s = match ran with
      | .next u => .next (State.finishMoves s (State.feedLode x.1 { s with turn := s.turn + 1 } (u.afterIssue x.1 false (State.issuedOf p u x.1 (some o))))).settleFreed.hostTurn.lookAhead.stampReady
      | .fault e => .fault e
      | .refused e => .refused e) ∧
  (∀ (s trial u : State) (t : Team) (gang k : Nat) (sp q : Split) (ws : List Word) (o : Op) (f : NatForm) (rest : List SlotOp),
    let c : Cur := { rid := t.rid, gang := gang, split := k }
    let s0 := s.updSplit t.rid gang k (fun y => { y with pc := sp.pc + bundleBytes t.core.kind })
    let st : Stage := { bundle := sp.pc, begun := false, next := 0, only := false, til := 0, record := none, lr := sp.lr, rrb := sp.rrb
                        regs := (((s.team? t.rid).bind (fun u => u.gangs[gang]?)).map (fun g => g.nregs)).getD NatRegs.empty }
    t.bundleAt sp.pc = some ws → decodeBundle t.core.kind ws = (0, .ok (o, f)) :: rest → (∀ y ∈ rest, ∃ h, y.2 = .ok (.nop, h)) →
    implicitCommit o ((Form.nat f).args o) = false → explicitCommit o = false → performsFirst o = false → s.split? t.rid gang k = some sp →
    sp.stage = none → sp.reissue = none →
    State.ordered o (.nat f) { s0 with cur := some c } = .next trial → trial.stopOf c = none →
    State.ordered o (.nat f) { s0.updSplit t.rid gang k (fun y => { y with stage := some st }) with cur := some c } = .next u →
    let seq := seqOf t.core.kind ((t.gangs[gang]?.map (fun g => g.slot)).getD 0)
    let w := (u.updSplit t.rid gang k (fun y => { y with sinceSel := y.sinceSel + 1, sinceCommit := y.sinceCommit + 1 })).tickCore t.core seq 1 none
    w.split? t.rid gang k = some q → q.beyond sp.sinceCommit = false →
    s.runBundle t gang k sp = w.updSplit t.rid gang k (fun y => { y with stage := none, latched := none })) ∧
  (∀ (s : State) (i : Instr) (r : List Instr), s.agenda = i :: r →
    step s = match exec i { s with agenda := r, cur := none } with
      | .next u => .next (State.finishMoves s u.settleEntries).settleFreed.hostTurn.lookAhead.stampReady
      | .fault e => .fault e
      | .refused e => .refused e) ∧
  -- the instruction is executed; where gangs share tiles, changes of elements come before it and are left behind it (R235)
  (∀ (o : Op) (f : Form) (s : State), State.ordered o f s = match exec (Instr.ofOp o f) (s.meetTiles o f) with
    | .next u => .next ((s.meetTiles o f).leaveTiles o f u)
    | .fault e => .fault e
    | .refused e => .refused e) ∧
  (∀ (o : Op) (f : Form) (s : State), (∀ v, View.open s = some v → v.t.tileLate = []) → s.meetTiles o f = s) ∧
  (∀ (o : Op) (f : Form) (s u : State),
    (tileOperand o (f.args o) = none ∨ ∀ v t, View.open s = some v → u.team? v.t.rid = some t → t.liveGangs ≤ 1) → s.leaveTiles o f u = u) ∧
  (∀ (o : Op) (f : Form) (s : State) (v : View) (t : Team), o ∈ [Op.bar, .barar, .mig, .exit] → View.open s = some v →
    (s.meetTiles o f).team? v.t.rid = some t → ∀ x ∈ t.tileLate, x.gang ≠ v.gang) ∧
  (∀ (ga gb : List (List Group)) (late : Nat → Bool) (t u : Tile) (i : Nat),
    let l := contributions ga gb i
    let r := leaveElem .mma ga gb late t.anchor t u i
    let now := l.foldl (fun (z : Int × Nat × Flags) x => addAt t.anchor z x.1 x.2.1 x.2.2) ((t.elem i).1, (t.elem i).2, 0)
    (r.later.foldl (fun (z : Int × Nat) c => match c with
      | .add g q k => let y := addAt t.anchor (z.1, z.2, 0) g q (k, 0); (y.1, y.2.1)
      | .put m k => (m, k)
      | .anchor _ _ => z) r.elem) = (now.1, now.2.1))

/-- An encoded instruction always answers a next state in an open context, and stops without one. (R2, R194, R424)
Model's own choices and readings used in it: [6, DESIGN CHOICE]. -/
def Obligations.EncodedInstructionsAlwaysAnswer : Prop :=
  ∀ (i : Instr) (o : Op) (f : Form) (s : State), i.parts = some (o, f) →
    (∀ v, View.open s = some v → ∃ t, exec i s = .next t) ∧ (View.open s = none → exec i s = .fault .noContext)

/-- With no executing lane an instruction does nothing but step SIG, the counts and the PC, where nothing judged whatever the lanes
holds: that a guard register that is no predicate is judged so is the model's reading [30, DEDUCED]. (R36, R154, R226, R447)
Model's own choices and readings used in it: [53, DEDUCED]. -/
def Obligations.EmptyLanesOnlyStep : Prop :=
  ∀ (o : Op) (f : Form) (s : State) (v : View), View.open s = some v → Form.problem o f = none → lanes o f v = 0 →
    Raise.first ((v.enter o f).idleConditions o f (ownChecks o f)) = none →
    exec (Instr.ofOp o f) s = .next ((ready o f v).retire f)

/-- A class 1 condition is raised whatever the guard and lanes, before every other condition. (R445, R447, R448, R449, R450, R451)
Model's own choices and readings used in it: [57, DEDUCED], [58, DEDUCED], [59, DEDUCED], [60, DEDUCED], [62, DEDUCED], [63, DEDUCED]. -/
def Obligations.IllFormedInstructionsRaise : Prop :=
  ∀ (o : Op) (f : Form) (s : State) (v : View) (p : Problem), View.open s = some v → Form.problem o f = some p →
    exec (Instr.ofOp o f) s = .next ((v.enter o f).fail f.slot { cause := p.cause, info := p.bit + p.word * 64, addr := 0 })

/-- With an executing lane the first condition in the order of R448 is raised, with no other effect. (R194, R447, R448, R452, R453, R455, R456)
Model's own choices and readings used in it: [39, DEDUCED]. -/
def Obligations.ConditionsAreRaisedInOrder : Prop :=
  (∀ (l : List Raise), l ≠ [] → ∃ x, Raise.first l = some x ∧ x ∈ l ∧ ∀ y ∈ l, causeRank x.cause ≤ causeRank y.cause) ∧
  ∀ (o : Op) (f : Form) (s : State) (v : View) (x : Raise), View.open s = some v → Form.problem o f = none → lanes o f v ≠ 0 →
    Raise.first ((v.enter o f).conditions o f (ownChecks o f)) = some x → exec (Instr.ofOp o f) s = .next ((v.enter o f).fail f.slot x)

/-- A result goes to the executing lanes of a lane register and nowhere else. (R36, R37, R154) -/
def Obligations.LaneResultsLandInExecutingLanes : Prop :=
  (∀ (v : View) (n ty l : Nat) (esc : Bool) (e : Mask) (f : Nat → Word), v.isLane (.reg n esc) = true → l < 32 →
    let w := v.put (.reg n esc) ty e f
    (e.getLsbD l = true → w.rd (.reg n esc) ty l = lowBits (tyWidth ty) (f l)) ∧
    (∀ x, v.jreg n = .lane x → e.getLsbD l = false → w.rd (.reg n esc) ty l = v.rd (.reg n esc) ty l) ∧
    (∀ m, m ≠ n → w.jreg m = v.jreg m)) ∧
  (∀ (v : View) (n ty : Nat) (esc : Bool) (e : Mask) (f : Nat → Word), Tab.wf (JvVal.uni 0) v.g.jregs = true → v.isLane (.reg n esc) = false →
    let w := v.put (.reg n esc) ty e f
    w.jreg n = .uni (lowBits (tyWidth ty) (f ((lanesOf e).headD 0))) ∧ ∀ m, m ≠ n → w.jreg m = v.jreg m) ∧
  (∀ (v : View) (n : Nat) (esc : Bool) (e m old : Mask), v.jreg n = .pred old →
    let w := v.putPred (.reg n esc) e m
    w.rdP (.reg n esc) = (old &&& ~~~e) ||| (m &&& e) ∧ ∀ k, k ≠ n → w.jreg k = v.jreg k)

/-- Register operations leave memory, caches, other teams and other registers as they were. (R36, R154, R158, R194, R290) -/
def Obligations.RegisterOperationsFrame : Prop :=
  ∀ o ∈ registerOps, ∀ (f : Form) (s t : State) (v : View), Executes o f s v → exec (Instr.ofOp o f) s = .next t →
    ∃ (g : Gang) (sp : Split), Around s v t g sp ∧
      (∀ m, (∀ e, (f.args o).d ≠ .reg m e) → Tab.get (JvVal.uni 0) g.jregs m = v.jreg m) ∧
      (∀ x ∈ sp.flight, x ∈ v.sp.flight ∨ x.loc = v.locOf (f.args o).d ∨ x.loc = v.locOf ((f.args o).d.shift 1)) ∧
      (∀ x ∈ sp.loads, x ∈ v.sp.loads ∨ x.loc = v.locOf (f.args o).d ∨ x.loc = v.locOf ((f.args o).d.shift 1)) ∧
      (o ∈ flaglessOps → g.flg = v.g.flg ∧ sp.held = v.sp.held)

/-- Loads, and stores to scratch and the spill area, leave the bytes they do not store as they were; a spill access that evicts lines
of the L1 writes back those lines' dirty bytes and no other. (R86, R191, R193, R194, R195, R304)
Model's own choices and readings used in it: [33, DEDUCED], [37, DESIGN CHOICE]. -/
def Obligations.LoadAndStoreFrames : Prop :=
  (∀ o ∈ [Op.ld, Op.ldu], ∀ (f : Form) (s t : State) (v : View), Executes o f s v → exec (Instr.ofOp o f) s = .next t →
    let a := f.args o
    a.spc ≠ 3 → (a.acq && a.wide) = false → (∀ l ∈ lanesOf (lanes o f v), (ready o f v).nearPoison a.spc ((ready o f v).addr a l) (tyBytes a.ty) = false) →
    let core := s.coreOf v.t.core
    (∃ u g, t.team? v.t.rid = some u ∧ u.gangs[v.gang]? = some g ∧ u.scratch = v.t.scratch ∧ g.spill = v.g.spill ∧ g.tspill = v.g.tspill) ∧
    ((a.spc = 2 ∨ ∀ l ∈ lanesOf (lanes o f v), core.l1.any (fun x => x.is (spillTag v.t.rid v.gang) ((ready o f v).addr a l / 128)) = true) →
      t.mem = s.mem ∧ t.cores = s.cores) ∧
    (∀ x, t.mem.read x ≠ s.mem.read x →
      ∃ y ∈ core.l1, ∃ b ∈ y.dirty, ∃ p, s.page? y.asid (y.vline * 128) = some p ∧ x = p.flat (y.vline * 128) + b)) ∧
  (∀ (f : Form) (s t : State) (v : View), Executes .st f s v → exec (.st f) s = .next t →
    let a := f.args .st
    let w := ready .st f v
    a.spc ≠ 3 → (a.rel && a.wide) = false →
    let core := s.coreOf v.t.core
    ((a.spc = 2 ∨ (w.native = true ∧ a.rel = false) ∨
        ∀ l ∈ lanesOf (lanes .st f v), core.l1.any (fun x => x.is (spillTag v.t.rid v.gang) (w.addr a l / 128)) = true) →
      t.mem = s.mem ∧ t.cores = s.cores) ∧
    (∀ x, t.mem.read x ≠ s.mem.read x →
      ∃ y ∈ core.l1, ∃ b ∈ y.dirty, ∃ p, s.page? y.asid (y.vline * 128) = some p ∧ x = p.flat (y.vline * 128) + b) ∧
    ∃ u g, t.team? v.t.rid = some u ∧ u.gangs[v.gang]? = some g ∧
      (∀ x, (a.spc = 2 → ∀ l ∈ lanesOf (lanes .st f v), x < w.addr a l ∨ w.addr a l + tyBytes a.ty ≤ x) → u.scratch.read x = v.t.scratch.read x) ∧
      (∀ x, (a.spc ≠ 2 → ∀ l ∈ lanesOf (lanes .st f v), x < w.addr a l ∨ w.addr a l + tyBytes a.ty ≤ x) → g.spill.read x = v.g.spill.read x) ∧
      (∀ x, (a.spc ≠ 2 → ∀ l ∈ lanesOf (lanes .st f v), x + 131072 < w.addr a l ∨ w.addr a l + tyBytes a.ty ≤ x + 131072) →
        g.tspill.read x = v.g.tspill.read x))

/-- A store performed at the L1 changes the stored bytes of its line, no other byte, and no memory. (R82, R85, R260)
Model's own choices and readings used in it: [37, DESIGN CHOICE]. -/
def Obligations.LineStoreFrame : Prop :=
  ∀ (s : State) (c : CoreId) (asid va : Nat) (bs : List Byte) (l : L1Line),
    (s.coreOf c).l1.find? (fun x => x.is asid (va / 128)) = some l → l.prefetched = false → l.data.length = 128 →
    va % 128 + bs.length ≤ 128 →
    let t := s.nearWrite c asid va bs
    t.mem = s.mem ∧ t.teams = s.teams ∧ (∀ d, d ≠ c → t.coreOf d = s.coreOf d) ∧
      (∀ a, (a < va ∨ va + bs.length ≤ a) → coreByte t c asid a = coreByte s c asid a) ∧
      (∀ i, (h : i < bs.length) → coreByte t c asid (va + i) = bs[i])

/-- A store performed at the home slice changes no byte outside its line, and stores its bytes. (R85, R260, R261)
Model's own choices and readings used in it: [37, DESIGN CHOICE]. -/
def Obligations.HomeStoreFrame : Prop :=
  ∀ (s : State) (c : CoreId) (asid va : Nat) (bs : List Byte) (p : Page), MemOk s → s.page? asid va = some p →
    s.page? asid (va / 128 * 128) = some p → p.vbase ≤ va / 128 * 128 → va / 128 * 128 + 128 ≤ p.vbase + p.size → va % 128 + bs.length ≤ 128 →
    (∀ l ∈ (s.coreOf c).l1, ∀ b ∈ l.dirty, b < 128) →
    let t := s.homeWrite c asid va bs
    (∀ i, (h : i < bs.length) → t.mem.read (p.flat va + i) = bs[i]) ∧
      (∀ x, (x < p.flat (va / 128 * 128) ∨ p.flat (va / 128 * 128) + 128 ≤ x) → t.mem.read x = s.mem.read x) ∧
      ((s.coreOf c).l1.find? (fun x => x.is asid (va / 128)) = none →
        ∀ x, (x < p.flat va ∨ p.flat va + bs.length ≤ x) → t.mem.read x = s.mem.read x)

/-- A divergence followed by its joins gives the split its lanes, FMT and stack back. (R42, R43, R44) -/
def Obligations.DivergenceIsUndoneByItsJoins : Prop :=
  ∀ (v : View) (n : Mask) (x fall region now : Nat) (next : Nat → Nat × Nat), v.g.handler = none → n &&& ~~~v.sp.mask = 0 →
    v.k < v.g.splits.length →
    let g := (v.diverge n x fall region).gangNow
    let free := (List.range 4).find? (fun j => j != v.k && !((v.g.splits.getD j Split.unused).used))
    (free = none →
      let r := (g.join next now v.k x).1.join next now v.k x
      r.1.rcs = v.g.rcs ∧ ∃ q, r.1.splits[v.k]? = some q ∧ q.mask = v.sp.mask ∧ q.fmt = v.sp.fmt) ∧
    (∀ j, free = some j → j < v.g.splits.length → (∀ e ∈ v.g.rcs, e.owner ≠ j) →
      ∀ r, r = (g.join next now v.k x).1.join next now j x ∨ r = (g.join next now j x).1.join next now v.k x →
      r.2 = v.k ∧ r.1.rcs = v.g.rcs ∧ r.1.splits[j]? = some Split.unused ∧
        ∃ q, r.1.splits[v.k]? = some q ∧ q.mask = v.sp.mask ∧ q.fmt = v.sp.fmt ∧ q.wait = .ready)

/-- A fault of delivery H without a handler, under masked traps or without a frame ends the team; before the entry the gang is rolled back and, in
native code, its reads that are on their way are dropped. (R423, R427)
Model's own choices and readings used in it: [28, DEDUCED], [33, DEDUCED]. -/
def Obligations.FaultDeliveryChecks : Prop :=
  (∀ (s : State) (r : Raise) (fa : FaultAt) (t : Team) (g : Gang), s.team? fa.rid = some t → t.gangs[fa.gang]? = some g →
    let pc := (g.splits[fa.split]?.map t.rjvpc).getD 0
    (g.tvec = 0 → s.deliverH r fa = s.terminateAt t.rid r.cause 0 fa.gang pc r.addr) ∧
    (g.tvec ≠ 0 → g.handler.isSome = true → s.deliverH r fa = s.terminate t.rid 961 r.cause fa.gang pc) ∧
    (g.tvec ≠ 0 → g.handler = none → g.entering.isSome = true → s.deliverH r fa = s) ∧
    (g.tvec ≠ 0 → g.handler = none → g.entering = none →
      let gated := (g.splits[fa.split]?.map (fun sp => sp.gated.length)).getD 0
      let g1 := { g.rollbackAll with entering := some (r, { fa with gcnt := if fa.gcnt = 0 then gated else fa.gcnt }) }
      let back := s.updTeam t.rid (fun (y : Team) => y.updGang fa.gang (fun _ => g1))
      let u := if t.native then back.dropReads t.rid fa.gang else back
      (t.deliverable = false → s.deliverH r fa = u) ∧
      (t.deliverable = true → ∀ u1, u.team? t.rid = some u1 → u.entryWaits u1 fa.gang g1 = true → s.deliverH r fa = u) ∧
      (t.deliverable = true → ∀ u1 c, u.team? t.rid = some u1 → u.entryWaits u1 fa.gang g1 = false →
        u.frameAccess t.asid (g1.tframe + 16384 * fa.gang) = .raise c →
        s.deliverH r fa = u.terminate t.rid 964 0 fa.gang ((g1.splits[fa.split]?.map u1.rjvpc).getD 0)))) ∧
  (∀ (s : State) (asid frame : Nat) (o : Object), o ∈ s.hub.objects → o.asid = asid → (∃ x ∈ o.ranges, 0 < x.2 ∧ x.1 < frame + 16384 ∧ frame < x.1 + x.2) →
    s.frameAccess asid frame = .raise 194) ∧
  -- a rolled-back split stands at its commit point: what it had gated, held or on its way since is gone
  (∀ (g : Gang) (k : Nat) (sp : Split) (n : Snapshot), g.splits[k]? = some sp → sp.snap = some n → sp.used = true → sp.performing = false →
    ∃ q, (g.rollback k).splits[k]? = some q ∧ q.pc = n.pc ∧ q.mask = n.mask ∧ q.fmt = n.fmt ∧ q.sig = n.sig ∧ q.ret = n.ret ∧ q.lr = n.lr ∧ q.rrb = n.rrb ∧
      q.flight = [] ∧ q.tailings = n.flight ∧ q.loads = [] ∧ q.gated = [] ∧ q.held = 0 ∧ (g.rollback k).nregs = g.nregs.restore n.regs sp.mask (sp.restores n)) ∧
  -- reads of the gang that wait at a face unit are dropped, and no other request
  (∀ (s : State) (rid gang : Nat) (q : FaceReq), q ∈ (s.dropReads rid gang).faceReqs ↔
    q ∈ s.faceReqs ∧ ¬(q.rid = rid ∧ q.gang = gang ∧ ∀ x ∈ q.parts, x.2.2 = .read))

/-- A delivered fault saves the gang, writes its frame and starts the handler with traps masked. (R425, R427, R429, R430, R433)
Model's own choices and readings used in it: [28, DEDUCED]. -/
def Obligations.HandlerEntryState : Prop :=
  ∀ (s : State) (r : Raise) (fa : FaultAt) (t : Team) (g : Gang) (sp : Split) (p : Page) (x : Nat), MemOk s →
    s.team? fa.rid = some t → t.gangs[fa.gang]? = some g → g.entering = some (r, fa) → r.cause < 1024 → fa.split < 4 →
    let frame := g.tframe + 16384 * fa.gang
    g.splits[fa.split]? = some sp → s.entryWaits t fa.gang g = false → s.page? t.asid frame = some p →
    frame + (frameBytes t g r fa sp.tailings).length ≤ p.vbase + p.size → s.frameAccess t.asid frame = .ok x →
    let u := s.tryEnter fa.rid fa.gang
    ofBytesLE (u.vaBytes t.asid frame 2) % 4096 = r.cause + 1024 * fa.split ∧
      ∃ team hg h q, u.team? t.rid = some team ∧ team.gangs[fa.gang]? = some hg ∧ hg.handler = some h ∧ hg.entering = none ∧ h.split = fa.split ∧
        h.saved = g.splits ∧ hg.rcs = g.rcs ∧ hg.splits[fa.split]? = some q ∧ q.pc = g.tvec % 2 ^ 56 ∧ q.mask = sp.mask ∧ q.fmt = sp.fmt ∧
        q.sig = 0 ∧ q.ret = []

/-- The end of a handler restores FLG, the splits at their resume points and the RCS, and unmasks traps; on the native machine the JV registers
return to the places that the maps of the resume record give. (R430, R435, R436)
Model's own choices and readings used in it: [28, DEDUCED]. -/
def Obligations.HandlerReturnState : Prop :=
  ∀ (s : State) (rid gang x k : Nat) (t : Team) (g : Gang) (h : Handler) (sp : Split) (cleared : Mask), s.team? rid = some t →
    t.gangs[gang]? = some g → g.handler = some h → h.saved[k]? = some sp → k < 4 → sp.used = true →
    (k ≠ h.split → g.splits[k]? = some sp) → h.rcsBase ≤ g.rcs.length →
    let s1 := s.dropFrame t.core t.asid h.frame
    let mask := if k = h.split then sp.mask &&& ~~~cleared else sp.mask
    s1.access t.asid h.frame false = .ok x →
    ∃ team g' q, (s.leaveHandler rid gang cleared).team? rid = some team ∧ team.gangs[gang]? = some g' ∧ g'.handler = none ∧
      g'.flg = BitVec.ofNat 6 (s1.mem.readLE (x + 32) 1) ∧ g'.rcs = g.rcs.drop (g.rcs.length - h.rcsBase) ∧ g'.splits[k]? = some q ∧
      q.pc = sp.pc ∧ q.ret = sp.ret ∧ q.mask = mask ∧
      (t.native = false → g'.nregs = g.nregs) ∧
      (∀ (c : NatCode) (n : Snapshot) (r : Record), t.native = true → t.natCode = some c → sp.snap = some n → n.record = some r →
        (∀ j, j ≠ k → ∀ y, h.saved[j]? = some y → y.used = false) →
        let value (e : MapEntry) : Lanes := jvHalf (Tab.get (JvVal.uni 0) g.jregs e.jvreg) e.hi
        g'.nregs = ((c.valuesOf r).filter (fun e => e.kind == 0 && e.loc != 208)).foldl (fun y e =>
          y.put t.core.kind (physLoc t.core.kind sp.rrb e.loc) mask (value e)) g.nregs ∧
        (∀ e, c.valuesOf r = [e] → e.kind = 0 → e.loc = 208 → q.lr = (laneOf (value e) 0).truncate 32) ∧
        (∀ e w, c.valuesOf r = [e] → e.kind = 3 → Tab.get (JvVal.uni 0) g.jregs e.jvreg = .uni w →
          g'.tspill = g.tspill.writeN (8 * e.loc) (toBytesLE 8 (laneOf (value e) 0).toNat)))

/-- A native result of latency L is written at the L-th clock after its issue and not before. (R56, R290, R291) -/
def Obligations.ExposedResultsLandAtTheirLatency : Prop :=
  (∀ (kind : CoreKind) (k L : Nat) (g : Gang) (sp : Split) (f : Flight), g.splits[k]? = some sp → sp.flight = [f] → 0 < L → f.remain = L →
    (∀ i, i < L → (g.clocks kind k i).nregs = g.nregs) ∧ (g.clocks kind k L).nregs = g.nregs.put kind f.loc f.lanes f.value) ∧
  (∀ (v : View) (L loc : Nat) (e : Mask) (x : Lanes), v.lat = some L →
    ∃ f, (v.emit loc e x).sp.flight = v.sp.flight ++ [f] ∧ f.loc = loc ∧ f.lanes = e ∧ f.value = x ∧ f.remain = L)

/-- SIG steps by rotation and the instruction's code with every JV instruction but sigset and chksig. (R226, R227, R533)
Model's own choices and readings used in it: [15, DEDUCED]. -/
def Obligations.SignatureStepsWithEveryInstruction : Prop :=
  ∀ (o : Op) (f : JvForm) (v : View), f.ty < 16 →
    ((o ≠ .sigset ∧ o ≠ .chksig) → (ready o (.jv f) v).sp.sig =
      v.sp.sig.rotateLeft 13 ^^^ (BitVec.ofNat 8 o.code.1 ++ BitVec.ofNat 6 o.code.2 ++ BitVec.ofNat 4 f.ty ++ 0#45 ++ 1#1)) ∧
    ((o = .sigset ∨ o = .chksig) → (ready o (.jv f) v).sp.sig = v.sp.sig) ∧
    ∀ g : NatForm, (ready o (.nat g) v).sp.sig = v.sp.sig

/-- The native predicate p0 reads as true in every lane and ignores writes. (R280) -/
def Obligations.PredicateZeroIsAlwaysTrue : Prop :=
  (∀ v : View, v.rdP (.preg 0) = BitVec.allOnes 32) ∧ (∀ (v : View) (e m : Mask), v.putPred (.preg 0) e m = v) ∧
    ∀ (r : NatRegs) (kind : CoreKind) (e : Mask) (x : Lanes), r.put kind 192 e x = r

/-- cvti rounds under the mode, gives the range's end with invalid beyond it, and 0 with invalid for NaN. (R112) -/
def Obligations.ConversionToIntegers : Prop :=
  (∀ (lo hi : Int) (rm : Nat) (b : Bool), cvtI lo hi rm (.nan b) = (0, 1) ∧ cvtI lo hi rm (.inf b) = (if b then lo else hi, 1)) ∧
  (∀ (lo hi : Int) (rm : Nat) (neg : Bool) (m : Nat) (e : Int), rm < 4 →
    let x : Int := (if neg then -1 else 1) * m * 2 ^ e.toNat
    let d : Int := 2 ^ (-e).toNat
    ∃ r : Int, (rm = 0 → 2 * (r * d - x).natAbs ≤ d.natAbs ∧ (2 * (r * d - x).natAbs = d.natAbs → r % 2 = 0)) ∧ (rm = 1 → r = x.tdiv d) ∧
      (rm = 2 → r = -((-x) / d)) ∧ (rm = 3 → r = x / d) ∧
      cvtI lo hi rm (.num neg m e) = if r < lo then (lo, 1) else if hi < r then (hi, 1) else (r, if r * d = x then 0 else 16)) ∧
  (∀ i : Int, Ex.ofInt i = .num (decide (i < 0)) i.natAbs 0) ∧
  ∀ (f : Form) (s : State) (v : View), (Executes .i2f f s v →
      exec (.i2f f) s = .next (flaggedNext .i2f f v (f.args .i2f).ty (fun w a l => roundF a.ty (effRm w.sp.fmt a.rm) (fmtSat w.sp.fmt) (fmtFtz w.sp.fmt) (Ex.ofInt (tyVal a.sub (w.rd a.a a.sub l))))))

/-- to_aq floors at the anchor's weight and saturates with aqs, and aq_add saturates with aqs. (R120) -/
def Obligations.ConversionToAnchored : Prop :=
  let top : Int := 2 ^ 63 - 1
  (∀ (a : Int) (b : Bool), toAq (.nan b) a = (0, 1) ∧ toAq (.inf b) a = (if b then -top else top, 32)) ∧
  (∀ (a : Int) (neg : Bool) (m : Nat) (e : Int),
    let x : Int := (if neg then -1 else 1) * m
    let y : Int := if a ≤ e then x * 2 ^ (e - a).toNat else x / 2 ^ (a - e).toNat
    toAq (.num neg m e) a = (max (-top) (min top y), if y < -top ∨ top < y then 32 else 0)) ∧
  ∀ x y : Int, aqAdd x y = (max (-top) (min top (x + y)), if x + y < -top ∨ top < x + y then 32 else 0)

/-- Re-anchoring scales and saturates toward a lower anchor, and shifts right toward a higher one. (R121) -/
def Obligations.ReanchoringResults : Prop :=
  let top : Int := 2 ^ 63 - 1
  ∀ n a b : Int,
    (b ≤ a → let y := n * 2 ^ (a - b).toNat
      reanchor n a b = (max (-top) (min top y), if y < -top ∨ top < y then 32 else 0)) ∧
    (a < b → reanchor n a b = (n >>> (b - a).toNat, 0))

/-- An instruction without a modifier word reads as with the default one, and unused fields hold their defaults. (R134) -/
def Obligations.ModifierWordDefaults : Prop :=
  ∀ (o : Op) (f : JvForm), f.wf o = true →
    (f.hasMod = false → f.off = 0 ∧ f.c = .none ∧ f.pol = 0 ∧ f.spc = 0 ∧ f.ord = 0 ∧ f.scp = 0 ∧ f.rm = 0 ∧ f.sub = 0) ∧
    (f.hasMod = false → f.d.escapes + f.a.escapes + f.b.escapes ≤ 2 →
      JvForm.wf o { f with hasMod := true } = true ∧ encodeMod { f with hasMod := true } = 0xFE000000 ∧ jvArgs { f with hasMod := true } = jvArgs f) ∧
    (o.usesOff = false → f.off = 0) ∧ (o.usesPol = false → f.pol = 0) ∧ (o.usesSpc = false → f.spc = 0) ∧ (o.usesOrd = false → f.ord = 0) ∧
    (o.usesScp = false → f.scp = 0) ∧ (o.usesRm f.ty f.sub = false → f.rm = 0) ∧ ((∀ x, o.subOk x = true → x = 0) → f.sub = 0) ∧
    ((o.roles f.ty f.sub).d = .unused → f.d = .none) ∧ ((o.roles f.ty f.sub).a = .unused → f.a = .none) ∧
    ((o.roles f.ty f.sub).b = .unused → f.b = .none) ∧ ((o.roles f.ty f.sub).c = .unused → f.guard.isWide = false → f.c = .none)
end

