-- ==== Sys2Proof/Laws/Instr.lean ====
section
/-! SUPPORT. What the execution of one encoded instruction can do, once for all of them. -/

namespace Sys2Proof.Laws

open Sys2Proof.Machine Sys2Proof.Safety

/-- An instruction that executes ends as its own effect says. -/
theorem runOp_executes {o : Op} {f : Form} {s : State} {v : View} (h : Executes o f s v) (body : View → Args → Mask → Out) :
    runOp o f s (ownChecks o f) body =
      match body (ready o f v) (f.args o) (lanes o f v) with
      | .done w => .next (w.retire f)
      | .jump w => .next w.complete.close
      | .park w x => .next (({ w with sp := { w.sp with sig := v.sp.sig, tilePos := v.sp.tilePos } }.close).parkGang v.t.rid (v.enter o f).gang v.k x)
      | .raise x => .next ((v.enter o f).fail f.slot x)
      | .raiseAfter w x =>
        let w1 := w.complete.advance f.bytes
        .next (w1.close.deliver x { w1.faultAt with
          after := true, slot := f.slot
          npc := if f.isNat then BitVec.ofNat 64 (v.sp.pc - bundleBytes v.t.core.kind) else Config.nativePc v.t.kern.handle v.t.core.kind v.sp.pc })
      | .state t => .next t := by
  unfold runOp
  rw [h.opened]
  simp only [h.formed]
  rw [if_neg (show ¬ ((v.enter o f).active f = 0) from h.some_lane), h.clean]
  rfl

theorem runOp_done {o : Op} {f : Form} {s : State} {v w : View} (h : Executes o f s v) {body : View → Args → Mask → Out}
    (hb : body (ready o f v) (f.args o) (lanes o f v) = .done w) :
    runOp o f s (ownChecks o f) body = .next (w.retire f) := by
  rw [runOp_executes h, hb]

theorem runOp_jump {o : Op} {f : Form} {s : State} {v w : View} (h : Executes o f s v) {body : View → Args → Mask → Out}
    (hb : body (ready o f v) (f.args o) (lanes o f v) = .jump w) :
    runOp o f s (ownChecks o f) body = .next w.complete.close := by
  rw [runOp_executes h, hb]

theorem runOp_state {o : Op} {f : Form} {s t : State} {v : View} (h : Executes o f s v) {body : View → Args → Mask → Out}
    (hb : body (ready o f v) (f.args o) (lanes o f v) = .state t) :
    runOp o f s (ownChecks o f) body = .next t := by
  rw [runOp_executes h, hb]

/-- Without an open context there is no next state. -/
theorem runOp_noContext {o : Op} {f : Form} {s : State} (h : View.open s = none) (c : View → Args → Mask → List Raise)
    (body : View → Args → Mask → Out) : runOp o f s c body = .fault .noContext := by
  unfold runOp
  rw [h]

/-- With an open context there is always a next state: an encoded instruction never stops the machine. -/
theorem runOp_next {o : Op} {f : Form} {s : State} {v : View} (h : View.open s = some v) (c : View → Args → Mask → List Raise)
    (body : View → Args → Mask → Out) : ∃ t, runOp o f s c body = .next t := by
  unfold runOp
  rw [h]
  dsimp only
  split
  · exact ⟨_, rfl⟩
  · split
    · split <;> exact ⟨_, rfl⟩
    · split
      · exact ⟨_, rfl⟩
      · split <;> exact ⟨_, rfl⟩

end Sys2Proof.Laws
end

