-- ==== Sys2Proof/Laws/Memory.lean ====
section
/-! SUPPORT. Sparse tables and memory: a read after a write, a write elsewhere, and the canonical form, which every memory
operation keeps. -/

namespace Sys2Proof.Laws

open Sys2Proof.Machine

/-- A table whose keys begin later is also one whose keys begin earlier. -/
theorem Tab_wfFrom_le {α : Type} [DecidableEq α] (d : α) (t : Tab α) {lo hi : Nat} (h : lo ≤ hi)
    (w : Tab.wfFrom d hi t = true) : Tab.wfFrom d lo t = true := by
  cases t with
  | nil => rfl
  | cons x r =>
    simp only [Tab.wfFrom, Bool.and_eq_true, decide_eq_true_eq] at w ⊢
    exact ⟨⟨by omega, w.1.2⟩, w.2⟩

theorem Tab_set_wfFrom {α : Type} [DecidableEq α] (d : α) (t : Tab α) (k : Nat) (v : α) :
    ∀ lo, lo ≤ k → Tab.wfFrom d lo t = true → Tab.wfFrom d lo (Tab.set d t k v) = true := by
  induction t with
  | nil =>
    intro lo h _
    by_cases e : v = d <;> simp [Tab.set, Tab.wfFrom, e, h]
  | cons x r ih =>
    intro lo h w
    obtain ⟨k', v'⟩ := x
    simp only [Tab.wfFrom, Bool.and_eq_true, decide_eq_true_eq] at w
    unfold Tab.set
    split
    · split
      · simp [Tab.wfFrom, w]
      · simp only [Tab.wfFrom, Bool.and_eq_true, decide_eq_true_eq]
        exact ⟨⟨h, by assumption⟩, ⟨by omega, w.1.2⟩, w.2⟩
    · split
      · subst k
        split
        · exact Tab_wfFrom_le d r (by omega) w.2
        · simp only [Tab.wfFrom, Bool.and_eq_true, decide_eq_true_eq]
          exact ⟨⟨h, by assumption⟩, w.2⟩
      · simp only [Tab.wfFrom, Bool.and_eq_true, decide_eq_true_eq]
        exact ⟨w.1, ih _ (by omega) w.2⟩

/-- Storing keeps the canonical form. -/
theorem Tab_set_wf {α : Type} [DecidableEq α] (d : α) (t : Tab α) (k : Nat) (v : α) (w : Tab.wf d t = true) :
    Tab.wf d (Tab.set d t k v) = true := Tab_set_wfFrom d t k v 0 (Nat.zero_le _) w

/-- A key below every listed one reads as the default. -/
theorem Tab_get_below {α : Type} [DecidableEq α] (d : α) (t : Tab α) (k lo : Nat) (h : k < lo)
    (w : Tab.wfFrom d lo t = true) : Tab.get d t k = d := by
  induction t generalizing lo with
  | nil => rfl
  | cons x r ih =>
    obtain ⟨k', v'⟩ := x
    simp only [Tab.wfFrom, Bool.and_eq_true, decide_eq_true_eq] at w
    unfold Tab.get
    rw [if_neg (by omega)]
    exact ih (k' + 1) (by omega) w.2

/-- The value stored is the value read. -/
theorem Tab_get_set_same {α : Type} [DecidableEq α] (d : α) (t : Tab α) (k : Nat) (v : α) :
    ∀ lo, Tab.wfFrom d lo t = true → Tab.get d (Tab.set d t k v) k = v := by
  induction t with
  | nil =>
    intro lo _
    by_cases e : v = d <;> simp [Tab.set, Tab.get, e]
  | cons x r ih =>
    intro lo w
    obtain ⟨k', v'⟩ := x
    simp only [Tab.wfFrom, Bool.and_eq_true, decide_eq_true_eq] at w
    unfold Tab.set
    split
    · split
      · rename_i h e
        rw [e]
        unfold Tab.get
        rw [if_neg (by omega)]
        exact Tab_get_below d r k (k' + 1) (by omega) w.2
      · simp [Tab.get]
    · split
      · rename_i h e
        subst e
        split
        · rename_i e
          rw [e]
          exact Tab_get_below d r k (k + 1) (by omega) w.2
        · simp [Tab.get]
      · rename_i h e
        unfold Tab.get
        rw [if_neg e]
        exact ih _ w.2

/-- Every other key reads as before. -/
theorem Tab_get_set_other {α : Type} [DecidableEq α] (d : α) (t : Tab α) (k j : Nat) (v : α) (hj : j ≠ k) :
    ∀ lo, Tab.wfFrom d lo t = true → Tab.get d (Tab.set d t k v) j = Tab.get d t j := by
  induction t with
  | nil =>
    intro lo _
    by_cases e : v = d <;> simp [Tab.set, Tab.get, e, hj]
  | cons x r ih =>
    intro lo w
    obtain ⟨k', v'⟩ := x
    simp only [Tab.wfFrom, Bool.and_eq_true, decide_eq_true_eq] at w
    unfold Tab.set
    split
    · split
      · rfl
      · simp [Tab.get, hj]
    · split
      · rename_i h e
        subst e
        split
        · rename_i e
          conv => rhs; unfold Tab.get
          rw [if_neg hj]
        · simp [Tab.get, hj]
      · rename_i h e
        simp only [Tab.get]
        split
        · rfl
        · exact ih _ w.2

theorem Memory_write_wf (m : Memory) (a : Nat) (b : Byte) (w : m.wf = true) : (m.write a b).wf = true :=
  Tab_set_wf unlisted m a b w

theorem Memory_read_write_same (m : Memory) (a : Nat) (b : Byte) (w : m.wf = true) : (m.write a b).read a = b :=
  Tab_get_set_same unlisted m a b 0 w

theorem Memory_read_write_other (m : Memory) (a x : Nat) (b : Byte) (w : m.wf = true) (h : x ≠ a) :
    (m.write a b).read x = m.read x := Tab_get_set_other unlisted m a x b h 0 w

theorem Memory_writeN_wf (bs : List Byte) : ∀ (m : Memory) (a : Nat), m.wf = true → (m.writeN a bs).wf = true := by
  induction bs with
  | nil => intro m a w; exact w
  | cons b r ih => intro m a w; exact ih _ _ (Memory_write_wf m a b w)

/-- A byte outside the stored ones reads as before. -/
theorem Memory_read_writeN_other (bs : List Byte) : ∀ (m : Memory) (a x : Nat), m.wf = true → (x < a ∨ a + bs.length ≤ x) →
    (m.writeN a bs).read x = m.read x := by
  induction bs with
  | nil => intro m a x _ _; rfl
  | cons b r ih =>
    intro m a x w h
    simp only [List.length_cons] at h
    show (Memory.writeN (m.write a b) (a + 1) r).read x = _
    rw [ih _ _ _ (Memory_write_wf m a b w) (by omega), Memory_read_write_other m a x b w (by omega)]

/-- The stored bytes read back. -/
theorem Memory_read_writeN_same (bs : List Byte) : ∀ (m : Memory) (a i : Nat), m.wf = true → (h : i < bs.length) →
    (m.writeN a bs).read (a + i) = bs[i] := by
  induction bs with
  | nil => intro m a i _ h; exact absurd h (Nat.not_lt_zero _)
  | cons b r ih =>
    intro m a i w h
    show (Memory.writeN (m.write a b) (a + 1) r).read (a + i) = _
    cases i with
    | zero => rw [Memory_read_writeN_other r _ _ _ (Memory_write_wf m a b w) (by omega)]; exact Memory_read_write_same m a b w
    | succ n =>
      have e : a + (n + 1) = a + 1 + n := by omega
      rw [e, ih _ _ n (Memory_write_wf m a b w) (by simpa using h)]
      rfl

theorem Tab_filter_wfFrom {α : Type} [DecidableEq α] (d : α) (p : Nat × α → Bool) (t : Tab α) :
    ∀ lo, Tab.wfFrom d lo t = true → Tab.wfFrom d lo (t.filter p) = true := by
  induction t with
  | nil => intro lo _; rfl
  | cons x r ih =>
    intro lo w
    obtain ⟨k', v'⟩ := x
    simp only [Tab.wfFrom, Bool.and_eq_true, decide_eq_true_eq] at w
    rw [List.filter_cons]
    split
    · simp only [Tab.wfFrom, Bool.and_eq_true, decide_eq_true_eq]
      exact ⟨w.1, ih _ w.2⟩
    · exact Tab_wfFrom_le d _ (by omega) (ih _ w.2)

theorem Memory_clearRange_wf (m : Memory) (a n : Nat) (w : m.wf = true) : (m.clearRange a n).wf = true :=
  Tab_filter_wfFrom unlisted _ m 0 w

theorem Memory_writeAll_wf (f : Host.Cell → Nat) (l : List Host.Cell) : ∀ rest : Memory, rest.wf = true →
    (l.foldl (fun (m : Memory) c => m.write (f c) c.2) rest).wf = true := by
  induction l with
  | nil => intro rest w; exact w
  | cons c r ih => intro rest w; exact ih _ (Memory_write_wf rest _ _ w)

theorem Memory_moveRange_wf (m : Memory) (src dst n : Nat) (w : m.wf = true) : (m.moveRange src dst n).wf = true :=
  Memory_writeAll_wf _ _ _ (Tab_filter_wfFrom unlisted _ m 0 w)

end Sys2Proof.Laws
end

