-- ==== Sys2Proof/Laws/PerInstr.lean ====
section
/-! SUPPORT. Statements made for each instruction as syntax, one lemma per constructor of Instr. -/

namespace Sys2Proof.Laws.Parts

/-- An encoded instruction is the one its operation and form name, and its length in words is what the encoding gives a slot
word: one. -/
def Statement (i : Instr) : Prop :=
  ∀ o f, i.parts = some (o, f) → Instr.ofOp o f = i ∧ (f.isNat = true → (encode i).length = 1)

theorem of_parts (i : Instr) (o : Op) (f : Form) (hp : i.parts = some (o, f)) (h : Instr.ofOp o f = i) : Statement i := by
  intro o' f' h'
  rw [hp] at h'
  cases h'
  refine ⟨h, fun hf => ?_⟩
  unfold encode
  rw [hp]
  cases f with
  | jv g => cases hf
  | nat g => rfl

theorem of_event (i : Instr) (hp : i.parts = none) : Statement i := by
  intro o f h
  rw [hp] at h
  cases h

theorem add (f : Form) : Statement (.add f) := of_parts _ _ f rfl rfl
theorem sub (f : Form) : Statement (.sub f) := of_parts _ _ f rfl rfl
theorem mul (f : Form) : Statement (.mul f) := of_parts _ _ f rfl rfl
theorem mulhi (f : Form) : Statement (.mulhi f) := of_parts _ _ f rfl rfl
theorem mad (f : Form) : Statement (.mad f) := of_parts _ _ f rfl rfl
theorem div (f : Form) : Statement (.div f) := of_parts _ _ f rfl rfl
theorem rem (f : Form) : Statement (.rem f) := of_parts _ _ f rfl rfl
theorem min (f : Form) : Statement (.min f) := of_parts _ _ f rfl rfl
theorem max (f : Form) : Statement (.max f) := of_parts _ _ f rfl rfl
theorem abs (f : Form) : Statement (.abs f) := of_parts _ _ f rfl rfl
theorem neg (f : Form) : Statement (.neg f) := of_parts _ _ f rfl rfl
theorem dp4 (f : Form) : Statement (.dp4 f) := of_parts _ _ f rfl rfl
theorem lea (f : Form) : Statement (.lea f) := of_parts _ _ f rfl rfl
theorem and (f : Form) : Statement (.and f) := of_parts _ _ f rfl rfl
theorem or (f : Form) : Statement (.or f) := of_parts _ _ f rfl rfl
theorem xor (f : Form) : Statement (.xor f) := of_parts _ _ f rfl rfl
theorem not (f : Form) : Statement (.not f) := of_parts _ _ f rfl rfl
theorem shl (f : Form) : Statement (.shl f) := of_parts _ _ f rfl rfl
theorem shr (f : Form) : Statement (.shr f) := of_parts _ _ f rfl rfl
theorem sar (f : Form) : Statement (.sar f) := of_parts _ _ f rfl rfl
theorem rotl (f : Form) : Statement (.rotl f) := of_parts _ _ f rfl rfl
theorem popc (f : Form) : Statement (.popc f) := of_parts _ _ f rfl rfl
theorem clz (f : Form) : Statement (.clz f) := of_parts _ _ f rfl rfl
theorem brev (f : Form) : Statement (.brev f) := of_parts _ _ f rfl rfl
theorem bfx (f : Form) : Statement (.bfx f) := of_parts _ _ f rfl rfl
theorem bfi (f : Form) : Statement (.bfi f) := of_parts _ _ f rfl rfl
theorem mov (f : Form) : Statement (.mov f) := of_parts _ _ f rfl rfl
theorem movi (f : Form) : Statement (.movi f) := of_parts _ _ f rfl rfl
theorem sel (f : Form) : Statement (.sel f) := of_parts _ _ f rfl rfl
theorem setp (f : Form) : Statement (.setp f) := of_parts _ _ f rfl rfl
theorem pand (f : Form) : Statement (.pand f) := of_parts _ _ f rfl rfl
theorem por (f : Form) : Statement (.por f) := of_parts _ _ f rfl rfl
theorem pxor (f : Form) : Statement (.pxor f) := of_parts _ _ f rfl rfl
theorem pnot (f : Form) : Statement (.pnot f) := of_parts _ _ f rfl rfl
theorem fadd (f : Form) : Statement (.fadd f) := of_parts _ _ f rfl rfl
theorem fsub (f : Form) : Statement (.fsub f) := of_parts _ _ f rfl rfl
theorem fmul (f : Form) : Statement (.fmul f) := of_parts _ _ f rfl rfl
theorem ffma (f : Form) : Statement (.ffma f) := of_parts _ _ f rfl rfl
theorem fmin (f : Form) : Statement (.fmin f) := of_parts _ _ f rfl rfl
theorem fmax (f : Form) : Statement (.fmax f) := of_parts _ _ f rfl rfl
theorem fabs (f : Form) : Statement (.fabs f) := of_parts _ _ f rfl rfl
theorem fneg (f : Form) : Statement (.fneg f) := of_parts _ _ f rfl rfl
theorem fdiv (f : Form) : Statement (.fdiv f) := of_parts _ _ f rfl rfl
theorem fsqrt (f : Form) : Statement (.fsqrt f) := of_parts _ _ f rfl rfl
theorem frcp (f : Form) : Statement (.frcp f) := of_parts _ _ f rfl rfl
theorem frsq (f : Form) : Statement (.frsq f) := of_parts _ _ f rfl rfl
theorem fex2 (f : Form) : Statement (.fex2 f) := of_parts _ _ f rfl rfl
theorem flg2 (f : Form) : Statement (.flg2 f) := of_parts _ _ f rfl rfl
theorem fscale (f : Form) : Statement (.fscale f) := of_parts _ _ f rfl rfl
theorem fsetp (f : Form) : Statement (.fsetp f) := of_parts _ _ f rfl rfl
theorem fclass (f : Form) : Statement (.fclass f) := of_parts _ _ f rfl rfl
theorem frnd (f : Form) : Statement (.frnd f) := of_parts _ _ f rfl rfl
theorem fcvt (f : Form) : Statement (.fcvt f) := of_parts _ _ f rfl rfl
theorem f2i (f : Form) : Statement (.f2i f) := of_parts _ _ f rfl rfl
theorem i2f (f : Form) : Statement (.i2f f) := of_parts _ _ f rfl rfl
theorem fadd2 (f : Form) : Statement (.fadd2 f) := of_parts _ _ f rfl rfl
theorem fmul2 (f : Form) : Statement (.fmul2 f) := of_parts _ _ f rfl rfl
theorem ffma2 (f : Form) : Statement (.ffma2 f) := of_parts _ _ f rfl rfl
theorem fdot2 (f : Form) : Statement (.fdot2 f) := of_parts _ _ f rfl rfl
theorem rdsr (f : Form) : Statement (.rdsr f) := of_parts _ _ f rfl rfl
theorem elect (f : Form) : Statement (.elect f) := of_parts _ _ f rfl rfl
theorem vote (f : Form) : Statement (.vote f) := of_parts _ _ f rfl rfl
theorem matchLanes (f : Form) : Statement (.matchLanes f) := of_parts _ _ f rfl rfl
theorem shfl (f : Form) : Statement (.shfl f) := of_parts _ _ f rfl rfl
theorem redux (f : Form) : Statement (.redux f) := of_parts _ _ f rfl rfl
theorem scan (f : Form) : Statement (.scan f) := of_parts _ _ f rfl rfl
theorem bra (f : Form) : Statement (.bra f) := of_parts _ _ f rfl rfl
theorem brx (f : Form) : Statement (.brx f) := of_parts _ _ f rfl rfl
theorem call (f : Form) : Statement (.call f) := of_parts _ _ f rfl rfl
theorem callx (f : Form) : Statement (.callx f) := of_parts _ _ f rfl rfl
theorem ret (f : Form) : Statement (.ret f) := of_parts _ _ f rfl rfl
theorem join (f : Form) : Statement (.join f) := of_parts _ _ f rfl rfl
theorem exit (f : Form) : Statement (.exit f) := of_parts _ _ f rfl rfl
theorem yield (f : Form) : Statement (.yield f) := of_parts _ _ f rfl rfl
theorem nsleep (f : Form) : Statement (.nsleep f) := of_parts _ _ f rfl rfl
theorem waita (f : Form) : Statement (.waita f) := of_parts _ _ f rfl rfl
theorem bar (f : Form) : Statement (.bar f) := of_parts _ _ f rfl rfl
theorem barar (f : Form) : Statement (.barar f) := of_parts _ _ f rfl rfl
theorem barwt (f : Form) : Statement (.barwt f) := of_parts _ _ f rfl rfl
theorem setfmt (f : Form) : Statement (.setfmt f) := of_parts _ _ f rfl rfl
theorem getfmt (f : Form) : Statement (.getfmt f) := of_parts _ _ f rfl rfl
theorem ld (f : Form) : Statement (.ld f) := of_parts _ _ f rfl rfl
theorem st (f : Form) : Statement (.st f) := of_parts _ _ f rfl rfl
theorem ldu (f : Form) : Statement (.ldu f) := of_parts _ _ f rfl rfl
theorem atom (f : Form) : Statement (.atom f) := of_parts _ _ f rfl rfl
theorem cas (f : Form) : Statement (.cas f) := of_parts _ _ f rfl rfl
theorem aqadd (f : Form) : Statement (.aqadd f) := of_parts _ _ f rfl rfl
theorem fence (f : Form) : Statement (.fence f) := of_parts _ _ f rfl rfl
theorem pref (f : Form) : Statement (.pref f) := of_parts _ _ f rfl rfl
theorem fgath (f : Form) : Statement (.fgath f) := of_parts _ _ f rfl rfl
theorem codeload (f : Form) : Statement (.codeload f) := of_parts _ _ f rfl rfl
theorem hcopy (f : Form) : Statement (.hcopy f) := of_parts _ _ f rfl rfl
theorem hcopyCk (f : Form) : Statement (.hcopyCk f) := of_parts _ _ f rfl rfl
theorem htens (f : Form) : Statement (.htens f) := of_parts _ _ f rfl rfl
theorem htensSt (f : Form) : Statement (.htensSt f) := of_parts _ _ f rfl rfl
theorem hgath (f : Form) : Statement (.hgath f) := of_parts _ _ f rfl rfl
theorem hscat (f : Form) : Statement (.hscat f) := of_parts _ _ f rfl rfl
theorem hred (f : Form) : Statement (.hred f) := of_parts _ _ f rfl rfl
theorem hmcast (f : Form) : Statement (.hmcast f) := of_parts _ _ f rfl rfl
theorem hfill (f : Form) : Statement (.hfill f) := of_parts _ _ f rfl rfl
theorem hwait (f : Form) : Statement (.hwait f) := of_parts _ _ f rfl rfl
theorem htest (f : Form) : Statement (.htest f) := of_parts _ _ f rfl rfl
theorem ckpack (f : Form) : Statement (.ckpack f) := of_parts _ _ f rfl rfl
theorem ckpackUnpk (f : Form) : Statement (.ckpackUnpk f) := of_parts _ _ f rfl rfl
theorem ckver (f : Form) : Statement (.ckver f) := of_parts _ _ f rfl rfl
theorem ckinfo (f : Form) : Statement (.ckinfo f) := of_parts _ _ f rfl rfl
theorem mma (f : Form) : Statement (.mma f) := of_parts _ _ f rfl rfl
theorem mmaRa (f : Form) : Statement (.mmaRa f) := of_parts _ _ f rfl rfl
theorem accz (f : Form) : Statement (.accz f) := of_parts _ _ f rfl rfl
theorem accld (f : Form) : Statement (.accld f) := of_parts _ _ f rfl rfl
theorem accst (f : Form) : Statement (.accst f) := of_parts _ _ f rfl rfl
theorem accmax (f : Form) : Statement (.accmax f) := of_parts _ _ f rfl rfl
theorem accanc (f : Form) : Statement (.accanc f) := of_parts _ _ f rfl rfl
theorem tri (f : Form) : Statement (.tri f) := of_parts _ _ f rfl rfl
theorem xcut (f : Form) : Statement (.xcut f) := of_parts _ _ f rfl rfl
theorem asstSt (f : Form) : Statement (.asstSt f) := of_parts _ _ f rfl rfl
theorem asstTol (f : Form) : Statement (.asstTol f) := of_parts _ _ f rfl rfl
theorem asstClr (f : Form) : Statement (.asstClr f) := of_parts _ _ f rfl rfl
theorem trap (f : Form) : Statement (.trap f) := of_parts _ _ f rfl rfl
theorem tvec (f : Form) : Statement (.tvec f) := of_parts _ _ f rfl rfl
theorem tret (f : Form) : Statement (.tret f) := of_parts _ _ f rfl rfl
theorem mig (f : Form) : Statement (.mig f) := of_parts _ _ f rfl rfl
theorem query (f : Form) : Statement (.query f) := of_parts _ _ f rfl rfl
theorem qkind (f : Form) : Statement (.qkind f) := of_parts _ _ f rfl rfl
theorem chksig (f : Form) : Statement (.chksig f) := of_parts _ _ f rfl rfl
theorem sigset (f : Form) : Statement (.sigset f) := of_parts _ _ f rfl rfl
theorem launch (f : Form) : Statement (.launch f) := of_parts _ _ f rfl rfl
theorem ptime (f : Form) : Statement (.ptime f) := of_parts _ _ f rfl rfl
theorem prfrd (f : Form) : Statement (.prfrd f) := of_parts _ _ f rfl rfl
theorem brkpt (f : Form) : Statement (.brkpt f) := of_parts _ _ f rfl rfl
theorem loop (f : Form) : Statement (.loop f) := of_parts _ _ f rfl rfl
theorem rrbset (f : Form) : Statement (.rrbset f) := of_parts _ _ f rfl rfl
theorem cmt (f : Form) : Statement (.cmt f) := of_parts _ _ f rfl rfl
theorem eqp (f : Form) : Statement (.eqp f) := of_parts _ _ f rfl rfl
theorem movx (f : Form) : Statement (.movx f) := of_parts _ _ f rfl rfl
theorem sigadv (f : Form) : Statement (.sigadv f) := of_parts _ _ f rfl rfl
theorem nop (f : Form) : Statement (.nop f) := of_parts _ _ f rfl rfl
theorem exposedResultLand (rid gang split : Nat) : Statement (.exposedResultLand rid gang split) := of_event _ rfl
theorem loadResultArrive (rid gang split : Nat) : Statement (.loadResultArrive rid gang split) := of_event _ rfl
theorem tailingLand (rid gang split : Nat) : Statement (.tailingLand rid gang split) := of_event _ rfl
theorem nsleepWake (rid gang split : Nat) : Statement (.nsleepWake rid gang split) := of_event _ rfl
theorem waitaWake (rid gang split : Nat) : Statement (.waitaWake rid gang split) := of_event _ rfl
theorem codeloadDone (rid gang split : Nat) : Statement (.codeloadDone rid gang split) := of_event _ rfl
theorem ckverDone (rid gang split : Nat) : Statement (.ckverDone rid gang split) := of_event _ rfl
theorem haulChunk (die agent : Nat) : Statement (.haulChunk die agent) := of_event _ rfl
theorem chunkHop (flight : Nat) : Statement (.chunkHop flight) := of_event _ rfl
theorem chunkReduction (flight : Nat) : Statement (.chunkReduction flight) := of_event _ rfl
theorem heldWriteRelease (rid : Nat) : Statement (.heldWriteRelease rid) := of_event _ rfl
theorem haulJobComplete (job : Nat) : Statement (.haulJobComplete job) := of_event _ rfl
theorem faceUnitOperation (unit : Nat) : Statement (.faceUnitOperation unit) := of_event _ rfl
theorem l1Eviction (core : CoreId) (asid line : Nat) : Statement (.l1Eviction core asid line) := of_event _ rfl
theorem pageMoveToHbm (asid vbase stack : Nat) : Statement (.pageMoveToHbm asid vbase stack) := of_event _ rfl
theorem pageMigrationComplete (asid vbase : Nat) : Statement (.pageMigrationComplete asid vbase) := of_event _ rfl
theorem migrationTimeout (asid vbase : Nat) : Statement (.migrationTimeout asid vbase) := of_event _ rfl
theorem eccError (site : EccSite) (corrected : Bool) : Statement (.eccError site corrected) := of_event _ rfl
theorem teamRetire (rid : Nat) : Statement (.teamRetire rid) := of_event _ rfl
theorem maskWatchdogExpiry (rid gang : Nat) : Statement (.maskWatchdogExpiry rid gang) := of_event _ rfl
theorem waitWatchdogExpiry (rid gang split : Nat) : Statement (.waitWatchdogExpiry rid gang split) := of_event _ rfl
theorem budgetOverrun (rid : Nat) : Statement (.budgetOverrun rid) := of_event _ rfl
theorem noopPacket (queue : Nat) : Statement (.noopPacket queue) := of_event _ rfl
theorem launchPacket (queue : Nat) : Statement (.launchPacket queue) := of_event _ rfl
theorem callPacket (queue : Nat) : Statement (.callPacket queue) := of_event _ rfl
theorem joinPacket (queue : Nat) : Statement (.joinPacket queue) := of_event _ rfl
theorem signalPacket (queue : Nat) : Statement (.signalPacket queue) := of_event _ rfl
theorem unassignedPacket (queue : Nat) : Statement (.unassignedPacket queue) := of_event _ rfl
theorem taskAdmit (queue : Nat) : Statement (.taskAdmit queue) := of_event _ rfl
theorem tiarloTranslate (handle : Nat) (kind : CoreKind) : Statement (.tiarloTranslate handle kind) := of_event _ rfl
theorem lodePeerQuery (package : Nat) (key : BitVec 256) : Statement (.lodePeerQuery package key) := of_event _ rfl
theorem lodePeerReply (package : Nat) (key : BitVec 256) (digestOk : Bool) : Statement (.lodePeerReply package key digestOk) := of_event _ rfl
theorem lodePeerTimeout (key : BitVec 256) : Statement (.lodePeerTimeout key) := of_event _ rfl
theorem reoptimise (key : BitVec 256) : Statement (.reoptimise key) := of_event _ rfl
theorem teamPlace (die : Nat) : Statement (.teamPlace die) := of_event _ rfl
theorem preload (core : CoreId) : Statement (.preload core) := of_event _ rfl
theorem preloadSwitch (core : CoreId) : Statement (.preloadSwitch core) := of_event _ rfl
theorem nativeSuspend (rid : Nat) : Statement (.nativeSuspend rid) := of_event _ rfl
theorem virtualPreciseStop (rid : Nat) : Statement (.virtualPreciseStop rid) := of_event _ rfl
theorem teamResume (rid : Nat) : Statement (.teamResume rid) := of_event _ rfl
theorem dispatcherMoveRequest (rid : Nat) : Statement (.dispatcherMoveRequest rid) := of_event _ rfl
theorem dispatcherMoveLapse (rid : Nat) : Statement (.dispatcherMoveLapse rid) := of_event _ rfl
theorem doorbell (offset : Nat) (value : BitVec 32) : Statement (.doorbell offset value) := of_event _ rfl
theorem bar2Read (offset bytes : Nat) : Statement (.bar2Read offset bytes) := of_event _ rfl
theorem bar2Write (offset : Nat) (bytes : List Byte) : Statement (.bar2Write offset bytes) := of_event _ rfl
theorem ptpsec : Statement (.ptpsec ) := of_event _ rfl
theorem evhead (value : Word) : Statement (.evhead value) := of_event _ rfl
theorem injctl (value : Word) : Statement (.injctl value) := of_event _ rfl
theorem bar4RegisterWrite (offset : Nat) (value : Word) : Statement (.bar4RegisterWrite offset value) := of_event _ rfl
theorem qcreate : Statement (.qcreate ) := of_event _ rfl
theorem qdestroy : Statement (.qdestroy ) := of_event _ rfl
theorem mapPages : Statement (.mapPages ) := of_event _ rfl
theorem unmap : Statement (.unmap ) := of_event _ rfl
theorem coload : Statement (.coload ) := of_event _ rfl
theorem counload : Statement (.counload ) := of_event _ rfl
theorem tresume : Statement (.tresume ) := of_event _ rfl
theorem tstop : Statement (.tstop ) := of_event _ rfl
theorem resync : Statement (.resync ) := of_event _ rfl
theorem fwupdate : Statement (.fwupdate ) := of_event _ rfl
theorem ingset : Statement (.ingset ) := of_event _ rfl
theorem unassignedCommand : Statement (.unassignedCommand ) := of_event _ rfl
theorem frameReceive (port : Nat) (stamp : Nat) (frame : List Byte) : Statement (.frameReceive port stamp frame) := of_event _ rfl
theorem ptpMessage (action : PtpAction) : Statement (.ptpMessage action) := of_event _ rfl
theorem linkReady (link peerPackage peerLink : Nat) : Statement (.linkReady link peerPackage peerLink) := of_event _ rfl
theorem linkDown (link : Nat) : Statement (.linkDown link) := of_event _ rfl
theorem peerSilentTimeout (package : Nat) : Statement (.peerSilentTimeout package) := of_event _ rfl
theorem recoveryNotice (package : Nat) : Statement (.recoveryNotice package) := of_event _ rfl
theorem doneNotice (package : Nat) (kept : Bool) : Statement (.doneNotice package kept) := of_event _ rfl
theorem doneNoticeTimeout (package : Nat) : Statement (.doneNoticeTimeout package) := of_event _ rfl
theorem powerClockDown (milliwatts : Nat) : Statement (.powerClockDown milliwatts) := of_event _ rfl
theorem powerClockUp (milliwatts : Nat) : Statement (.powerClockUp milliwatts) := of_event _ rfl
theorem packageReset : Statement (.packageReset ) := of_event _ rfl
theorem unitReady (bit : Nat) : Statement (.unitReady bit) := of_event _ rfl
theorem readyDeadline (bit : Nat) : Statement (.readyDeadline bit) := of_event _ rfl
theorem heartbeatLoss : Statement (.heartbeatLoss ) := of_event _ rfl
theorem activeFailureReport : Statement (.activeFailureReport ) := of_event _ rfl
theorem standbyReboot : Statement (.standbyReboot ) := of_event _ rfl
theorem mapWaitTimeout : Statement (.mapWaitTimeout ) := of_event _ rfl
theorem pcieCompletionTimeout (job chunk : Nat) : Statement (.pcieCompletionTimeout job chunk) := of_event _ rfl
theorem standbyComplexFailure : Statement (.standbyComplexFailure ) := of_event _ rfl
theorem preloadDropped (core : CoreId) : Statement (.preloadDropped core) := of_event _ rfl

end Sys2Proof.Laws.Parts
end

