-- ==== Sys2Proof/Laws/State.lean ====
section
/-! SUPPORT. One lemma for each field and each update of State: what the update leaves alone. -/

namespace Sys2Proof.Laws

open Sys2Proof.Machine

@[simp] theorem updTeam_now (s : State) (rid : Nat) (h : Team → Team) : (s.updTeam rid h).now = s.now := rfl
@[simp] theorem updTeam_ptp (s : State) (rid : Nat) (h : Team → Team) : (s.updTeam rid h).ptp = s.ptp := rfl
@[simp] theorem updTeam_cores (s : State) (rid : Nat) (h : Team → Team) : (s.updTeam rid h).cores = s.cores := rfl
@[simp] theorem updTeam_mem (s : State) (rid : Nat) (h : Team → Team) : (s.updTeam rid h).mem = s.mem := rfl
@[simp] theorem updTeam_poison (s : State) (rid : Nat) (h : Team → Team) : (s.updTeam rid h).poison = s.poison := rfl
@[simp] theorem updTeam_pages (s : State) (rid : Nat) (h : Team → Team) : (s.updTeam rid h).pages = s.pages := rfl
@[simp] theorem updTeam_jobs (s : State) (rid : Nat) (h : Team → Team) : (s.updTeam rid h).jobs = s.jobs := rfl
@[simp] theorem updTeam_nextJob (s : State) (rid : Nat) (h : Team → Team) : (s.updTeam rid h).nextJob = s.nextJob := rfl
@[simp] theorem updTeam_transits (s : State) (rid : Nat) (h : Team → Team) : (s.updTeam rid h).transits = s.transits := rfl
@[simp] theorem updTeam_nextTransit (s : State) (rid : Nat) (h : Team → Team) : (s.updTeam rid h).nextTransit = s.nextTransit := rfl
@[simp] theorem updTeam_faceReqs (s : State) (rid : Nat) (h : Team → Team) : (s.updTeam rid h).faceReqs = s.faceReqs := rfl
@[simp] theorem updTeam_lostReqs (s : State) (rid : Nat) (h : Team → Team) : (s.updTeam rid h).lostReqs = s.lostReqs := rfl
@[simp] theorem updTeam_peerJobs (s : State) (rid : Nat) (h : Team → Team) : (s.updTeam rid h).peerJobs = s.peerJobs := rfl
@[simp] theorem updTeam_peerActs (s : State) (rid : Nat) (h : Team → Team) : (s.updTeam rid h).peerActs = s.peerActs := rfl
@[simp] theorem updTeam_peerInj (s : State) (rid : Nat) (h : Team → Team) : (s.updTeam rid h).peerInj = s.peerInj := rfl
@[simp] theorem updTeam_hub (s : State) (rid : Nat) (h : Team → Team) : (s.updTeam rid h).hub = s.hub := rfl
@[simp] theorem updTeam_agenda (s : State) (rid : Nat) (h : Team → Team) : (s.updTeam rid h).agenda = s.agenda := rfl
@[simp] theorem updTeam_turn (s : State) (rid : Nat) (h : Team → Team) : (s.updTeam rid h).turn = s.turn := rfl
@[simp] theorem updTeam_hostWrites (s : State) (rid : Nat) (h : Team → Team) : (s.updTeam rid h).hostWrites = s.hostWrites := rfl
@[simp] theorem updTeam_cur (s : State) (rid : Nat) (h : Team → Team) : (s.updTeam rid h).cur = s.cur := rfl
@[simp] theorem updTeam_stepNs (s : State) (rid : Nat) (h : Team → Team) : (s.updTeam rid h).stepNs = s.stepNs := rfl
@[simp] theorem updTeam_free (s : State) (rid : Nat) (h : Team → Team) : (s.updTeam rid h).free = s.free := rfl
@[simp] theorem updTeam_hostDecls (s : State) (rid : Nat) (h : Team → Team) : (s.updTeam rid h).hostDecls = s.hostDecls := rfl
@[simp] theorem updSplit_now (s : State) (rid g k : Nat) (h : Split → Split) : (s.updSplit rid g k h).now = s.now := rfl
@[simp] theorem updSplit_ptp (s : State) (rid g k : Nat) (h : Split → Split) : (s.updSplit rid g k h).ptp = s.ptp := rfl
@[simp] theorem updSplit_cores (s : State) (rid g k : Nat) (h : Split → Split) : (s.updSplit rid g k h).cores = s.cores := rfl
@[simp] theorem updSplit_mem (s : State) (rid g k : Nat) (h : Split → Split) : (s.updSplit rid g k h).mem = s.mem := rfl
@[simp] theorem updSplit_poison (s : State) (rid g k : Nat) (h : Split → Split) : (s.updSplit rid g k h).poison = s.poison := rfl
@[simp] theorem updSplit_pages (s : State) (rid g k : Nat) (h : Split → Split) : (s.updSplit rid g k h).pages = s.pages := rfl
@[simp] theorem updSplit_jobs (s : State) (rid g k : Nat) (h : Split → Split) : (s.updSplit rid g k h).jobs = s.jobs := rfl
@[simp] theorem updSplit_nextJob (s : State) (rid g k : Nat) (h : Split → Split) : (s.updSplit rid g k h).nextJob = s.nextJob := rfl
@[simp] theorem updSplit_transits (s : State) (rid g k : Nat) (h : Split → Split) : (s.updSplit rid g k h).transits = s.transits := rfl
@[simp] theorem updSplit_nextTransit (s : State) (rid g k : Nat) (h : Split → Split) : (s.updSplit rid g k h).nextTransit = s.nextTransit := rfl
@[simp] theorem updSplit_faceReqs (s : State) (rid g k : Nat) (h : Split → Split) : (s.updSplit rid g k h).faceReqs = s.faceReqs := rfl
@[simp] theorem updSplit_lostReqs (s : State) (rid g k : Nat) (h : Split → Split) : (s.updSplit rid g k h).lostReqs = s.lostReqs := rfl
@[simp] theorem updSplit_peerJobs (s : State) (rid g k : Nat) (h : Split → Split) : (s.updSplit rid g k h).peerJobs = s.peerJobs := rfl
@[simp] theorem updSplit_peerActs (s : State) (rid g k : Nat) (h : Split → Split) : (s.updSplit rid g k h).peerActs = s.peerActs := rfl
@[simp] theorem updSplit_peerInj (s : State) (rid g k : Nat) (h : Split → Split) : (s.updSplit rid g k h).peerInj = s.peerInj := rfl
@[simp] theorem updSplit_hub (s : State) (rid g k : Nat) (h : Split → Split) : (s.updSplit rid g k h).hub = s.hub := rfl
@[simp] theorem updSplit_agenda (s : State) (rid g k : Nat) (h : Split → Split) : (s.updSplit rid g k h).agenda = s.agenda := rfl
@[simp] theorem updSplit_turn (s : State) (rid g k : Nat) (h : Split → Split) : (s.updSplit rid g k h).turn = s.turn := rfl
@[simp] theorem updSplit_hostWrites (s : State) (rid g k : Nat) (h : Split → Split) : (s.updSplit rid g k h).hostWrites = s.hostWrites := rfl
@[simp] theorem updSplit_cur (s : State) (rid g k : Nat) (h : Split → Split) : (s.updSplit rid g k h).cur = s.cur := rfl
@[simp] theorem updSplit_stepNs (s : State) (rid g k : Nat) (h : Split → Split) : (s.updSplit rid g k h).stepNs = s.stepNs := rfl
@[simp] theorem updSplit_free (s : State) (rid g k : Nat) (h : Split → Split) : (s.updSplit rid g k h).free = s.free := rfl
@[simp] theorem updSplit_hostDecls (s : State) (rid g k : Nat) (h : Split → Split) : (s.updSplit rid g k h).hostDecls = s.hostDecls := rfl
@[simp] theorem putBytes_now (s : State) (a : Nat) (bs : List Byte) : (s.putBytes a bs).now = s.now := rfl
@[simp] theorem putBytes_ptp (s : State) (a : Nat) (bs : List Byte) : (s.putBytes a bs).ptp = s.ptp := rfl
@[simp] theorem putBytes_teams (s : State) (a : Nat) (bs : List Byte) : (s.putBytes a bs).teams = s.teams := rfl
@[simp] theorem putBytes_cores (s : State) (a : Nat) (bs : List Byte) : (s.putBytes a bs).cores = s.cores := rfl
@[simp] theorem putBytes_pages (s : State) (a : Nat) (bs : List Byte) : (s.putBytes a bs).pages = s.pages := rfl
@[simp] theorem putBytes_jobs (s : State) (a : Nat) (bs : List Byte) : (s.putBytes a bs).jobs = s.jobs := rfl
@[simp] theorem putBytes_nextJob (s : State) (a : Nat) (bs : List Byte) : (s.putBytes a bs).nextJob = s.nextJob := rfl
@[simp] theorem putBytes_transits (s : State) (a : Nat) (bs : List Byte) : (s.putBytes a bs).transits = s.transits := rfl
@[simp] theorem putBytes_nextTransit (s : State) (a : Nat) (bs : List Byte) : (s.putBytes a bs).nextTransit = s.nextTransit := rfl
@[simp] theorem putBytes_faceReqs (s : State) (a : Nat) (bs : List Byte) : (s.putBytes a bs).faceReqs = s.faceReqs := rfl
@[simp] theorem putBytes_lostReqs (s : State) (a : Nat) (bs : List Byte) : (s.putBytes a bs).lostReqs = s.lostReqs := rfl
@[simp] theorem putBytes_peerJobs (s : State) (a : Nat) (bs : List Byte) : (s.putBytes a bs).peerJobs = s.peerJobs := rfl
@[simp] theorem putBytes_peerActs (s : State) (a : Nat) (bs : List Byte) : (s.putBytes a bs).peerActs = s.peerActs := rfl
@[simp] theorem putBytes_peerInj (s : State) (a : Nat) (bs : List Byte) : (s.putBytes a bs).peerInj = s.peerInj := rfl
@[simp] theorem putBytes_hub (s : State) (a : Nat) (bs : List Byte) : (s.putBytes a bs).hub = s.hub := rfl
@[simp] theorem putBytes_agenda (s : State) (a : Nat) (bs : List Byte) : (s.putBytes a bs).agenda = s.agenda := rfl
@[simp] theorem putBytes_turn (s : State) (a : Nat) (bs : List Byte) : (s.putBytes a bs).turn = s.turn := rfl
@[simp] theorem putBytes_hostWrites (s : State) (a : Nat) (bs : List Byte) : (s.putBytes a bs).hostWrites = s.hostWrites := rfl
@[simp] theorem putBytes_cur (s : State) (a : Nat) (bs : List Byte) : (s.putBytes a bs).cur = s.cur := rfl
@[simp] theorem putBytes_stepNs (s : State) (a : Nat) (bs : List Byte) : (s.putBytes a bs).stepNs = s.stepNs := rfl
@[simp] theorem putBytes_free (s : State) (a : Nat) (bs : List Byte) : (s.putBytes a bs).free = s.free := rfl
@[simp] theorem putBytes_hostDecls (s : State) (a : Nat) (bs : List Byte) : (s.putBytes a bs).hostDecls = s.hostDecls := rfl
@[simp] theorem log_now (s : State) (e : LogEntry) : (s.log e).now = s.now := rfl
@[simp] theorem log_ptp (s : State) (e : LogEntry) : (s.log e).ptp = s.ptp := rfl
@[simp] theorem log_teams (s : State) (e : LogEntry) : (s.log e).teams = s.teams := rfl
@[simp] theorem log_cores (s : State) (e : LogEntry) : (s.log e).cores = s.cores := rfl
@[simp] theorem log_mem (s : State) (e : LogEntry) : (s.log e).mem = s.mem := rfl
@[simp] theorem log_poison (s : State) (e : LogEntry) : (s.log e).poison = s.poison := rfl
@[simp] theorem log_pages (s : State) (e : LogEntry) : (s.log e).pages = s.pages := rfl
@[simp] theorem log_jobs (s : State) (e : LogEntry) : (s.log e).jobs = s.jobs := rfl
@[simp] theorem log_nextJob (s : State) (e : LogEntry) : (s.log e).nextJob = s.nextJob := rfl
@[simp] theorem log_transits (s : State) (e : LogEntry) : (s.log e).transits = s.transits := rfl
@[simp] theorem log_nextTransit (s : State) (e : LogEntry) : (s.log e).nextTransit = s.nextTransit := rfl
@[simp] theorem log_faceReqs (s : State) (e : LogEntry) : (s.log e).faceReqs = s.faceReqs := rfl
@[simp] theorem log_lostReqs (s : State) (e : LogEntry) : (s.log e).lostReqs = s.lostReqs := rfl
@[simp] theorem log_peerJobs (s : State) (e : LogEntry) : (s.log e).peerJobs = s.peerJobs := rfl
@[simp] theorem log_peerActs (s : State) (e : LogEntry) : (s.log e).peerActs = s.peerActs := rfl
@[simp] theorem log_peerInj (s : State) (e : LogEntry) : (s.log e).peerInj = s.peerInj := rfl
@[simp] theorem log_agenda (s : State) (e : LogEntry) : (s.log e).agenda = s.agenda := rfl
@[simp] theorem log_turn (s : State) (e : LogEntry) : (s.log e).turn = s.turn := rfl
@[simp] theorem log_hostWrites (s : State) (e : LogEntry) : (s.log e).hostWrites = s.hostWrites := rfl
@[simp] theorem log_cur (s : State) (e : LogEntry) : (s.log e).cur = s.cur := rfl
@[simp] theorem log_stepNs (s : State) (e : LogEntry) : (s.log e).stepNs = s.stepNs := rfl
@[simp] theorem log_free (s : State) (e : LogEntry) : (s.log e).free = s.free := rfl
@[simp] theorem log_hostDecls (s : State) (e : LogEntry) : (s.log e).hostDecls = s.hostDecls := rfl
@[simp] theorem raiseVector_now (s : State) (n : Nat) : (s.raiseVector n).now = s.now := rfl
@[simp] theorem raiseVector_ptp (s : State) (n : Nat) : (s.raiseVector n).ptp = s.ptp := rfl
@[simp] theorem raiseVector_teams (s : State) (n : Nat) : (s.raiseVector n).teams = s.teams := rfl
@[simp] theorem raiseVector_cores (s : State) (n : Nat) : (s.raiseVector n).cores = s.cores := rfl
@[simp] theorem raiseVector_mem (s : State) (n : Nat) : (s.raiseVector n).mem = s.mem := rfl
@[simp] theorem raiseVector_poison (s : State) (n : Nat) : (s.raiseVector n).poison = s.poison := rfl
@[simp] theorem raiseVector_pages (s : State) (n : Nat) : (s.raiseVector n).pages = s.pages := rfl
@[simp] theorem raiseVector_jobs (s : State) (n : Nat) : (s.raiseVector n).jobs = s.jobs := rfl
@[simp] theorem raiseVector_nextJob (s : State) (n : Nat) : (s.raiseVector n).nextJob = s.nextJob := rfl
@[simp] theorem raiseVector_transits (s : State) (n : Nat) : (s.raiseVector n).transits = s.transits := rfl
@[simp] theorem raiseVector_nextTransit (s : State) (n : Nat) : (s.raiseVector n).nextTransit = s.nextTransit := rfl
@[simp] theorem raiseVector_faceReqs (s : State) (n : Nat) : (s.raiseVector n).faceReqs = s.faceReqs := rfl
@[simp] theorem raiseVector_lostReqs (s : State) (n : Nat) : (s.raiseVector n).lostReqs = s.lostReqs := rfl
@[simp] theorem raiseVector_peerJobs (s : State) (n : Nat) : (s.raiseVector n).peerJobs = s.peerJobs := rfl
@[simp] theorem raiseVector_peerActs (s : State) (n : Nat) : (s.raiseVector n).peerActs = s.peerActs := rfl
@[simp] theorem raiseVector_peerInj (s : State) (n : Nat) : (s.raiseVector n).peerInj = s.peerInj := rfl
@[simp] theorem raiseVector_agenda (s : State) (n : Nat) : (s.raiseVector n).agenda = s.agenda := rfl
@[simp] theorem raiseVector_turn (s : State) (n : Nat) : (s.raiseVector n).turn = s.turn := rfl
@[simp] theorem raiseVector_hostWrites (s : State) (n : Nat) : (s.raiseVector n).hostWrites = s.hostWrites := rfl
@[simp] theorem raiseVector_cur (s : State) (n : Nat) : (s.raiseVector n).cur = s.cur := rfl
@[simp] theorem raiseVector_stepNs (s : State) (n : Nat) : (s.raiseVector n).stepNs = s.stepNs := rfl
@[simp] theorem raiseVector_free (s : State) (n : Nat) : (s.raiseVector n).free = s.free := rfl
@[simp] theorem raiseVector_hostDecls (s : State) (n : Nat) : (s.raiseVector n).hostDecls = s.hostDecls := rfl
@[simp] theorem close_now (v : View) : (v.close).now = v.s.now := rfl
@[simp] theorem close_ptp (v : View) : (v.close).ptp = v.s.ptp := rfl
@[simp] theorem close_cores (v : View) : (v.close).cores = v.s.cores := rfl
@[simp] theorem close_mem (v : View) : (v.close).mem = v.s.mem := rfl
@[simp] theorem close_poison (v : View) : (v.close).poison = v.s.poison := rfl
@[simp] theorem close_pages (v : View) : (v.close).pages = v.s.pages := rfl
@[simp] theorem close_jobs (v : View) : (v.close).jobs = v.s.jobs := rfl
@[simp] theorem close_nextJob (v : View) : (v.close).nextJob = v.s.nextJob := rfl
@[simp] theorem close_transits (v : View) : (v.close).transits = v.s.transits := rfl
@[simp] theorem close_nextTransit (v : View) : (v.close).nextTransit = v.s.nextTransit := rfl
@[simp] theorem close_faceReqs (v : View) : (v.close).faceReqs = v.s.faceReqs := rfl
@[simp] theorem close_lostReqs (v : View) : (v.close).lostReqs = v.s.lostReqs := rfl
@[simp] theorem close_peerJobs (v : View) : (v.close).peerJobs = v.s.peerJobs := rfl
@[simp] theorem close_peerActs (v : View) : (v.close).peerActs = v.s.peerActs := rfl
@[simp] theorem close_peerInj (v : View) : (v.close).peerInj = v.s.peerInj := rfl
@[simp] theorem close_hub (v : View) : (v.close).hub = v.s.hub := rfl
@[simp] theorem close_agenda (v : View) : (v.close).agenda = v.s.agenda := rfl
@[simp] theorem close_turn (v : View) : (v.close).turn = v.s.turn := rfl
@[simp] theorem close_hostWrites (v : View) : (v.close).hostWrites = v.s.hostWrites := rfl
@[simp] theorem close_cur (v : View) : (v.close).cur = v.s.cur := rfl
@[simp] theorem close_stepNs (v : View) : (v.close).stepNs = v.s.stepNs := rfl
@[simp] theorem close_free (v : View) : (v.close).free = v.s.free := rfl
@[simp] theorem close_hostDecls (v : View) : (v.close).hostDecls = v.s.hostDecls := rfl
@[simp] theorem setCore_now (s : State) (c : CoreSt) : (s.setCore c).now = s.now := by unfold State.setCore; split <;> rfl
@[simp] theorem setCore_ptp (s : State) (c : CoreSt) : (s.setCore c).ptp = s.ptp := by unfold State.setCore; split <;> rfl
@[simp] theorem setCore_teams (s : State) (c : CoreSt) : (s.setCore c).teams = s.teams := by unfold State.setCore; split <;> rfl
@[simp] theorem setCore_mem (s : State) (c : CoreSt) : (s.setCore c).mem = s.mem := by unfold State.setCore; split <;> rfl
@[simp] theorem setCore_poison (s : State) (c : CoreSt) : (s.setCore c).poison = s.poison := by unfold State.setCore; split <;> rfl
@[simp] theorem setCore_pages (s : State) (c : CoreSt) : (s.setCore c).pages = s.pages := by unfold State.setCore; split <;> rfl
@[simp] theorem setCore_jobs (s : State) (c : CoreSt) : (s.setCore c).jobs = s.jobs := by unfold State.setCore; split <;> rfl
@[simp] theorem setCore_nextJob (s : State) (c : CoreSt) : (s.setCore c).nextJob = s.nextJob := by unfold State.setCore; split <;> rfl
@[simp] theorem setCore_transits (s : State) (c : CoreSt) : (s.setCore c).transits = s.transits := by unfold State.setCore; split <;> rfl
@[simp] theorem setCore_nextTransit (s : State) (c : CoreSt) : (s.setCore c).nextTransit = s.nextTransit := by unfold State.setCore; split <;> rfl
@[simp] theorem setCore_faceReqs (s : State) (c : CoreSt) : (s.setCore c).faceReqs = s.faceReqs := by unfold State.setCore; split <;> rfl
@[simp] theorem setCore_lostReqs (s : State) (c : CoreSt) : (s.setCore c).lostReqs = s.lostReqs := by unfold State.setCore; split <;> rfl
@[simp] theorem setCore_peerJobs (s : State) (c : CoreSt) : (s.setCore c).peerJobs = s.peerJobs := by unfold State.setCore; split <;> rfl
@[simp] theorem setCore_peerActs (s : State) (c : CoreSt) : (s.setCore c).peerActs = s.peerActs := by unfold State.setCore; split <;> rfl
@[simp] theorem setCore_peerInj (s : State) (c : CoreSt) : (s.setCore c).peerInj = s.peerInj := by unfold State.setCore; split <;> rfl
@[simp] theorem setCore_hub (s : State) (c : CoreSt) : (s.setCore c).hub = s.hub := by unfold State.setCore; split <;> rfl
@[simp] theorem setCore_agenda (s : State) (c : CoreSt) : (s.setCore c).agenda = s.agenda := by unfold State.setCore; split <;> rfl
@[simp] theorem setCore_turn (s : State) (c : CoreSt) : (s.setCore c).turn = s.turn := by unfold State.setCore; split <;> rfl
@[simp] theorem setCore_hostWrites (s : State) (c : CoreSt) : (s.setCore c).hostWrites = s.hostWrites := by unfold State.setCore; split <;> rfl
@[simp] theorem setCore_cur (s : State) (c : CoreSt) : (s.setCore c).cur = s.cur := by unfold State.setCore; split <;> rfl
@[simp] theorem setCore_stepNs (s : State) (c : CoreSt) : (s.setCore c).stepNs = s.stepNs := by unfold State.setCore; split <;> rfl
@[simp] theorem setCore_free (s : State) (c : CoreSt) : (s.setCore c).free = s.free := by unfold State.setCore; split <;> rfl
@[simp] theorem setCore_hostDecls (s : State) (c : CoreSt) : (s.setCore c).hostDecls = s.hostDecls := by unfold State.setCore; split <;> rfl

end Sys2Proof.Laws
end

