-- ==== Sys2Proof/Laws/Tile.lean ====
section
/-! SUPPORT. Tiles: the sums that a tile carries follow its elements through every change of them (R254). -/

namespace Sys2Proof.Machine

/-- The carried sums agree with the elements, line by line. -/
theorem Tile.misSum_eq_none_iff (t : Tile) : t.misSum = none ↔
    (∀ i < 64, t.sumRows.getD i 0 = t.rowSums.getD i 0) ∧ ∀ i < 64, t.sumCols.getD i 0 = t.colSums.getD i 0 := by
  unfold Tile.misSum
  simp only
  split
  · rename_i i hi
    have h := List.find?_some hi
    have hm := List.mem_of_find?_eq_some hi
    simp only [List.mem_range] at hm
    simp only [bne_iff_ne, ne_eq] at h
    constructor
    · intro e; cases e
    · intro e; exact absurd (e.1 i hm) h
  · rename_i hr
    rw [List.find?_eq_none] at hr
    simp only [List.mem_range, bne_iff_ne, ne_eq, Decidable.not_not] at hr
    rw [Option.map_eq_none_iff, List.find?_eq_none]
    simp only [List.mem_range, bne_iff_ne, ne_eq, Decidable.not_not]
    exact ⟨fun h => ⟨hr, h⟩, fun h => h.2⟩

/-- A changed sum, carried by the difference that the change made, is the new sum. -/
theorem assay_carried (c : Nat) (o w : Int) (h : (o % assayP).toNat = c) :
    (((c : Int) + ((w % assayP).toNat : Nat) - ((o % assayP).toNat : Nat)) % assayP).toNat = (w % assayP).toNat := by
  have hp : (0 : Int) < assayP := by decide
  have ho := Int.emod_nonneg o (ne_of_gt hp)
  have hw := Int.emod_nonneg w (ne_of_gt hp)
  have hl := Int.emod_lt_of_pos w hp
  have e : (c : Int) + ((w % assayP).toNat : Int) - ((o % assayP).toNat : Int) = w % assayP := by omega
  rw [e, Int.emod_eq_of_lt hw hl]

/-- Sums carried by their change are the new sums, for 64 lines. -/
theorem assay_step (now old carried : List Nat) (w o : Nat → Int) (hn : now = (List.range 64).map (fun i => (w i % assayP).toNat))
    (ho : old = (List.range 64).map (fun i => (o i % assayP).toNat)) (i : Nat) (hi : i < 64) (hs : old.getD i 0 = carried.getD i 0) :
    now.getD i 0 = ((List.range 64).map (fun i => (((carried.getD i 0 : Nat) : Int) + (now.getD i 0 : Nat) - (old.getD i 0 : Nat)) % assayP |>.toNat)).getD i 0 := by
  subst hn ho
  simp only [List.getD_eq_getElem?_getD, List.getElem?_map, List.getElem?_range hi, Option.map_some, Option.getD_some] at hs ⊢
  rw [assay_carried _ _ _ hs]

theorem Tile.sumRows_shape (t : Tile) : ∃ w : Nat → Int, t.sumRows = (List.range 64).map (fun i => (w i % assayP).toNat) :=
  ⟨fun i => (List.range 64).foldl (fun s j => s + (t.elem (64 * i + j)).1) 0, by rw [Tile.sumRows]⟩

theorem Tile.sumCols_shape (t : Tile) : ∃ w : Nat → Int, t.sumCols = (List.range 64).map (fun i => (w i % assayP).toNat) :=
  ⟨fun j => (List.range 64).foldl (fun s i => s + (t.elem (64 * i + j)).1) 0, by rw [Tile.sumCols]⟩

/-- The sums depend on the elements alone. -/
theorem Tile.sums_congr {t u : Tile} (h : t.elems = u.elems) : t.sumRows = u.sumRows ∧ t.sumCols = u.sumCols := by
  have e : t.elem = u.elem := by funext i; unfold Tile.elem; rw [h]
  unfold Tile.sumRows Tile.sumCols
  rw [e]
  exact ⟨rfl, rfl⟩

/-- A tile whose sums agree agrees again after its elements were replaced. -/
theorem Tile.misSum_setElems (t : Tile) (f : Nat → Int × Nat) (h : t.misSum = none) : (t.setElems f).misSum = none := by
  rw [Tile.misSum_eq_none_iff] at h ⊢
  obtain ⟨w, hw⟩ := (t.setElems f).sumRows_shape
  obtain ⟨o, ho⟩ := t.sumRows_shape
  obtain ⟨w', hw'⟩ := (t.setElems f).sumCols_shape
  obtain ⟨o', ho'⟩ := t.sumCols_shape
  generalize hu : t.setElems f = u at hw hw' ⊢
  unfold Tile.setElems at hu
  simp only at hu
  generalize hv : (List.range 4096).map (fun i => (BitVec.ofInt 64 (f i).1, (f i).2)) = es at hu
  obtain ⟨er, ec⟩ := Tile.sums_congr (t := { t with elems := es }) (u := u) (by rw [← hu])
  rw [er, ec] at hu
  have hr : u.rowSums = (List.range 64).map (fun i => (((t.rowSums.getD i 0 : Nat) : Int) + (u.sumRows.getD i 0 : Nat) - (t.sumRows.getD i 0 : Nat)) % assayP |>.toNat) := by
    conv_lhs => rw [← hu]
  have hc : u.colSums = (List.range 64).map (fun i => (((t.colSums.getD i 0 : Nat) : Int) + (u.sumCols.getD i 0 : Nat) - (t.sumCols.getD i 0 : Nat)) % assayP |>.toNat) := by
    conv_lhs => rw [← hu]
  constructor <;> intro i hi
  · rw [hr]; exact assay_step _ _ _ w o hw ho i hi (h.1 i hi)
  · rw [hc]; exact assay_step _ _ _ w' o' hw' ho' i hi (h.2 i hi)

/-- The count of groups takes no part in the sums. -/
theorem Tile.misSum_grp (t : Tile) (n : Nat) : ({ t with grp := n } : Tile).misSum = t.misSum := by
  obtain ⟨er, ec⟩ := Tile.sums_congr (t := { t with grp := n }) (u := t) rfl
  unfold Tile.misSum
  rw [er, ec]

/-- So it does after a multiply-accumulate. -/
theorem Tile.misSum_mma (t : Tile) (x : List GroupStep) (a b : List (List Group)) (h : t.misSum = none) : (t.mma x a b).1.misSum = none := by
  unfold Tile.mma
  simp only
  rw [Tile.misSum_grp]
  exact Tile.misSum_setElems t _ h

end Sys2Proof.Machine
end

