-- ==== Sys2Proof/Tests/Slice0.lean ====
section
/-! SUPPORT. Tests: ill-formed forms that the checks refuse, words written out from the spec's encodings, results computed by
hand from the spec's tables, and for every statement with hypotheses a machine and operands that meet them. -/

set_option Elab.async false

open Sys2Proof Sys2Proof.Machine Sys2Proof.Safety

namespace Sys2Proof.Tests

/-! ## A small machine: one team of one gang on D-core 0, its registers holding values, one page mapped -/

/-- Registers 0 to 71 are 32-bit lane registers in two declarations (0 to 31, 32 to 71), 72 to 79 64-bit ones, 80 to 87 uniform of 64 bits, 88 to 95 of 32 bits,
96 to 99 predicates, 100 and 101 tiles, 102 to 105 8-bit and 16-bit lane registers, 106 to 109 uniform of 8 and 16 bits. -/
def tDecls : List Decl :=
  [⟨.lane 32, 32⟩, ⟨.lane 32, 40⟩, ⟨.lane 64, 8⟩, ⟨.uni 64, 8⟩, ⟨.uni 32, 8⟩, ⟨.pred, 4⟩, ⟨.acc, 2⟩, ⟨.lane 8, 2⟩, ⟨.lane 16, 2⟩, ⟨.uni 8, 2⟩, ⟨.uni 16, 2⟩]

/-- Two joins and a tret, as section 15 writes them. -/
def tCode : List Word := [0x0917C7FFE0FE0FE0, 0x0917C7FFE0FE0FE0, 0x100BC7FFE0FE0FE0]

def tKernel : Kernel := { fetchKernel 1 tCode false with decls := tDecls, acc := 2, scr := 16384, hauls := 2 }

def tJregs : Tab JvVal :=
  [(0, .lane (tab32 (fun l => BitVec.ofNat 64 (l + 1)))), (1, .lane (tab32 (fun _ => 3))), (2, .lane (tab32 (fun _ => 0xFFFFFFFF))),
   (80, .uni 0x100000), (82, .uni 0x4000), (83, .uni 64), (84, .uni 0x10000), (85, .uni 0x101000), (86, .uni 0x104000), (87, .uni 1),
   (88, .uni 1), (89, .uni 2), (90, .uni 8), (91, .uni 64), (95, .uni 0x404), (96, .pred 0xFF)]

/-- One call deep, with a latched A operand of depth 16. -/
def tGang : Gang :=
  let g := newGang tKernel false none 0 0
  let latch : ALatch := { k := 16, afmt := 0, w16 := false, bsc := false, desc := 0, bytes := List.replicate 1024 0, scales := [] }
  { g with jregs := tJregs, latch := some latch
           splits := g.splits.map (fun sp => if sp.used then { sp with pc := 0x10008, ret := [(0x10000, 0, 0)] } else sp) }

/-- The words of a map of two dimensions of 16-bit elements: base, formats, strides 2 and 64, extents 8 and windows 4. -/
def tMap : List Word :=
  [0x0100000000105000, 0x0600000000000000, 0x0600000000000000, 2, 64, 0, 0, 0, 0, 0, 0x0000000800000008, 0, 0, 0, 0x00040004, 0]

/-- A join at 0x100000, the map at 0x104000. -/
def tMem : Memory := (Memory.writeN [] 0 (bytesOfWords (tCode.take 1))).writeN 0x4000 (bytesOfWords tMap)

def tTeam : Team := { fetchTeam tKernel 0 0 with gangs := [tGang] }

def tPage : Page := { asid := 1, vbase := 0x100000, size := 65536, place := .die 0 0 0, readOnly := false, pinned := false, parked := none }

def tQueue : Queue :=
  { num := 2, ring := 0x102000, size := 4, asid := 1, cls := 0, weight := 1, rptr := 0, device := true, vector := 0, wr := 0, rd := 0
    ahead := [], look := [], halted := none, staged := false, credit := 0, lastDrop := none }

def tState : State :=
  { State.reset with teams := [tTeam], pages := [tPage], mem := tMem, cur := some { rid := 0, gang := 0, split := 0 }
                     hub := { Hub.initial with queues := [tQueue] } }

/-- The same machine with the gang changed, and with its split changed. -/
def withGang (f : Gang → Gang) : State := { tState with teams := [{ tTeam with gangs := [f tGang] }] }
def withSplit (f : Split → Split) : State := withGang (fun g => g.updSplit 0 f)

/-! ## Forms -/

/-- Operands, short. -/
def r (n : Nat) : Operand := .reg n false
def im (x : Word) : Operand := .imm 1 x

/-- A form of a type whose other fields hold their defaults, without and with a modifier word. -/
def z (ty : Nat) (d a b c : Operand) : JvForm :=
  { gneg := false, guard := .always, ty := ty, d := d, a := a, b := b, c := c, off := 0, pol := 0, spc := 0, ord := 0, scp := 0
    rm := 0, sub := 0, hasMod := false }
def zm (ty : Nat) (d a b c : Operand) : JvForm := { z ty d a b c with hasMod := true }

/-- The form meets the hypotheses of Executes in the open context. -/
def holdsIn (o : Op) (f : Form) (s : State) : Bool :=
  match View.open s with
  | none => false
  | some v => (Form.problem o f).isNone && lanes o f v != 0 && (Raise.first ((v.enter o f).conditions o f (ownChecks o f))).isNone

/-- The same, with a further condition on the context as the effect finds it, the operands and E. -/
def holdsWith (o : Op) (f : Form) (s : State) (p : View → Args → Mask → Bool) : Bool :=
  match View.open s with
  | none => false
  | some v => holdsIn o f s && p (ready o f v) (f.args o) (lanes o f v)

theorem executes_of_holds {o : Op} {f : Form} {s : State} (h : holdsIn o f s = true) : ∃ v, Executes o f s v := by
  unfold holdsIn at h
  split at h
  · cases h
  · rename_i v hv
    simp only [Bool.and_eq_true, bne_iff_ne, ne_eq, Option.isNone_iff_eq_none] at h
    exact ⟨v, hv, h.1.1, h.1.2, h.2⟩

theorem executes_of_holdsWith {o : Op} {f : Form} {s : State} {p : View → Args → Mask → Bool} (h : holdsWith o f s p = true) :
    ∃ v, Executes o f s v ∧ p (ready o f v) (f.args o) (lanes o f v) = true := by
  unfold holdsWith at h
  split at h
  · cases h
  · rename_i v hv
    obtain ⟨h1, h2⟩ := Bool.and_eq_true_iff.1 h
    obtain ⟨w, hw⟩ := executes_of_holds h1
    have e : w = v := Option.some.inj (hw.opened.symm.trans hv)
    exact ⟨v, e ▸ hw, h2⟩
/-! ## Words written out from R126 to R137, and the forms they stand for -/

def formInt : List (List Word × Op × JvForm) :=
  [([0x010157f028000001, 0x00000000fe000001], .add, { zm 5 (r 40) (r 0) (r 1) .none with sub := 1 }),
   ([0x010547f028000001], .sub, (z 5 (r 40) (r 0) (r 1) .none)),
   ([0x010947f028000001], .mul, (z 5 (r 40) (r 0) (r 1) .none)),
   ([0x010d47f028000001], .mulhi, (z 5 (r 40) (r 0) (r 1) .none)),
   ([0x011157f028000001, 0x0000000000100000], .mad, (zm 5 (r 40) (r 0) (r 1) (r 1))),
   ([0x011547f028000001], .div, (z 5 (r 40) (r 0) (r 1) .none)),
   ([0x011947f028000001], .rem, (z 5 (r 40) (r 0) (r 1) .none)),
   ([0x011d47f028000001], .min, (z 5 (r 40) (r 0) (r 1) .none)),
   ([0x012147f028000001], .max, (z 5 (r 40) (r 0) (r 1) .none)),
   ([0x012547f028000fe0], .abs, (z 5 (r 40) (r 0) .none .none)),
   ([0x012947f028000fe0], .neg, (z 5 (r 40) (r 0) .none .none)),
   ([0x012d17f028000001, 0x0000000000100000], .dp4, (zm 4 (r 40) (r 0) (r 1) (r 1))),
   ([0x0131d7f053050057, 0x00000000fe000003], .lea, { zm 7 (r 83) (r 80) (r 87) .none with sub := 3 })]

def formLogic : List (List Word × Op × JvForm) :=
  [([0x020147f028000001], .and, (z 5 (r 40) (r 0) (r 1) .none)),
   ([0x020547f028000001], .or, (z 5 (r 40) (r 0) (r 1) .none)),
   ([0x020947f028000001], .xor, (z 5 (r 40) (r 0) (r 1) .none)),
   ([0x020d47f028000fe0], .not, (z 5 (r 40) (r 0) .none .none)),
   ([0x021147f028000001], .shl, (z 5 (r 40) (r 0) (r 1) .none)),
   ([0x021547f028000001], .shr, (z 5 (r 40) (r 0) (r 1) .none)),
   ([0x021947f028000001], .sar, (z 5 (r 40) (r 0) (r 1) .none)),
   ([0x021d47f028000001], .rotl, (z 5 (r 40) (r 0) (r 1) .none)),
   ([0x022147f028000fe0], .popc, (z 5 (r 40) (r 0) .none .none)),
   ([0x022547f028000fe0], .clz, (z 5 (r 40) (r 0) .none .none)),
   ([0x022947f028000fe0], .brev, (z 5 (r 40) (r 0) .none .none)),
   ([0x022d47f028000001], .bfx, (z 5 (r 40) (r 0) (r 1) .none)),
   ([0x023157f028000001, 0x0000000005f00000], .bfi, (zm 5 (r 40) (r 0) (r 1) (r 95)))]

def formMove : List (List Word × Op × JvForm) :=
  [([0x030147f028002fe0], .mov, (z 5 (r 40) (r 2) .none .none)),
   ([0x030557f028000001, 0x00000008fe000000], .movi, { zm 5 (r 40) (r 0) (r 1) .none with off := 8 }),
   ([0x030957f028000001, 0x0000000006000000], .sel, (zm 5 (r 40) (r 0) (r 1) (r 96))),
   ([0x030d57f061000001, 0x00000000fe000002], .setp, { zm 5 (r 97) (r 0) (r 1) .none with sub := 2 }),
   ([0x0403c7f061060062], .pand, (z 15 (r 97) (r 96) (r 98) .none)),
   ([0x0407c7f061060062], .por, (z 15 (r 97) (r 96) (r 98) .none)),
   ([0x040bc7f061060062], .pxor, (z 15 (r 97) (r 96) (r 98) .none)),
   ([0x040fc7f061060fe0], .pnot, (z 15 (r 97) (r 96) .none .none))]

def formFloat : List (List Word × Op × JvForm) :=
  [([0x050287f028f04f02], .fadd, (z 10 (r 40) (.lit 4) (.lit 2) .none)),
   ([0x050687f028f04f02], .fsub, (z 10 (r 40) (.lit 4) (.lit 2) .none)),
   ([0x050a87f028f04f02], .fmul, (z 10 (r 40) (.lit 4) (.lit 2) .none)),
   ([0x050e97f028f04f02, 0x0000000000100000], .ffma, (zm 10 (r 40) (.lit 4) (.lit 2) (r 1))),
   ([0x051287f028f04f02], .fmin, (z 10 (r 40) (.lit 4) (.lit 2) .none)),
   ([0x051687f028f04f02], .fmax, (z 10 (r 40) (.lit 4) (.lit 2) .none)),
   ([0x051a87f028f04fe0], .fabs, (z 10 (r 40) (.lit 4) .none .none)),
   ([0x051e87f028f04fe0], .fneg, (z 10 (r 40) (.lit 4) .none .none)),
   ([0x052287f028f04f02], .fdiv, (z 10 (r 40) (.lit 4) (.lit 2) .none)),
   ([0x052687f028f04fe0], .fsqrt, (z 10 (r 40) (.lit 4) .none .none)),
   ([0x052a87f028f04fe0], .frcp, (z 10 (r 40) (.lit 4) .none .none)),
   ([0x052e87f028f04fe0], .frsq, (z 10 (r 40) (.lit 4) .none .none)),
   ([0x053287f028f04fe0], .fex2, (z 10 (r 40) (.lit 4) .none .none)),
   ([0x053687f028f04fe0], .flg2, (z 10 (r 40) (.lit 4) .none .none)),
   ([0x053a87f028f04f02], .fscale, (z 10 (r 40) (.lit 4) (.lit 2) .none))]

def formConvert : List (List Word × Op × JvForm) :=
  [([0x060297f061000f02, 0x00000000fe000002], .fsetp, { zm 10 (r 97) (r 0) (.lit 2) .none with sub := 2 }),
   ([0x060687f028f01fe0], .fclass, (z 10 (r 40) (.lit 1) .none .none)),
   ([0x060a97f028ff1fe0, 0x40200000], .frnd, (z 10 (r 40) (im 0x40200000) .none .none)),
   ([0x060e17f068f01fe0, 0x00000000fe00000a], .fcvt, { zm 8 (r 104) (.lit 1) .none .none with sub := 10 }),
   ([0x061127f028ff1fe0, 0x40200000, 0x00000000fe00000a], .f2i, { zm 4 (r 40) (im 0x40200000) .none .none with sub := 10 }),
   ([0x061697f028f03fe0, 0x00000000fe000005], .i2f, { zm 10 (r 40) (.lit 3) .none .none with sub := 5 }),
   ([0x0702c7f028f01f02], .fadd2, (z 11 (r 40) (.lit 1) (.lit 2) .none)),
   ([0x0706c7f028f01f02], .fmul2, (z 11 (r 40) (.lit 1) (.lit 2) .none)),
   ([0x070ad7f028f01f02, 0x0000000000100000], .ffma2, (zm 11 (r 40) (.lit 1) (.lit 2) (r 1))),
   ([0x070ed7f028f01f02, 0x0000000000100000], .fdot2, (zm 11 (r 40) (.lit 1) (.lit 2) (r 1)))]

def formGang : List (List Word × Op × JvForm) :=
  [([0x080147f028f80fe0], .rdsr, (z 5 (r 40) (.sys 0) .none .none)),
   ([0x0807c7f061f00fe0], .elect, (z 15 (r 97) (.lit 0) .none .none)),
   ([0x080947f028060fe0], .vote, (z 5 (r 40) (r 96) .none .none)),
   ([0x080d47f028001fe0], .matchLanes, (z 5 (r 40) (r 1) .none .none)),
   ([0x081157f028000f01, 0x00000000fe000003], .shfl, { zm 5 (r 40) (r 0) (.lit 1) .none with sub := 3 }),
   ([0x081547f05c000fe0], .redux, (z 5 (r 92) (r 0) .none .none)),
   ([0x081947f028000fe0], .scan, (z 5 (r 40) (r 0) .none .none))]

def formControl : List (List Word × Op × JvForm) :=
  [([0x0903e7ffe0ff1ff1, 0x8, 0x8], .bra, (z 15 .none (im 0x8) (im 0x8) .none)),
   ([0x0907d7ffe0054ff1, 0x0], .brx, (z 15 .none (r 84) (im 0x0) .none)),
   ([0x090bd7ffe0ff1fe0, 0x8], .call, (z 15 .none (im 0x8) .none .none)),
   ([0x090fc7ffe0054fe0], .callx, (z 15 .none (r 84) .none .none)),
   ([0x0913c7ffe0fe0fe0], .ret, (z 15 .none .none .none .none)),
   ([0x0917c7ffe0fe0fe0], .join, (z 15 .none .none .none .none)),
   ([0x091bc7ffe0fe0fe0], .exit, (z 15 .none .none .none .none))]

def formWait : List (List Word × Op × JvForm) :=
  [([0x0a03c7ffe0fe0fe0], .yield, (z 15 .none .none .none .none)),
   ([0x0a05c7ffe0052fe0], .nsleep, (z 7 .none (r 82) .none .none)),
   ([0x0a09d7f053fe0051, 0x00000008fe010000], .waita, { zm 7 (r 83) .none (r 81) .none with off := 8, spc := 2 }),
   ([0x0a0fc7ffe0058058], .bar, (z 15 .none (r 88) (r 88) .none)),
   ([0x0a13c7ffe0058058], .barar, (z 15 .none (r 88) (r 88) .none)),
   ([0x0a17c7ffe0058fe0], .barwt, (z 15 .none (r 88) .none .none)),
   ([0x0b01c7ffe0052053], .setfmt, (z 7 .none (r 82) (r 83) .none)),
   ([0x0b05c7f053fe0fe0], .getfmt, (z 7 (r 83) .none .none .none))]

def formMemory : List (List Word × Op × JvForm) :=
  [([0x0c0157f028050fe0, 0x00000004fe018000], .ld, { zm 5 (r 40) (r 80) .none .none with off := 4, spc := 3 }),
   ([0x0c0557ffe0051000, 0x00000040fe010000], .st, { zm 5 .none (r 81) (r 0) .none with off := 64, spc := 2 }),
   ([0x0c09d7f057050fe0, 0x00000008fe018000], .ldu, { zm 7 (r 87) (r 80) .none .none with off := 8, spc := 3 }),
   ([0x0c0d57f028050058, 0x00000004fe018000], .atom, { zm 5 (r 40) (r 80) (r 88) .none with off := 4, spc := 3 }),
   ([0x0c1157f028051058, 0x0000000405910000], .cas, { zm 5 (r 40) (r 81) (r 88) (r 89) with off := 4, spc := 2 }),
   ([0x0c1597f053050057, 0x00000000fe018000], .aqadd, { zm 6 (r 83) (r 80) (r 87) .none with spc := 3 }),
   ([0x0c1bd7ffe0fe0fe0, 0x00000000fe003803], .fence, { zm 15 .none .none .none .none with ord := 3, sub := 3, scp := 4 }),
   ([0x0c1fd7ffe0050fe0, 0x00000000fe018000], .pref, { zm 15 .none (r 80) .none .none with spc := 3 }),
   ([0x0c2157f028050001, 0x00000000fe018000], .fgath, { zm 5 (r 40) (r 80) (r 1) .none with spc := 3 }),
   ([0x0c2547f05c05005a], .codeload, (z 5 (r 92) (r 80) (r 90) .none))]

def formHaul : List (List Word × Op × JvForm) :=
  [([0x0d03d7ffe0050055, 0x0000000005300001], .hcopy, { zm 15 .none (r 80) (r 85) (r 83) with sub := 1 }),
   ([0x0d03d7ffe0050055, 0x0000000005700008], .hcopyCk, { zm 15 .none (r 80) (r 85) (r 87) with sub := 8 }),
   ([0x0d07d7ffe0056055, 0x0000000005d00000], .htens, (zm 15 .none (r 86) (r 85) (r 93))),
   ([0x0d07d7ffe0056055, 0x0000000005d00008], .htensSt, { zm 15 .none (r 86) (r 85) (r 93) with sub := 8 }),
   ([0x0d0bd7ffe0056055, 0x0000000205000000], .hgath, { zm 15 .none (r 86) (r 85) (r 80) with off := 2 }),
   ([0x0d0fd7ffe0056055, 0x0000000205000000], .hscat, { zm 15 .none (r 86) (r 85) (r 80) with off := 2 }),
   ([0x0d13d7ffe0050055, 0x0000000005700000], .hred, (zm 15 .none (r 80) (r 85) (r 87))),
   ([0x0d17d7ffe0050055, 0x0000000105300000], .hmcast, { zm 15 .none (r 80) (r 85) (r 83) with off := 1 }),
   ([0x0d1bd7ffe0050057, 0x0000000005300000], .hfill, (zm 15 .none (r 80) (r 87) (r 83))),
   ([0x0d1fd7ffe0fe0fe0, 0x00000002fe000000], .hwait, { zm 15 .none .none .none .none with off := 2 }),
   ([0x0d23d7f05cfe0fe0, 0x00000003fe000000], .htest, { zm 15 (r 92) .none .none .none with off := 3 }),
   ([0x0e0117f053050055, 0x0000000005700000], .ckpack, (zm 4 (r 83) (r 80) (r 85) (r 87))),
   ([0x0e0117f053050055, 0x0000000005700008], .ckpackUnpk, { zm 4 (r 83) (r 80) (r 85) (r 87) with sub := 8 }),
   ([0x0e0557f05c050058, 0x0000000005100000], .ckver, (zm 5 (r 92) (r 80) (r 88) (r 81))),
   ([0x0e09d7f053050fe0, 0x00000000fe000006], .ckinfo, { zm 7 (r 83) (r 80) .none .none with sub := 6 })]

def formMatrix : List (List Word × Op × JvForm) :=
  [([0x0f03d7f064051051, 0x00000010fe000000], .mma, { zm 15 (r 100) (r 81) (r 81) .none with off := 16 }),
   ([0x0f03d7f064fe0051, 0x00000000fe000001], .mmaRa, { zm 15 (r 100) .none (r 81) .none with sub := 1 }),
   ([0x0f07c7f064fe0fe0], .accz, (z 15 (r 100) .none .none .none)),
   ([0x0f0997f064051fe0, 0x00000000fe01003f], .accld, { zm 6 (r 100) (r 81) .none .none with spc := 2, sub := 63 }),
   ([0x0f0d97ffe0051064, 0x00000000fe01003f], .accst, { zm 6 .none (r 81) (r 100) .none with spc := 2, sub := 63 }),
   ([0x0f1187f053065fe0], .accmax, (z 6 (r 83) (r 101) .none .none)),
   ([0x0f1507f065f03fe0], .accanc, (z 4 (r 101) (.lit 3) .none .none)),
   ([0x0f1807ffe0051fe0], .tri, (z 0 .none (r 81) .none .none)),
   ([0x0f1d47f020000fe0], .xcut, (z 5 (r 32) (r 0) .none .none)),
   ([0x0f21c7f053065fe0], .asstSt, (z 7 (r 83) (r 101) .none .none)),
   ([0x0f2297f065058fe0, 0x00000000fe000001], .asstTol, { zm 10 (r 101) (r 88) .none .none with sub := 1 }),
   ([0x0f23d7f065fe0fe0, 0x00000000fe000002], .asstClr, { zm 15 (r 101) .none .none .none with sub := 2 })]

def formSystem : List (List Word × Op × JvForm) :=
  [([0x1003c7ffe0f05fe0], .trap, (z 15 .none (.lit 5) .none .none)),
   ([0x1005c7ffe0054052], .tvec, (z 7 .none (r 84) (r 82) .none)),
   ([0x100bc7ffe0fe0fe0], .tret, (z 15 .none .none .none .none)),
   ([0x100d47f05cf01fe0], .mig, (z 5 (r 92) (.lit 1) .none .none)),
   ([0x1011c7f053f02fe0], .query, (z 7 (r 83) (.lit 2) .none .none)),
   ([0x101547f05cfe0fe0], .qkind, (z 5 (r 92) .none .none .none)),
   ([0x1019c7ffe0051fe0], .chksig, (z 7 .none (r 81) .none .none)),
   ([0x101dc7ffe0052fe0], .sigset, (z 7 .none (r 82) .none .none)),
   ([0x102147f05c055059], .launch, (z 5 (r 92) (r 85) (r 89) .none)),
   ([0x1025c7f053fe0fe0], .ptime, (z 7 (r 83) .none .none .none)),
   ([0x1029c7f053f01fe0], .prfrd, (z 7 (r 83) (.lit 1) .none .none)),
   ([0x102fc7ffe0f05fe0], .brkpt, (z 15 .none (.lit 5) .none .none))]

/-- The words decode to the operation with the form. -/
def readsAs (x : List Word × Op × JvForm) : Bool := decodeJv x.1 == .ok x.2.1 x.2.2 x.1.length

/-- The form executes in a state. -/
def goesIn (s : State) (x : List Word × Op × JvForm) : Bool := holdsIn x.2.1 (.jv x.2.2) s


theorem test_decode_int_logic_move : (formInt ++ formLogic ++ formMove).all readsAs = true := by decide +kernel
theorem test_decode_float_convert : (formFloat ++ formConvert).all readsAs = true := by decide +kernel
theorem test_decode_gang_control_wait : (formGang ++ formControl ++ formWait).all readsAs = true := by decide +kernel
theorem test_decode_memory_haul : (formMemory ++ formHaul).all readsAs = true := by decide +kernel
theorem test_decode_matrix_system : (formMatrix ++ formSystem).all readsAs = true := by decide +kernel

/-- Words that the spec's own examples write out, and the instructions it gives for them. -/
def specWords : List (List Word × Op × JvForm) :=
  [([0x010107F004003F07], .add, z 4 (r 4) (r 3) (.lit 7) .none),
   ([0x0502A81005005FF2, 0x3FC00000, 0xFE000080], .fadd,
     { zm 10 (r 5) (r 5) (.imm 2 0x3FC00000) .none with gneg := true, guard := .direct 1, rm := 2 }),
   ([0x0C0517FFE0002004, 0x00000100FE058000], .st, { zm 4 .none (r 2) (r 4) .none with off := 256, pol := 1, spc := 3 }),
   ([0x0903D7FFE0FF1FE0, 0x18], .bra, z 15 .none (im 0x18) .none .none),
   ([0x0F03E7F005F00FF1, 0x1000, 0x00000040FE000000], .mma, { zm 15 (r 5) (.lit 0) (im 0x1000) .none with off := 64 }),
   ([0x0F0D17FFE0002005, 0xFE018000], .accst, { zm 4 .none (r 2) (r 5) .none with spc := 3 }),
   ([0x0819D7F023021FE0, 0xFE000002], .scan, { zm 7 (r 35) (r 33) .none .none with sub := 2 }),
   ([0x0309D7F022020F00, 0x00200000], .sel, zm 7 (r 34) (r 32) (.lit 0) (r 2)),
   ([0x0D07D7F01300300D, 0x01D10210], .htens, { zm 15 (r 19) (r 3) (r 13) (r 29) with spc := 2, scp := 1, sub := 16 }),
   ([0x0F03D7F02300D00E, 0x00000020FE000000], .mma, { zm 15 (r 35) (r 13) (r 14) .none with off := 32 })]

theorem test_decode_spec_words : specWords.all readsAs = true := by decide +kernel

/-- A slot form of a D-core. -/
def n (slot : Nat) (g : BitVec 4) (gn : Bool) (d a b c : BitVec 7) (x : BitVec 21) : NatForm :=
  { kind := .dcore, slot := slot, g := g, gn := gn, d := d, a := a, b := b, c := c, x := x }

/-- Slot words that the spec's native examples write out. -/
def specSlots : List (Word × Op × NatForm) :=
  [(0xFC80000000000007, .cmt, n 0 0 false 0 0 0 0 7), (0x1400140820140000, .fadd, n 1 0 false 5 1 2 0 0x140000),
   (0x1480182830140000, .fmul, n 1 0 false 6 5 3 0 0x140000), (0x04000408200A0080, .add, n 1 0 false 1 1 2 0 0xA0080),
   (0x302080080FF44000, .ld, n 5 8 false 32 1 0 127 0x144000), (0xFC000C00001FFFFF, .loop, n 0 0 false 3 0 0 0 0x1FFFFF),
   (0x14ECA11A75540000, .ffma, n 1 11 false 40 35 39 42 0x140000), (0x3020900803F44000, .ld, n 5 8 false 36 1 0 31 0x144000),
   (0xFD0C50A0001E0000, .movx, n 1 3 false 20 20 0 0 0x1E0000), (0xFD0E50A0001E0000, .movx, n 2 3 true 20 20 0 0 0x1E0000),
   (0x30012A1800146000, .ld, n 5 0 false 74 67 0 0 0x146000), (0, .nop, n 0 0 false 0 0 0 0 0),
   (0xFCC0000000000003, .eqp, n 0 0 false 0 0 0 0 3), (0xFC40000000000005, .rrbset, n 0 0 false 0 0 0 0 5),
   (0xFD40080800000000, .sigadv, n 0 0 false 2 1 0 0 0)]

theorem test_decode_slot_words : specSlots.all (fun x => decodeSlot .dcore x.2.2.slot x.1 == .ok (x.2.1, x.2.2)) = true := by
  decide +kernel

/-! ## Ill-formed forms, one for each check -/

/-- The form, encodable, whose first condition has this detail. -/
def illJv (cause : Nat) (o : Op) (f : JvForm) : Bool :=
  f.encodable && !f.wf o && ((Problem.first (f.problems o)).map (fun p => p.cause)) == some cause

/-- The conditions of R450: an unassigned type, an operand that its role does not take, an unassigned modifier value, a field
the instruction does not use, an unassigned sub, and a guard that does not fit. -/
theorem test_ill_formed_jv :
    illJv 66 .add (z 10 (r 40) (r 0) (r 1) .none) = true ∧ illJv 66 .rdsr (z 7 (r 40) (.sys 0) .none .none) = true ∧
    illJv 66 .fcvt { zm 8 (r 104) (.lit 1) .none .none with sub := 3 } = true ∧ illJv 69 .add (z 5 (r 40) (r 0) .none .none) = true ∧
    illJv 68 .abs (z 4 (r 40) (r 0) (r 1) .none) = true ∧ illJv 72 .add (zm 5 (r 40) (r 0) (r 1) (r 1)) = true ∧
    illJv 69 .add (z 5 (.lit 3) (r 0) (r 1) .none) = true ∧ illJv 71 .ld { zm 5 (r 40) (r 80) .none .none with spc := 5 } = true ∧
    illJv 71 .fadd { zm 10 (r 40) (r 0) (r 1) .none with rm := 5 } = true ∧ illJv 71 .ld { zm 5 (r 40) (r 80) .none .none with spc := 3, scp := 6 } = true ∧
    illJv 72 .add { zm 5 (r 40) (r 0) (r 1) .none with off := 1 } = true ∧ illJv 72 .add { zm 5 (r 40) (r 0) (r 1) .none with rm := 1 } = true ∧
    illJv 73 .add { zm 5 (r 40) (r 0) (r 1) .none with sub := 2 } = true ∧ illJv 74 .add { z 5 (r 40) (r 0) (r 1) .none with gneg := true } = true ∧
    illJv 74 .mad { zm 5 (r 40) (r 0) (r 1) .none with guard := .wide 96 } = true ∧ illJv 74 .join { z 15 .none .none .none .none with guard := .direct 96 } = true := by
  decide +kernel

/-- Fields beyond their encoding: a register above the field, a modifier value with no word to hold it, four extension words,
an immediate destination and a modifier value too large are refused too. -/
theorem test_not_encodable :
    JvForm.wf .add (z 5 (r 0xF00) (r 0) (r 1) .none) = false ∧ JvForm.wf .add { z 5 (r 40) (r 0) (r 1) .none with sub := 1 } = false ∧
    JvForm.wf .mad (zm 5 (.reg 0xF00 true) (.imm 1 1) (.imm 1 2) (r 1)) = false ∧ JvForm.wf .add (z 5 (im 1) (r 0) (r 1) .none) = false ∧
    JvForm.wf .add (z 16 (r 40) (r 0) (r 1) .none) = false ∧ JvForm.wf .add (z 5 (r 40) (.imm 1 0x80000000) (r 1) .none) = false ∧
    JvForm.wf .ld { zm 5 (r 40) (r 80) .none .none with spc := 8 } = false ∧ JvForm.wf .add { z 5 (r 40) (r 0) (r 1) .none with guard := .direct 126 } = false ∧
    JvForm.wf .hcopyCk { zm 15 .none (r 80) (r 85) (r 83) with sub := 1 } = false := by decide +kernel

/-- The conditions of R451: a type, an operand number, a modifier value, a sub, a guard on an unguarded operation, a nop with a
field, a slot that does not take the operation, and an unused field. -/
def illSlot (cause : Nat) (o : Op) (f : NatForm) : Bool :=
  !f.wf o && ((Problem.first (f.problems o)).map (fun p => p.cause)) == some cause

theorem test_ill_formed_slot :
    illSlot 66 .fadd (n 1 0 false 5 1 2 0 0x0A0000) = true ∧ illSlot 68 .loop (n 0 0 false 0 0 0 0 0) = false ∧
    illSlot 71 .fadd (n 1 0 false 5 1 2 0 0x140500) = true ∧ illSlot 73 .add (n 1 0 false 1 1 2 0 0x0A1000) = true ∧
    illSlot 74 .cmt (n 0 3 false 0 0 0 0 7) = true ∧ illSlot 75 .nop (n 0 1 false 0 0 0 0 0) = true ∧
    illSlot 76 .fadd (n 0 0 false 5 1 2 0 0x140000) = true ∧ illSlot 77 .fadd (n 1 0 false 5 1 2 3 0x140000) = true := by decide +kernel

/-- Not instructions at all: an opcode that is not assigned, an unassigned operand selector, and a word too few. -/
theorem test_not_an_instruction :
    (match decodeJv [0xFF01C7F000000000] with | .bad _ _ => true | .ok _ _ _ => false) = true ∧
    (match decodeJv [0x010547F028F40001] with | .bad _ _ => true | .ok _ _ _ => false) = true ∧
    (match decodeJv [0x010157F028000001] with | .bad _ _ => true | .ok _ _ _ => false) = true ∧
    decodeTableWord 64 0xFFC0000000000001 = none := by decide +kernel

/-! ## Results computed by hand: lane l of r0 holds l + 1, r1 holds 3 and r2 2^32 - 1 in every lane -/

/-- The machine after a form has run. -/
def after (o : Op) (f : JvForm) (s : State) : Option State := match exec (Instr.ofOp o (.jv f)) s with | .next t => some t | _ => none

/-- A lane of a JV register of the first team's first gang. -/
def laneIn (s : State) (m l : Nat) : Word :=
  match (s.teams.head?).bind (fun t => t.gangs.head?) with
  | some g => (match Tab.get (JvVal.uni 0) g.jregs m with | .lane v => laneOf v l | .uni w => w | .pred p => p.zeroExtend 64)
  | none => 0

/-- The form runs and leaves this value in a lane of its destination. -/
def gives (x : Op × JvForm × Nat × Word) : Bool :=
  match x.2.1.d, after x.1 x.2.1 tState with
  | .reg m _, some t => laneIn t m x.2.2.1 == x.2.2.2
  | _, _ => false

/-- R162: wrapping and clamping sums, the high product, division by 0, signed order, the byte dot product. -/
theorem test_integer_results : ([(.add, z 5 (r 40) (r 0) (r 2) .none, 4, 4), (.add, { zm 5 (r 40) (r 0) (r 2) .none with sub := 1 }, 4, 0xFFFFFFFF),
    (.sub, z 5 (r 40) (r 0) (r 1) .none, 0, 0xFFFFFFFE), (.sub, { zm 5 (r 40) (r 0) (r 1) .none with sub := 1 }, 0, 0),
    (.mul, z 5 (r 40) (r 2) (r 1) .none, 0, 0xFFFFFFFD), (.mulhi, z 5 (r 40) (r 2) (r 1) .none, 0, 2), (.mulhi, z 4 (r 40) (r 2) (r 1) .none, 0, 0xFFFFFFFF),
    (.mad, zm 5 (r 40) (r 0) (r 1) (r 1), 4, 18), (.div, z 5 (r 40) (r 2) (r 1) .none, 0, 0x55555555), (.div, z 5 (r 40) (r 0) (.lit 0) .none, 7, 0xFFFFFFFF),
    (.rem, z 5 (r 40) (r 0) (r 1) .none, 9, 1), (.rem, z 5 (r 40) (r 0) (.lit 0) .none, 9, 10), (.min, z 4 (r 40) (r 1) (r 2) .none, 0, 0xFFFFFFFF),
    (.max, z 5 (r 40) (r 1) (r 2) .none, 0, 0xFFFFFFFF), (.max, z 4 (r 40) (r 1) (r 2) .none, 0, 3), (.abs, z 4 (r 40) (r 2) .none .none, 0, 1),
    (.neg, z 4 (r 40) (r 1) .none .none, 0, 0xFFFFFFFD), (.dp4, zm 4 (r 40) (r 2) (r 1) (r 1), 0, 0),
    (.lea, { zm 7 (r 83) (r 80) (r 87) .none with sub := 3 }, 0, 0x100008)] : List (Op × JvForm × Nat × Word)).all gives = true := by decide +kernel

/-- R163, R164: shifts by the width and more, rotation, counts, reversal and fields. -/
theorem test_logic_results : ([(.and, z 5 (r 40) (r 2) (r 1) .none, 0, 3), (.or, z 5 (r 40) (r 0) (r 1) .none, 3, 7), (.xor, z 5 (r 40) (r 2) (r 1) .none, 0, 0xFFFFFFFC),
    (.not, z 5 (r 40) (r 1) .none .none, 0, 0xFFFFFFFC), (.shl, z 5 (r 40) (r 1) (r 91) .none, 0, 0), (.shl, z 5 (r 40) (r 1) (r 0) .none, 30, 0x80000000),
    (.shr, z 5 (r 40) (r 2) (r 1) .none, 0, 0x1FFFFFFF), (.sar, z 4 (r 40) (r 2) (r 91) .none, 0, 0xFFFFFFFF), (.rotl, z 5 (r 40) (r 1) (r 0) .none, 30, 0x80000001),
    (.popc, z 5 (r 40) (r 2) .none .none, 0, 32), (.clz, z 5 (r 40) (r 1) .none .none, 0, 30), (.clz, z 5 (r 40) (.lit 0) .none .none, 0, 32),
    (.brev, z 5 (r 40) (r 1) .none .none, 0, 0xC0000000), (.bfx, z 4 (r 40) (im 0xF30) (r 95) .none, 0, 3), (.bfx, z 4 (r 40) (im 0xF30) (im 0x408) .none, 0, 0xFFFFFFFF),
    (.bfi, zm 5 (r 40) (r 1) (r 2) (r 95), 0, 0xF3)] : List (Op × JvForm × Nat × Word)).all gives = true := by decide +kernel

/-- R165 to R169 and R174 to R179. -/
theorem test_move_and_gang_results : ([(.mov, z 5 (r 40) (r 2) .none .none, 31, 0xFFFFFFFF), (.movi, { zm 5 (r 40) (r 0) (.lit 10) .none with off := 8 }, 0, 0xFFFFFFFF),
    (.sel, zm 5 (r 40) (r 0) (r 1) (r 96), 7, 8), (.sel, zm 5 (r 40) (r 0) (r 1) (r 96), 8, 3), (.setp, { zm 5 (r 97) (r 0) (r 1) .none with sub := 2 }, 0, 3),
    (.setp, { zm 4 (r 97) (r 2) (r 1) .none with sub := 2 }, 0, 0xFFFFFFFF), (.pand, z 15 (r 97) (r 96) (r 96) .none, 0, 0xFF), (.por, z 15 (r 97) (r 96) (r 98) .none, 0, 0xFF),
    (.pxor, z 15 (r 97) (r 96) (r 96) .none, 0, 0), (.pnot, z 15 (r 97) (r 96) .none .none, 0, 0xFFFFFF00), (.rdsr, z 5 (r 40) (.sys 0) .none .none, 5, 5),
    (.elect, z 15 (r 97) (.lit 3) .none .none, 0, 8), (.vote, z 5 (r 40) (r 96) .none .none, 31, 0xFF), (.matchLanes, z 5 (r 40) (r 1) .none .none, 9, 0xFFFFFFFF),
    (.shfl, { zm 5 (r 40) (r 0) (.lit 4) .none with sub := 2 }, 0, 5), (.shfl, { zm 5 (r 40) (r 0) (.lit 4) .none with sub := 2 }, 31, 32),
    (.redux, z 5 (r 92) (r 0) .none .none, 0, 528), (.scan, z 5 (r 40) (r 0) .none .none, 3, 10), (.scan, z 5 (r 40) (r 0) .none .none, 31, 528)] :
    List (Op × JvForm × Nat × Word)).all gives = true := by decide +kernel

/-- R111, R170 to R173: FP32 arithmetic rounded once, conversions, and packed FP16. -/
theorem test_float_results : ([(.fadd, z 10 (r 40) (im 0x3F800000) (im 0x3F800000) .none, 0, 0x40000000), (.fsub, z 10 (r 40) (.lit 1) (.lit 1) .none, 0, 0),
    (.fmul, z 10 (r 40) (im 0x3FC00000) (.lit (-2)) .none, 0, 0xC0400000), (.ffma, zm 10 (r 40) (.lit 2) (.lit 3) (.lit 1), 0, 0x40E00000),
    (.fdiv, z 10 (r 40) (.lit 1) (.lit 3) .none, 0, 0x3EAAAAAB), (.fdiv, z 10 (r 40) (.lit 1) (.lit 0) .none, 0, 0x7F800000), (.fsqrt, z 10 (r 40) (.lit 4) .none .none, 0, 0x40000000),
    (.frcp, z 10 (r 40) (.lit 4) .none .none, 0, 0x3E800000), (.frsq, z 10 (r 40) (.lit 4) .none .none, 0, 0x3F000000), (.fex2, z 10 (r 40) (.lit 3) .none .none, 0, 0x41000000),
    (.flg2, z 10 (r 40) (.lit 8) .none .none, 0, 0x40400000), (.fmin, z 10 (r 40) (.lit 1) (.lit 2) .none, 0, 0x3F800000), (.fmax, z 10 (r 40) (.lit 1) (.lit 2) .none, 0, 0x40000000),
    (.fabs, z 10 (r 40) (.lit (-1)) .none .none, 0, 0x3F800000), (.fneg, z 10 (r 40) (.lit 1) .none .none, 0, 0xBF800000), (.fscale, z 10 (r 40) (.lit 1) (.lit 3) .none, 0, 0x41000000),
    (.fsetp, { zm 10 (r 97) (.lit 1) (.lit 2) .none with sub := 2 }, 0, 0xFFFFFFFF), (.frnd, z 10 (r 40) (im 0x40200000) .none .none, 0, 0x40000000),
    (.fcvt, { zm 8 (r 104) (.lit 1) .none .none with sub := 10 }, 0, 0x3C00), (.f2i, { zm 4 (r 40) (im 0x40200000) .none .none with sub := 10 }, 0, 2),
    (.i2f, { zm 10 (r 40) (.lit 3) .none .none with sub := 4 }, 0, 0x40400000), (.fadd2, z 11 (r 40) (.lit 1) (.lit 2) .none, 0, 0x42004200),
    (.fmul2, z 11 (r 40) (.lit 3) (.lit 2) .none, 0, 0x46004600), (.ffma2, zm 11 (r 40) (.lit 1) (.lit 2) (.lit 1), 0, 0x42004200),
    (.fdot2, zm 11 (r 40) (.lit 1) (.lit 2) (.lit 1), 0, 0x40A00000)] : List (Op × JvForm × Nat × Word)).all gives = true := by decide +kernel

/-- R191 to R193, R196, R199, R223 to R232, R242: a load of the join's upper half, system values, a tile count. -/
theorem test_memory_and_system_results : ([(.ld, { zm 5 (r 40) (r 80) .none .none with off := 4, spc := 3 }, 8, 0x0917C7FF),
    (.ldu, { zm 7 (r 83) (r 80) .none .none with spc := 3 }, 0, 0x0917C7FFE0FE0FE0), (.cas, { zm 5 (r 40) (r 81) (.lit 0) (r 1) with spc := 2 }, 0, 0),
    (.query, z 7 (r 83) (.lit 2) .none .none, 0, 0x10000), (.qkind, z 5 (r 92) .none .none .none, 0, 1), (.getfmt, z 7 (r 83) .none .none .none, 0, 0),
    (.asstSt, z 7 (r 83) (r 101) .none .none, 0, 0), (.htest, { zm 15 (r 92) .none .none .none with off := 3 }, 0, 3)] :
    List (Op × JvForm × Nat × Word)).all gives = true := by decide +kernel

/-! ## Native contexts -/

/-- A native team with one bundle at 0 that holds a slot word, lr set. -/
def nState (w : Word) (lr : BitVec 32) : State :=
  let t := fetchTeam (fetchKernel 1 [w] true) 0 0
  { tState with teams := [{ t with gangs := t.gangs.map (fun g => g.updSplit 0 (fun sp => { sp with lr := lr, adt := [] })) }] }

/-- The slot form executes in such a state. -/
def goesNat (lr : BitVec 32) (x : Op × NatForm) : Bool := holdsIn x.1 (.nat x.2) (nState (encodeSlot x.1 x.2) lr)

/-- As holdsWith, for a slot form. -/
def natWith (lr : BitVec 32) (o : Op) (f : NatForm) (p : View → Args → Mask → Bool) : Bool := holdsWith o (.nat f) (nState (encodeSlot o f) lr) p

/-- loop with k = 15, rrbset 31 and 0, movx to both clusters, sigadv of 127 steps, nop, fadd, add with an immediate. -/
theorem witness_native_operations :
    ([(.loop, n 0 0 false 15 0 0 0 0), (.rrbset, n 0 0 false 0 0 0 0 31), (.rrbset, n 0 0 false 0 0 0 0 0), (.movx, n 1 3 false 20 20 0 0 0x1E0000),
      (.movx, n 1 0 false 20 20 0 0 0x1E0000), (.movx, n 2 0 false 20 20 0 0 0x1E0000), (.sigadv, n 0 0 false 127 1 0 0 0), (.nop, n 0 0 false 0 0 0 0 0),
      (.fadd, n 1 0 false 5 1 2 0 0x140000), (.add, n 1 0 false 1 1 2 0 0xA0080), (.cmt, n 0 0 false 0 0 0 0 0), (.eqp, n 0 0 false 0 0 0 0 0)] : List (Op × NatForm)).map
      (goesNat 2) = [true, true, true, false, true, true, true, true, true, true, true, true] := by decide +kernel

theorem witness_loop : natWith 2 .loop (n 0 0 false 3 0 0 0 0) (fun w _ _ => w.sp.lr != 0) = true ∧
    natWith 0 .loop (n 0 0 false 3 0 0 0 0) (fun w _ _ => w.sp.lr == 0) = true := by decide +kernel

theorem witness_commit_points :
    natWith 0 .cmt (n 0 0 false 0 0 0 0 0) (fun w a _ => w.useRecord (w.t.natCode.bind (fun c => c.indexed[a.off.toNat]?)) matches .ok _ && w.gatedCheck.isNone) = true ∧
    natWith 0 .eqp (n 0 0 false 0 0 0 0 0) (fun w a _ => (match w.useRecord (w.t.natCode.bind (fun c => c.indexed[a.off.toNat]?)) with
      | .ok r => decide (w.sp.rrb = r.rrb) | .error _ => false) && w.sp.flight.isEmpty && w.gatedCheck.isNone) = true := by decide +kernel

/-- LR falls to 1 and the stage predicate p8 becomes true while k is at most that; RRB turns. -/
theorem test_loop : (match exec (Instr.ofOp .loop (.nat (n 0 0 false 1 0 0 0 0))) (nState 0 2) with
    | .next t => (match t.split? 0 0 0, (t.team? 0).bind (fun u => u.gangs.head?) with
      | some sp, some g => sp.lr == 1 && sp.rrb == 1 && Tab.get 0 g.nregs.pr 8 == BitVec.allOnes 32
      | _, _ => false)
    | _ => false) = true := by decide +kernel

/-- A step of the machine issues the placed word: rrbset 5 has left RRB at 5, and a JV sub of 7 from 0 its wrapped difference. -/
theorem test_step_runs_a_placed_word :
    (match step (State.reset.withFetchWord 64 0xFC40000000000005) with
     | .next t => (t.split? 0 0 0).any (fun sp => sp.rrb == 5 && sp.pc == 64)
     | _ => false) = true ∧
    (match step (State.reset.withFetchWord 64 0x010547F005000F07) with
     | .next t => laneIn t 5 0 == 0xFFFFFFF9 && (t.split? 0 0 0).any (fun sp => sp.pc == 0x10008)
     | _ => false) = true := by decide +kernel

/-! ## Every operation executes somewhere, and every clause of a statement about one is met -/

/-- The machine inside a handler, as tret needs it; its frame lies at 0x108000. -/
def tHandler : State := withGang (fun g => { g with handler := some { split := 0, saved := g.splits, rcsBase := 0, start := 0, frame := 0x108000 } })

theorem witness_runs_integer_logic : ((formInt ++ formLogic).all (goesIn tState)) = true := by decide +kernel
theorem witness_runs_move_float : ((formMove ++ formFloat).all (goesIn tState)) = true := by decide +kernel
theorem witness_runs_convert_gang : ((formConvert ++ formGang).all (goesIn tState)) = true := by decide +kernel
theorem witness_runs_control_wait : ((formControl ++ formWait).all (goesIn tState)) = true := by decide +kernel
theorem witness_runs_memory_haul : ((formMemory ++ formHaul).all (goesIn tState)) = true := by decide +kernel
theorem witness_runs_matrix_system :
    ((formMatrix ++ formSystem).all (fun x => goesIn (if x.2.1 == .tret then tHandler else tState) x)) = true := by decide +kernel

/-- The JV form executes and a further condition holds. -/
def jw (s : State) (o : Op) (f : JvForm) (p : View → Args → Mask → Bool) : Bool := holdsWith o (.jv f) s p

/-- mov and sel between predicates, mov to FLG, rdsr of the last special operand. -/
theorem witness_move_clauses :
    jw tState .mov (z 15 (r 97) (r 96) .none .none) (fun _ a _ => a.ty == 15) = true ∧
    jw tState .mov (z 5 (r 40) (r 2) .none .none) (fun _ a _ => a.ty != 15 && a.d != .sys 9) = true ∧
    jw tState .mov (z 7 (.sys 9) (r 82) .none .none) (fun _ a _ => a.ty != 15 && a.d == .sys 9) = true ∧
    jw tState .sel (zm 15 (r 97) (r 96) (r 98) (r 96)) (fun _ a _ => a.ty == 15) = true ∧
    jw tState .sel (zm 5 (r 40) (r 0) (r 1) (r 96)) (fun _ a _ => a.ty != 15) = true ∧
    jw tState .rdsr (z 7 (r 83) (.sys 9) .none .none) (fun _ a _ => a.a == .sys 9) = true ∧
    jw tState .rdsr (z 5 (r 40) (.sys 0) .none .none) (fun _ a _ => a.a == .sys 0) = true := by decide +kernel

/-- A branch of every lane, of some lanes, and of lanes to one and to two targets; a return. -/
theorem witness_branch_clauses :
    jw tState .bra (z 15 .none (im 8) (im 8) .none) (fun w _ e => w.sp.mask &&& ~~~e == 0) = true ∧
    jw tState .bra { z 15 .none (im 8) (im 0) .none with guard := .direct 96 } (fun w _ e => w.sp.mask &&& ~~~e != 0) = true ∧
    jw tState .brx (zm 15 .none (r 84) (im 0) .none) (fun w a e =>
      match brxGroups (w.brxTarget (.jv (zm 15 .none (r 84) (im 0) .none)) a e) (lanesOf w.sp.mask) with
      | [g] => g.1 != w.fall (.jv (zm 15 .none (r 84) (im 0) .none)) | _ => false) = true ∧
    jw tState .brx { zm 15 .none (r 84) (im 0) .none with guard := .direct 96 } (fun w a e =>
      (brxGroups (w.brxTarget (.jv { zm 15 .none (r 84) (im 0) .none with guard := .direct 96 }) a e) (lanesOf w.sp.mask)).length == 2) = true ∧
    jw tState .ret (z 15 .none .none .none .none) (fun w _ _ => !w.sp.ret.isEmpty) = true := by decide +kernel

/-- The gang after exit, and whether it has exited. -/
def exitSettles (f : JvForm) (w : View) (e : Mask) : Gang × Bool :=
  let sp : Split := { w.sp with mask := w.sp.mask &&& ~~~e, pc := w.fall (.jv f) }
  let g : Gang := { w.gangNow with gone := w.g.gone ||| e, splits := w.g.splits.set w.k sp }
  let u := (w.onGang g).onTeam (fun t => (t.escape).arriveLeft w.s.now w.gang)
  Gang.settle 1100 u.nextOf w.s.now w.k u.gangNow

def jn : JvForm := z 15 .none .none .none .none
/-- The gang after join, whether it has exited, and whether the lane sets contradict the stack. -/
def joinSettles (w : View) : (Gang × Bool) × Bool :=
  let x := w.here
  let next := fun y => if y = x then (w.fall (.jv jn), w.sp.region) else w.nextOf y
  let j := w.gangNow.join next w.s.now w.k x
  (Gang.settle 1100 next w.s.now j.2 j.1, w.gangNow.joinBad w.k x)
/-- A region that converges where the open context stands. -/
def tEntryRcs (cv : Bool) (held : Mask) : RcsEntry :=
  { rpc := 0x10008, resume := 0x10000, held := held, owner := 0, child := 1, cv := cv, phase := true, oarr := false, carr := false, fmt := 0, region := 0
    lr := 0, rrb := 0 }
/-- A machine whose frame lies in die memory, and one whose frame's page has to come from HBM. -/
def framed (away : Bool) (f : Gang → Gang) : State :=
  { withGang (fun g => { f g with handler := some { split := 0, saved := g.splits, rcsBase := 0, start := 0, frame := 0x108000 } }) with
    pages := [if away then { tPage with place := .hbm 0 0 0 } else tPage] }
/-- Of more contexts than four, one without lanes. -/
def fifth (g : Gang) : Gang :=
  { g.setRcs [tEntryRcs true 0] with splits := g.splits ++ [{ Split.unused with used := true }] }

/-- A join whose held lanes are its own, and, in a gang of five contexts, joins that end the gang or its handler; exits in a handler. -/
theorem witness_join_ends :
    jw (withGang (fun g => g.setRcs [tEntryRcs false (g.splits.getD 0 Split.unused).mask])) .join jn (fun w _ _ => (joinSettles w).2) = true ∧
    jw (withGang fifth) .join jn (fun w _ _ => !(joinSettles w).2 && (joinSettles w).1.2 && (w.onGang (joinSettles w).1.1).g.handler.isNone) = true ∧
    [false, true].all (fun away => jw (framed away fifth) .join jn (fun w _ _ => !(joinSettles w).2 && (joinSettles w).1.2
      && (w.onGang (joinSettles w).1.1).g.handler.isSome && (w.s.frameWait w.t (w.onGang (joinSettles w).1.1).g).isSome == away)) = true ∧
    [false, true].all (fun away => jw (framed away id) .exit jn (fun w _ e =>
      let sp : Split := { w.sp with mask := w.sp.mask &&& ~~~e, pc := w.fall (.jv jn) }
      let u := (w.onGang { w.gangNow with gone := w.g.gone ||| e, splits := w.g.splits.set w.k sp }).onTeam (fun t => (t.escape).arriveLeft w.s.now w.gang)
      let r := Gang.settle 1100 u.nextOf w.s.now w.k u.gangNow
      r.2 && (u.onGang r.1).g.handler.isSome && (u.s.frameWait (u.onGang r.1).t (u.onGang r.1).g).isSome == away)) = true := by decide +kernel

theorem witness_join_and_exit_clauses :
    jw tState .join (z 15 .none .none .none .none) (fun w _ _ =>
      let x := w.here
      let next := fun y => if y = x then (w.fall (.jv (z 15 .none .none .none .none)), w.sp.region) else w.nextOf y
      let j := w.gangNow.join next w.s.now w.k x
      (Gang.settle 1100 next w.s.now j.2 j.1).2 == false) = true ∧
    jw tState .exit { z 15 .none .none .none .none with guard := .direct 96 } (fun w _ e =>
      (exitSettles { z 15 .none .none .none .none with guard := .direct 96 } w e).2 == false) = true ∧
    jw tState .exit (z 15 .none .none .none .none) (fun w _ e => (exitSettles (z 15 .none .none .none .none) w e).2 && w.g.handler.isNone) = true := by
  decide +kernel

def waitaForm (spc sub : Nat) : JvForm := if spc = 2 then { zm 7 (r 83) .none (r 81) .none with off := 8, spc := 2, sub := sub }
  else { zm 7 (r 83) (r 80) (r 81) .none with spc := 3, sub := sub }

/-- waita's conditions, and its comparison's answer. -/
def waitaMet (want : Bool) (w : View) (a : Args) (e : Mask) : Bool :=
  let x := w.watchAddr a e
  let r := w.watched a.spc x (tyBytes a.ty)
  (w.parkOf a.spc x false).isNone && !(w.nearPoison a.spc x (tyBytes a.ty))
    && (a.spc != 3 || !(w.s.dmPoison w.t.core w.t.asid x (tyBytes a.ty) true))
    && cmpInt a.sub (tyVal a.ty r.1) (tyVal a.ty (w.watchValue a)) == want

/-- The page lies in package 1, which is in recovery. -/
def recovering : State :=
  { tState with pages := [{ tPage with place := .die 1 0 0 }], hub := { tState.hub with config := { tState.hub.config with packages := 2 }, peers := Tab.set PeerState.normal [] 1 (.recovering 0) } }

theorem witness_wait_clauses :
    jw tState .waita (waitaForm 2 0) (waitaMet true) = true ∧ jw tState .waita (waitaForm 2 1) (waitaMet false) = true ∧
    jw tState .waita (waitaForm 3 1) (waitaMet true) = true ∧ jw tState .waita (waitaForm 3 0) (waitaMet false) = true ∧
    jw tState .barwt (z 15 .none (r 88) .none .none) (fun w a _ =>
      decide (Tab.get 0 w.g.lastPhase (w.barArgs a).1 ≤ (w.t.bar (w.barArgs a).1).phase)) = true ∧
    jw (withGang (fun g => { g with lastPhase := Tab.set 0 g.lastPhase 1 5 })) .barwt (z 15 .none (r 88) .none .none) (fun w a _ =>
      w.sp.latched.isNone && decide ((w.t.bar (w.barArgs a).1).phase < Tab.get 0 w.g.lastPhase (w.barArgs a).1)) = true ∧
    jw recovering .waita (waitaForm 3 1) (fun w a e => (w.parkOf a.spc (w.watchAddr a e) false).isSome) = true ∧
    jw { tState with poison := [0] } .waita (waitaForm 3 1) (fun w a e => let x := w.watchAddr a e
      (w.parkOf a.spc x false).isNone && w.s.dmPoison w.t.core w.t.asid x (tyBytes a.ty) true) = true := by decide +kernel

/-- No lane parks or meets poison. -/
def clearLanes (write once home : Bool) (w : View) (a : Args) (e : Mask) (n : Nat) : Bool :=
  (w.accessLanes a e once).all (fun l => (w.parkOf a.spc (w.addr a l) write).isNone && !(w.nearPoison a.spc (w.addr a l) n)
    && (a.spc != 3 || !(w.s.dmPoison w.t.core w.t.asid (w.addr a l) n home)))

theorem witness_load_and_store_clauses :
    jw tState .ld { zm 5 (r 40) (r 80) .none .none with off := 4, spc := 3 } (fun w a e => clearLanes false false true w a e 4) = true ∧
    jw tState .ld { zm 5 (r 40) (r 81) .none .none with spc := 2 } (fun w a e => clearLanes false false true w a e 4) = true ∧
    jw tState .ldu { zm 7 (r 87) (r 80) .none .none with off := 8, spc := 3 } (fun w a e => clearLanes false true true w a e 8) = true ∧
    jw tState .st { zm 5 .none (r 81) (r 0) .none with off := 64, spc := 2 } (fun w a e => !w.native &&
      (lanesOf e).all (fun l => (w.parkOf a.spc (w.addr a l) true).isNone)) = true ∧
    natWith 0 .st (n 6 0 false 0 70 5 0 0x0A4000) (fun w a e =>
      let m := tyBytes a.ty
      let vals := (lanesOf e).map (fun l => (w.addr a l, toBytesLE m (w.rd a.b a.ty l).toNat, l))
      let sp1 := vals.foldl (fun (sp : Split) x => sp.gate a.spc a.pol x.1 x.2.2 x.2.1) { w.sp with adt := w.sp.adt.map (fun d => { d with count := d.count - 1 }) }
      w.native && a.rel == false && w.sp.adt.isEmpty && decide (sp1.gated.length ≤ 64) && decide (sp1.gated.length + w.othersGated ≤ 64)) = true := by decide +kernel

theorem witness_atomic_clauses :
    jw tState .atom { zm 5 (r 40) (r 80) (r 88) .none with off := 4, spc := 3 } (fun w a e => clearLanes true false true w a e (tyBytes (wordTy .atom a.ty))) = true ∧
    jw tState .atom { zm 5 (r 40) (r 81) (r 88) .none with off := 4, spc := 2 } (fun w a e => clearLanes true false true w a e (tyBytes (wordTy .atom a.ty))) = true ∧
    jw tState .cas { zm 5 (r 40) (r 80) (r 88) (r 89) with off := 4, spc := 3 } (fun w a e => clearLanes true false true w a e (tyBytes (wordTy .cas a.ty))) = true ∧
    jw tState .cas { zm 5 (r 40) (r 81) (r 88) (r 89) with off := 4, spc := 2 } (fun w a e => clearLanes true false true w a e (tyBytes (wordTy .cas a.ty))) = true ∧
    jw tState .aqadd { zm 6 (r 83) (r 80) (r 87) .none with spc := 3 } (fun w a e => clearLanes true false true w a e (tyBytes (wordTy .aqadd a.ty))) = true ∧
    jw tState .aqadd { zm 6 (r 83) (r 81) (r 87) .none with spc := 2 } (fun w a e => clearLanes true false true w a e (tyBytes (wordTy .aqadd a.ty))) = true ∧
    jw tState .fgath { zm 5 (r 40) (r 80) (r 1) .none with spc := 3 } (fun w a e => (lanesOf e).all (fun l => (w.parkOf 3 (w.gathAddr a l) false).isNone
      && !(w.s.dmPoison w.t.core w.t.asid (w.gathAddr a l) (tyBytes a.ty) true))) = true := by decide +kernel

/-- codeload's region is well formed, a breakpoint with and without a debugger, prfrd, and launch into a queue that is free and one
that is full. -/
theorem witness_system_clauses :
    jw tState .codeload (z 5 (r 92) (r 80) (r 90) .none) (fun w a _ =>
      let x := (w.rdU a.a 7).toNat
      let m := uval 32 (w.rdU a.b 5)
      let u := w.onState (fun u => u.dropRange w.t.core w.t.asid x m)
      (blocksOf x m).all (fun y => (w.parkOf 3 y false).isNone) && (List.range (m / 8)).all (fun i => !(u.s.dmPoison w.t.core w.t.asid (x + 8 * i) 8 true))
        && (regionFault (m / 8) (declTotal w.t.kern.decls) 0 (u.s.wordsAt w.t.asid x m)).isNone) = true ∧
    jw tState .brkpt (z 15 .none (.lit 5) .none .none) (fun w _ _ => w.t.dbg == false) = true ∧
    jw { tState with teams := [{ tTeam with dbg := true }] } .brkpt (z 15 .none (.lit 5) .none .none) (fun w _ _ => w.t.dbg) = true ∧
    jw tState .prfrd (z 7 (r 83) (.lit 0) .none .none) (fun w a _ => !w.native && w.num a == 0) = true ∧
    natWith 0 .prfrd (n 0 0 false 20 0 0 0 0xE0080) (fun w a _ => w.native && w.num a == 0) = true ∧
    natWith 0 .prfrd (n 0 0 false 20 0 0 0 0xE0086) (fun w a _ => w.native && w.num a == 6) = true ∧
    jw tHandler .tret (z 15 .none .none .none .none) (fun w _ _ => (w.s.frameWait w.t w.g).isNone) = true ∧
    jw { tHandler with pages := [{ tPage with place := .hbm 0 0 0 }] } .tret (z 15 .none .none .none .none) (fun w _ _ => (w.s.frameWait w.t w.g).isSome) = true ∧
    jw tState .launch (z 5 (r 92) (r 85) (r 89) .none) (fun w a _ => let p := (w.rdU a.a 7).toNat
      (launchQueue w a).any (fun q => decide ((q.wr - q.rd).toNat < q.size)) && (w.parkOf 3 p false).isNone && !(w.s.dmPoison w.t.core w.t.asid p 64 true)) = true ∧
    jw { tState with hub := { tState.hub with queues := [{ tQueue with wr := 4 }] } } .launch (z 5 (r 92) (r 85) (r 89) .none) (fun w a _ =>
      let p := (w.rdU a.a 7).toNat
      (launchQueue w a).any (fun q => decide (q.size ≤ (q.wr - q.rd).toNat)) && (w.parkOf 3 p false).isNone && !(w.s.dmPoison w.t.core w.t.asid p 64 true)) = true := by
  decide +kernel

/-- Room for a job, tokens that are complete and one that is not, chunks that no page holds up. -/
theorem witness_haul_clauses :
    (formHaul.filter (fun x => x.2.1 != .hwait && x.2.1 != .htest && x.2.1 != .ckinfo)).all (fun x => jw tState x.2.1 x.2.2 (fun w _ _ => decide (w.t.haulsUsed < w.t.hauls))) = true ∧
    jw tState .hwait { zm 15 .none .none .none .none with off := 2 } (fun w a _ => w.g.complete (haulMask a) == haulMask a) = true ∧
    jw (withGang (fun g => { g with tokens := [0, 1, 0, 0, 0, 0, 0, 0] })) .hwait { zm 15 .none .none .none .none with off := 2 }
      (fun w a _ => w.g.complete (haulMask a) != haulMask a) = true ∧
    jw tState .ckver (zm 5 (r 92) (r 80) (r 88) (r 81)) (fun w a _ =>
      (blocksOf (w.rdU a.a 7).toNat (4096 * w.count64 a.b)).all (fun y => (w.parkOf 3 y false).isNone) && decide (w.t.haulsUsed < w.t.hauls)) = true ∧
    jw tState .ckinfo { zm 7 (r 83) (r 80) .none .none with sub := 6 } (fun w a _ => let x := (w.rdU a.a 7).toNat
      (w.parkOf 3 x false).isNone && !(w.s.dmPoison w.t.core w.t.asid (x + ckFieldAt a.sub) 8 true)) = true := by decide +kernel

/-- A tile of zeros agrees with its sums, and does after any product is added to it. -/
theorem witness_tile_sums : Tile.zero.misSum = none ∧ ∀ x a b, (Tile.zero.mma x a b).1.misSum = none :=
  ⟨by decide +kernel, fun x a b => Tile.misSum_mma Tile.zero x a b (by decide +kernel)⟩

/-- Tiles of zeros, operands without poison and a latched operand; whole blocks without a page to wait for; rows that pass. -/
theorem witness_matrix_clauses :
    jw tState .mma { zm 15 (r 100) (r 81) (r 81) .none with off := 16 } (fun w a _ => w.tile (w.tileOf a.d) == Tile.zero
      && !(w.operandPoison (w.rdU a.b 7) (fmtBfmt w.sp.fmt) a.off.toNat (fmtBsc w.sp.fmt)) && !(w.operandPoison (w.rdU a.a 7) (fmtAfmt w.sp.fmt) a.off.toNat (fmtBsc w.sp.fmt))) = true ∧
    jw tState .mmaRa { zm 15 (r 100) .none (r 81) .none with sub := 1 } (fun w a _ => w.tile (w.tileOf a.d) == Tile.zero
      && w.g.latch.any (fun lt => !(w.operandPoison (w.rdU a.b 7) (fmtBfmt w.sp.fmt) lt.k (fmtBsc w.sp.fmt)))) = true ∧
    jw tState .accld { zm 6 (r 100) (r 81) .none .none with spc := 2, sub := 63 } (fun w a e =>
      let x := w.accAddr a e
      (blocksOf x 512).all (fun y => (w.parkOf a.spc y false).isNone) && !(w.nearPoison a.spc x 512)) = true ∧
    jw tState .accld { zm 6 (r 100) (r 80) .none .none with spc := 3, sub := 63 } (fun w a e =>
      let x := w.accAddr a e
      (blocksOf x 512).all (fun y => (w.parkOf a.spc y false).isNone) && !(w.nearPoison a.spc x 512)
        && (lineRuns 6 x (List.replicate 512 0)).all (fun p => !(w.s.dmPoison w.t.core w.t.asid p.1 p.2.length ((a.acq && a.wide) || a.pol != 0)))) = true ∧
    jw tState .accmax (z 6 (r 83) (r 101) .none .none) (fun w a _ => w.tile (w.tileOf a.a) == Tile.zero) = true ∧
    jw tState .accanc (z 4 (r 101) (.lit 3) .none .none) (fun w a _ => w.tile (w.tileOf a.d) == Tile.zero) = true ∧
    jw tState .asstSt (z 7 (r 83) (r 101) .none .none) (fun w a _ => w.tile (w.tileOf a.a) == Tile.zero) = true := by decide +kernel

/-- Gang 0's contribution of 3 to element 65 of tile 0, which is still to come. -/
def lateTeam : Team := { tTeam with tileLate := [{ gang := 0, tile := 0, elem := 65, change := .add 3 0 0 }] }

/-- It comes before the gang arrives at a barrier, and adds; of two contributions one is made and the other left; an element that is put later. -/
theorem witness_tile_order :
    (View.open { tState with teams := [lateTeam] }).any (fun v => !v.t.tileLate.isEmpty) = true ∧
    ((({ tState with teams := [lateTeam] } : State).meetTiles .bar (.jv (z 15 .none (.lit 1) .none .none))).team? 0).any (fun t =>
      t.tileLate.isEmpty && ((t.tiles.getD 0 Tile.zero).elem 65).1 == 3) = true ∧
    (View.open tState).any (fun v => (v.mmaOperands false { (Form.jv (zm 15 (r 100) (r 81) (r 81) .none)).args .mma with off := 16 }).isSome) = true ∧
    (let r := leaveAdds 0 (1, 0) [(3, 0, 0, 0), (-8, 1, 0, 1)] 1
     r.elem = (4, 0) ∧ r.flags = 1 ∧ r.later = [.add (-8) 1 0]) ∧
    leaveElem .accz [] [] (fun _ => true) 0 (Tile.zero.setElems (fun _ => (5, 0))) Tile.zero 65 = { elem := (5, 0), flags := 0, later := [.put 0 0] } := by
  decide +kernel

/-- The conditions of an export of one row, with and without named scales. -/
def exports (w : View) (a : Args) (e : Mask) : Bool :=
  let k := w.tileOf a.b
  let x := w.accAddr a e
  let q := (w.rdU a.c 7).toNat
  let named := a.c != .none
  let scales := (List.range 64).map (fun j => if named then some (w.t.scratch.readLE (q + 4 * j) 4) else none)
  let el := (List.range (64 * accRows a)).map (fun i =>
    let m := (w.tile k).elem i
    let sc := scales.getD (i % 64) none
    let r := accstElem a.ty (effRm w.sp.fmt a.rm) (fmtSat w.sp.fmt) (fmtFtz w.sp.fmt) (w.tile k).anchor sc m.1 m.2
    (m.1, m.2, sc, r.1, r.2))
  (blocksOf x (64 * accRows a * accWidth a.ty)).all (fun y => (w.parkOf a.spc y true).isNone) && w.tile k == Tile.zero
    && !(named && w.nearPoison 2 q 256)
    && (!tyIsFmt a.ty || (List.range (accRows a)).all (fun i => rowPasses a.ty (fmtFtz w.sp.fmt) (w.tile k).tol (w.tile k).anchor ((el.drop (64 * i)).take 64)))

theorem witness_export_clauses :
    jw tState .accst { zm 6 .none (r 81) (r 100) .none with spc := 2, sub := 63 } exports = true ∧
    jw tState .accst { zm 10 .none (r 81) (r 100) .none with spc := 2, sub := 63 } exports = true ∧
    jw tState .accst { zm 10 .none (r 80) (r 100) (r 81) with spc := 3, sub := 63 } exports = true := by decide +kernel

/-! ## Events: for each clause a state that enables it -/

/-- Ready in everything, serving, two packages, time 10 s. -/
def hState : State :=
  { tState with cur := none, ptp := 10000000000, now := 10000000000
                hub := { tState.hub with ready := BitVec.allOnes 64, booted := true, config := { ConfigRec.initial with packages := 2, expected := [(1, 3)] } } }
def withHub (f : Hub → Hub) : State := { hState with hub := f hState.hub }
def withTeam (f : Team → Team) : State := { hState with teams := [f tTeam] }
def landing : Flight := { loc := 5, lanes := BitVec.allOnes 32, value := tab32 (fun _ => 7), remain := 0, seq := 0 }

/-- The first context, with a condition on its team. -/
def ctxOf (s : State) (p : Team → Split → Bool) : Bool :=
  match s.team? 0, s.split? 0 0 0 with | some t, some sp => p t sp | _, _ => false
def teamOf (s : State) (p : Team → Bool) : Bool := (s.team? 0).any p

def tReq : FaceReq :=
  { unit := 3, npc := 0, pc := 0x10008, sigx := 0, rid := 0, gang := 0, split := 0, d := r 40, locs := [], uniform := false, ty := 5, acq := false
    parts := [(0, 0x100000, .read)], epoch := 0, slot := 0 }
def tLine : L1Line :=
  { asid := 1, vline := 0x2000, data := List.replicate 128 0, dirty := [], evictFirst := false, prefetched := false, owner := 0, arrive := 0, poison := []
    sick := false }

/-- Results land, sleepers and watchers wake, held contexts go on, a face unit and an eviction have something to do. -/
theorem witness_landing_and_waking :
    ctxOf (withSplit (fun sp => { sp with flight := [landing] })) (fun _ sp => sp.flight.any (fun f => f.remain == 0)) = true ∧
    ctxOf (withSplit (fun sp => { sp with flight := [{ landing with remain := 2 }] })) (fun t sp => t.onCore && sp.flight == [{ landing with remain := 2 }]
      && !(withSplit (fun sp => { sp with flight := [{ landing with remain := 2 }] })).selected t 0 0) = true ∧
    ctxOf (withSplit (fun sp => { sp with loads := [⟨5, BitVec.allOnes 32, tab32 (fun _ => 7), 1, 0⟩] })) (fun _ sp => !sp.loads.isEmpty) = true ∧
    ctxOf (withSplit (fun sp => { sp with tailings := [landing] })) (fun _ sp => sp.tailings.any (fun f => f.remain == 0)) = true ∧
    ctxOf (withSplit (fun sp => { sp with wait := .asleep 0 })) (fun _ sp => sp.wait == .asleep 0) = true ∧
    ctxOf (withSplit (fun sp => { sp with wait := .word 2 8 7 0 0 })) (fun t sp => sp.wait == .word 2 8 7 0 0 && tState.waitHolds t 2 8 7 0 0) = true ∧
    ctxOf (withSplit (fun sp => { sp with wait := .codeload (r 92) [] 0x100000 [0] })) (fun _ sp => sp.wait == .codeload (r 92) [] 0x100000 [0]) = true ∧
    ctxOf (withSplit (fun sp => { sp with wait := .ckver (r 92) [] 0x100000 1 0 })) (fun _ sp => sp.wait == .ckver (r 92) [] 0x100000 1 0) = true ∧
    (({ tState with faceReqs := [tReq] } : State).pickFace 3) = some tReq ∧
    ((({ tState with cores := [{ CoreSt.fresh tTeam.core with l1 := [tLine] }] } : State).coreOf tTeam.core).l1.any (fun l => l.is 1 0x2000)) = true := by
  decide +kernel

def hbmPage : Page := { tPage with place := .hbm 0 0 0, parked := some 0 }

/-- A page in die memory that can move, a parked page with and without a free frame. -/
theorem witness_pages :
    (hState.pages.find? (samePage 1 0x100000) = some tPage ∧ hState.freeHbm 0 11 65536 = some 0 ∧ hState.stackReady 0 11 = true ∧ tPage.parked = none ∧
      hState.pageBusy tPage = false) ∧
    (({ hState with pages := [hbmPage] } : State).pages.find? (samePage 1 0x100000) = some hbmPage ∧
      ({ hState with pages := [hbmPage] } : State).placeDie 0 65536 = some (.die 0 0 0) ∧ hState.pkgAnswers 0 = true) ∧
    (({ hState with pages := [hbmPage], ptp := 10000000, hub := { hState.hub with ready := 0 } } : State).placeDie 0 65536 = none ∧ 0 + 10000000 ≤ 10000000) ∧
    (siteSilent (.mem 0) = false ∧ siteSilent (.sig 0 0 0 1) = true ∧ (hState.team? 0).any (fun t => t.source.isNone) = true ∧ (tTeam.gangs[0]?).isSome = true) := by
  decide +kernel

/-- A team whose gang has exited, a handler masked for 2,048 clocks, a wait of 10 s, a used budget, teams asked to stop, and a team
that may move. -/
theorem witness_teams_end :
    teamOf (withTeam (fun t => { t with gangs := [{ tGang with exited := true }] })) (fun t => hState.retirable t) = true ∧
    ({ hState with now := 1707 } : State).maskExpired { tGang with handler := some { split := 0, saved := [], rcsBase := 0, start := 0, frame := 0 } } = true ∧
    ({ hState with now := 1706 } : State).maskExpired { tGang with handler := some { split := 0, saved := [], rcsBase := 0, start := 0, frame := 0 } } = false ∧
    ctxOf ({ withSplit (fun sp => { sp with wait := .bar 15 0 }) with ptp := 10000000000 } : State) (fun t sp =>
      ({ tState with ptp := 10000000000 } : State).waitExpired t 0 0 sp == some (2 ^ 63 + 2 ^ 16 + 15)) = true ∧
    teamOf (withTeam (fun t => { t with budget := 1, overruns := 7 })) (fun t => hState.overBudget t && decide (7 ≤ t.overruns)) = true ∧
    teamOf (withTeam (fun t => { t with budget := 1, overruns := 6 })) (fun t => hState.overBudget t && decide (t.overruns < 7) && t.stoppable) = true ∧
    teamOf (withTeam (fun t => { t with status := .stopping [] true })) (fun t => t.status == .stopping [] true && hState.atCommit t) = true ∧
    teamOf (withTeam (fun t => { t with status := .stopping [(5, 0, 0x10000)] false })) (fun t => t.status == .stopping [(5, 0, 0x10000)] false && hState.atCommit t) = true ∧
    teamOf (withTeam (fun t => { t with kern := { t.kern with kind := 0 } })) (fun t => t.status == .resident && t.moveReq.isNone && !t.moving
      && t.kern.kinds.contains (CoreKind.other t.core.kind)) = true ∧
    teamOf (withTeam (fun t => { t with moveReq := some 0 })) (fun t => t.moveReq == some 0 && decide (0 + 120000000 ≤ hState.dclocks)) = true := by decide +kernel

def tTask : Task :=
  { id := 9, queue := 2, asid := 1, cls := 0, prio := 0, deadline := 5, kern := tKernel, count := 2, coop := false, dbg := false, irq := false, cadr := 0
    cval := 0, argAddr := 0, budget := 0, started := [], retired := 0, ended := false, order := 0, held := [] }
def withTask (k : Task) (ts : List Team) : State := { withHub (fun h => { h with tasks := [k] }) with teams := ts }
def core0 : CoreId := { kind := .dcore, num := 0 }
def loaded (p : Preload) (s : State) : State := { s with cores := [{ CoreSt.fresh core0 with preload := some p }] }
def asleep : Team := { tTeam with task := 9, status := .suspended false }
def poor (s : State) : State := { s with hub := { s.hub with ready := 0xFFFFFFFFFFFFFF1F, config := { s.hub.config with spillPool := 131072 } } }
def inTrap : Team :=
  { tTeam with gangs := tTeam.gangs.map (fun g => { g with handler := some { split := 0, saved := [], rcsBase := 0, start := 0, frame := 0 } }) }
/-- The only ready die is the first, and a team of a low class holds all the slots of every core. -/
def full (s : State) : State :=
  { s with teams := (coresOf .dcore 0).map (fun c => { tTeam with rid := c.num, task := 8, core := c, kern := { tTeam.kern with gangs := 16 }
                                                                  gangs := (List.range 16).map (fun i => { tGang with slot := i }) })
           hub := { s.hub with ready := 0xFFFFFFFFFFFFFF1F } }

/-- Teams to place, to resume, to preload, to switch to and to drop, and a suspension that waits for a handler. -/
theorem witness_dispatch :
    (∃ u, (withTask tTask []).nextPick 0 = some (.start tTask 0 core0) ∧ (withTask tTask []).startTeam tTask 0 core0 false = some u) ∧
    (withTask { tTask with started := [0, 1] } [asleep]).nextPick 0 = some (.resume 0 core0) ∧
    (let s := withTask tTask []
     (s.coreOf core0).preload = none ∧ (s.nextFor core0).any (fun p => p.task == 9 && (s.readHeld tTask .dcore).hub.tasks.any (fun (k : Task) => k.id == p.task && !k.ended)) = true) ∧
    (let s := loaded ⟨9, 0, some 0, none⟩ (withTask tTask [asleep])
     (s.coreOf core0).preload = some ⟨9, 0, some 0, none⟩ ∧ s.hub.tasks.find? (fun (k : Task) => k.id == 9 && !k.ended) = some tTask ∧ s.team? 0 = some asleep ∧
       asleep.waits = true ∧ (s.resumeKinds asleep).contains core0.kind = true ∧ s.preloadBad ⟨9, 0, some 0, none⟩ = false ∧ s.fits core0 asleep.kern = true ∧ tTask.coop = false) ∧
    (let s := loaded ⟨9, 0, none, none⟩ (withTask tTask [])
     (s.coreOf core0).preload = some ⟨9, 0, none, none⟩ ∧ s.hub.tasks.find? (fun (k : Task) => k.id == 9 && !k.ended) = some tTask ∧
       s.fits core0 tKernel = true ∧ s.spillFits (CoreId.die core0) (s.spillNeed tTask core0.kind) = true ∧ tTask.started.contains 0 = false ∧
       ((s.setCore { s.coreOf core0 with preload := none }).startTeam tTask 0 core0 true).isSome = true) ∧
    ((withTask tTask [{ tTeam with status := .suspending }]).team? 0).any (fun t => t.status == .suspending && !t.masked) = true ∧
    ((withTask tTask [inTrap]).team? 0).any (fun t => t.masked && !t.rebuild) = true := by
  refine ⟨⟨((withTask tTask []).startTeam tTask 0 core0 false).get (by decide +kernel), by decide +kernel, by simp⟩, ?_⟩
  decide +kernel

/-- Deadline work that finds every slot of every core held, and the team that its dispatcher puts out. -/
theorem witness_victims :
    (full (withTask { tTask with kern := { tKernel with kind := 2 } } [])).deadlineStuck = some ({ tTask with kern := { tKernel with kind := 2 } }, false) ∧
    ((full (withTask { tTask with kern := { tKernel with kind := 2 } } [])).victims ({ tTask with kern := { tKernel with kind := 2 } }, false)).any (fun x =>
      x.2.all (fun r => ((full (withTask tTask [])).team? r).any (fun t => t.status != .suspending)) && !x.2.isEmpty
        && (full (withTask { tTask with kern := { tKernel with kind := 2 } } [])).victimsReady x.2) = true := by
  decide +kernel

def tJob : Job :=
  { id := 4, rid := 0, gen := 0, asid := 1, task := 0, team := 0, gang := 0, token := 1, jvpc := 0x100000, die := 0, deadline := false, kind := .copy
    src := .va 1 0x100000, dst := .va 1 0x108000, n := 64, fmt := 0, notify := none, scope := 0, chunks := 1, taken := 0, done := 0, degraded := false, lost := false, foreign := false
    taintAll := false, taint := [] }
def tTransit : Transit :=
  { id := 6, job := 4, chunk := 0, target := 0, header := none, ident := none, payload := List.replicate 64 0, s1 := 0, s2 := 0, path := [], trail := []
    poison := [], marked := none, agent := 0, buffer := none, read := none, landed := none, noted := false }
def tHop : Hop := { id := 7, pkg := 0, via := none }
def withJob (j : Job) (x : List Transit) : State := { hState with jobs := [j], transits := x }

/-- A chunk to take, one to read on, hops to pass and to have passed, a transit without its job, a reduction, a finished job, held writes,
and a source in host memory. -/
theorem witness_engines :
    ((withJob tJob []).tagFree 0 = true ∧ (withJob tJob []).pickJob 0 = some tJob) ∧
    (transit? (withJob tJob [{ tTransit with read := some 64 }]) 6 = some { tTransit with read := some 64 } ∧ job? (withJob tJob []) 4 = some tJob) ∧
    (transit? (withJob tJob [{ tTransit with path := [tHop] }]) 6 = some { tTransit with path := [tHop] } ∧ (withJob tJob [{ tTransit with path := [tHop] }]).bufferFree tHop = true) ∧
    (transit? (withJob tJob [tTransit]) 6 = some tTransit ∧ tTransit.path = [] ∧ tTransit.read = none ∧ tJob.kind ≠ .red) ∧
    job? (withJob tJob []) 5 = none ∧
    (job? (withJob { tJob with kind := .red } [tTransit]) 4 = some { tJob with kind := .red } ∧
      (withJob { tJob with kind := .red } [tTransit]).deadlineAt ((withJob { tJob with kind := .red } [tTransit]).sideUnit (tTransit.dst { tJob with kind := .red })) = false) ∧
    (job? (withJob { tJob with done := 1 } []) 4 = some { tJob with done := 1 } ∧ ({ tJob with done := 1 } : Job).done = 1) ∧
    teamOf (withTeam (fun t => { t with moving := true })) (fun t => t.moving && !t.rebuild) = true ∧
    (({ withJob tJob [] with pages := [{ tPage with place := .host 0 }] } : State).sidePlace tJob.next.1 = none ∧ tJob.taken < tJob.chunks) ∧
    (let s : State := { withJob { tJob with taken := 1 } [{ tTransit with read := some 0 }] with pages := [{ tPage with place := .host 0 }] }
     (s.transits.find? (fun x => x.job == 4 && x.chunk == 0 && x.read.isSome)) = some { tTransit with read := some 0 } ∧
       s.sidePlace (tJob.chunkAt (({ tTransit with read := some 0 } : Transit).index tJob)).1 = none) := by decide +kernel

def ahead (ws : List Word) : Ahead := { addr := 0x102000, words := some ws, ring := true, deep := false, lost := false, frames := [], args := some [] }
/-- The machine with a packet of these words at the head of queue 2, as the look-ahead has read it. -/
def packet (ws : List Word) (q : Queue) : State :=
  { hState with hub := { hState.hub with
      queues := [{ q with ahead := [ahead ws] }]
      objects := [{ handle := 1, asid := 1, kernels := [{ tKernel with handle := 2 ^ 32, kind := 2 }], ranges := [] }] } }
def q1 : Queue := { tQueue with wr := 1 }
def tKern : Kernel := { tKernel with handle := 2 ^ 32, kind := 2 }
def launchWs : List Word := [1, 0x100000000, 0x100100, 0, 0, 0, 0, 0]
/-- The translation of the kernel, and one that has run more often than the threshold of the configuration. -/
def tEntry (k : Kernel) : LodeEntry :=
  { key := lodeKey k .dcore false false 0, slot := 0, pinned := false, gen := 0, code := [], side := []
    counters := [{ Counters.zero with exec := hState.hub.config.hotThreshold }], defective := false, lastLaunch := 0 }
/-- A packet of this type issues next. -/
def issues (ty : Nat) (s : State) : Bool :=
  match s.nextQueue with
  | some (q, _) => s.hub.serving && q.num == 2 && (match q.headWords with | some ws => pType ws == ty | none => false)
  | none => false
/-- Staged, and its translation held by the lode. -/
def admitted : State :=
  { packet launchWs { q1 with staged := true } with hub := { (packet launchWs { q1 with staged := true }).hub with lode := [tEntry tKern] } }

theorem admitted_has : admitted.lodeHas tKern .dcore false = true := by
  simp [admitted, State.lodeHas, State.serving, LodeEntry.isFor, tEntry, LodeEntry.usable, Kernel.pinned, tKern, tKernel, fetchKernel]

theorem admitted_issues : ∃ q credit x k, admitted.hub.serving = true ∧ admitted.nextQueue = some (q, credit) ∧ q.headWords = some launchWs ∧ pType launchWs = 1 ∧
    q.ahead.head? = some x ∧ (admitted.visited q credit).kernel? q.asid (launchHandle launchWs) = some k := by
  have hq : admitted.hub.queues = [{ q1 with staged := true, ahead := [ahead launchWs] }] := rfl
  have hk : admitted.kernel? 1 (launchHandle launchWs) = some tKern := by decide +kernel
  have ha : admitted.admissible { q1 with staged := true, ahead := [ahead launchWs] } launchWs = true := by
    unfold State.admissible
    have : ({ q1 with staged := true, ahead := [ahead launchWs] } : Queue).asid = 1 := rfl
    rw [this, hk]
    have h1 : tKern.kinds = [.dcore] := by decide +kernel
    have h2 : launchDbg launchWs = false := by decide +kernel
    have h3 : launchBar launchWs = false := by decide +kernel
    have h4 : launchCoop launchWs = false := by decide +kernel
    have h5 : admitted.hub.ready.getLsbD 2 = true := by decide +kernel
    have h6 : admitted.hub.tasks.length = 0 := by decide +kernel
    have h7 : tKern.args = 0 := by decide +kernel
    simp [h1, h2, h3, h4, h5, h6, h7, admitted_has, ahead]
  have hi : admitted.issuable { q1 with staged := true, ahead := [ahead launchWs] } = true := by
    have h0 : ({ q1 with staged := true, ahead := [ahead launchWs] } : Queue).headWords = some launchWs := rfl
    have h1 : ({ q1 with staged := true, ahead := [ahead launchWs] } : Queue).haltReason = none := by decide +kernel
    have h2 : pType launchWs = 1 := by decide +kernel
    have h3 : ({ q1 with staged := true, ahead := [ahead launchWs] } : Queue).halted = none := rfl
    unfold State.issuable
    rw [h0, h1, h3]
    simp [h2, ha]
  have hn : admitted.nextQueue = some ({ q1 with staged := true, ahead := [ahead launchWs] }, 1) := by
    unfold State.nextQueue
    rw [hq]
    simp [hi, leastBy]
    decide +kernel
  exact ⟨_, _, ahead launchWs, tKern, by decide +kernel, hn, rfl, by decide +kernel, rfl, by decide +kernel⟩

/-- A packet of every other type that issues, a launch to stage and one to refuse, and unassigned packets. -/
theorem witness_packets :
    issues 0 (packet [0] q1) = true ∧ issues 2 (packet [2, 0x102040, 0] q1) = true ∧ issues 3 (packet [0x103] q1) = true ∧
    issues 4 (packet [0x404, 0x100200, 7] q1) = true ∧
    (let s := packet (launchWs.set 1 0x200000000) q1
     let q : Queue := { q1 with ahead := [ahead (launchWs.set 1 0x200000000)] }
     s.queue? 2 = some q ∧ pType (launchWs.set 1 0x200000000) = 1 ∧ s.refusal q (ahead (launchWs.set 1 0x200000000)) (launchWs.set 1 0x200000000) = some 2 ∧
       q.haltReason = none ∧ q.halted = none ∧ q.staged = false) ∧
    (let s := packet launchWs q1
     let q : Queue := { q1 with ahead := [ahead launchWs] }
     s.queue? 2 = some q ∧ s.refusal q (ahead launchWs) launchWs = none ∧ q.haltReason = none ∧ q.staged = false) ∧
    (let s := packet launchWs q1
     let x : Ahead := { ahead launchWs with args := some [1] }
     let q : Queue := { q1 with ahead := [x] }
     s.argsStale q x launchWs = true ∧ s.rereads q x launchWs = true) ∧
    ({ q1 with ahead := [ahead [5]] } : Queue).haltReason = some (16, 0x102000) ∧ ({ q1 with ahead := [ahead [0x100]] } : Queue).haltReason = some (17, 0x102000) := by
  decide +kernel

/-- A launch that waits for a translation. -/
def waitingFor (packages : Nat) (asks : List PeerAsk) (lode : List LodeEntry) : State :=
  { packet launchWs q1 with
    hub := { (packet launchWs q1).hub with asks := asks, lode := lode, config := { hState.hub.config with packages := packages } } }
def tAsk (late : Bool) : PeerAsk := { want := tEntry tKern, since := 0, late := late }

/-- A launch that waits for a translation with one package and with two, a question to the peers and one that no reply came to in time. -/
theorem witness_lode :
    ((waitingFor 1 [] []).waiting.find? (fun x => x.1.handle == 2 ^ 32 && x.1.kinds.contains .dcore && !(waitingFor 1 [] []).lodeHas x.1 .dcore x.2
      && !(waitingFor 1 [] []).asking ((waitingFor 1 [] []).newEntry x.1 .dcore x.2).key) = some (tKern, false) ∧
      (waitingFor 1 [] []).hub.lode.any (fun (e : LodeEntry) => e.key == (tEntry tKern).key) = false ∧ (waitingFor 1 [] []).hub.config.packages ≤ 1) ∧
    ((waitingFor 2 [] []).waiting.find? (fun x => x.1.handle == 2 ^ 32 && x.1.kinds.contains .dcore && !(waitingFor 2 [] []).lodeHas x.1 .dcore x.2
      && !(waitingFor 2 [] []).asking ((waitingFor 2 [] []).newEntry x.1 .dcore x.2).key) = some (tKern, false) ∧ 1 < (waitingFor 2 [] []).hub.config.packages) ∧
    (1 < hState.hub.config.packages ∧ 1 ≠ hState.hub.config.package ∧ hState.hub.ready.getLsbD 2 = true) ∧ 0 + 50000 ≤ hState.ptp := by decide +kernel

theorem newEntry_key (asks : List PeerAsk) (n : Nat) : ((waitingFor n asks []).newEntry tKern .dcore false).key = (tEntry tKern).key := by
  unfold State.newEntry
  rw [show tKern.pinned .dcore = none from rfl]
  rfl

theorem witness_late_ask :
    (waitingFor 2 [tAsk true] []).waiting.find? (fun x => x.1.handle == 2 ^ 32 && x.1.kinds.contains .dcore && !(waitingFor 2 [tAsk true] []).lodeHas x.1 .dcore x.2
      && !(waitingFor 2 [tAsk true] []).asking ((waitingFor 2 [tAsk true] []).newEntry x.1 .dcore x.2).key) = some (tKern, false) ∧
    (waitingFor 2 [tAsk true] []).hub.asks.find? (fun (a : PeerAsk) => a.want.key == ((waitingFor 2 [tAsk true] []).newEntry tKern .dcore false).key) = some (tAsk true) ∧
    (waitingFor 2 [tAsk false] []).hub.asks.find? (fun (a : PeerAsk) => a.want.key == (tAsk false).want.key && !a.late) = some (tAsk false) := by
  have hw : (waitingFor 2 [tAsk true] []).waiting = [(tKern, false)] := by decide +kernel
  have ha : ∀ key, (waitingFor 2 [tAsk true] []).asking key = false := fun key => by simp [waitingFor, State.asking, tAsk]
  have hl : (waitingFor 2 [tAsk true] []).lodeHas tKern .dcore false = false := by decide +kernel
  have hh : (tKern.handle == 2 ^ 32 && tKern.kinds.contains .dcore) = true := by decide +kernel
  refine ⟨?_, ?_, ?_⟩
  · rw [hw]
    simp only [List.find?_cons, ha, hl, hh]
    rfl
  · rw [newEntry_key]
    simp [waitingFor, tAsk]
  · simp [waitingFor, tAsk]

/-- An entry whose counters have reached the threshold. -/
theorem witness_hot : (waitingFor 2 [] [tEntry tKern]).hot (tEntry tKern) = some (tKern, .dcore, false) ∧
    (waitingFor 2 [] [tEntry tKern]).hub.lode.find? (fun (e : LodeEntry) => e.key == (tEntry tKern).key && ((waitingFor 2 [] [tEntry tKern]).hot e).isSome) = some (tEntry tKern) := by
  have hp : tKern.pinned .dcore = none := rfl
  have hf : (tEntry tKern).isFor tKern .dcore false = true := by simp [LodeEntry.isFor, tEntry, hp]
  have hk : (waitingFor 2 [] [tEntry tKern]).kernelOf (tEntry tKern) = some (tKern, .dcore, false) := by
    have : (waitingFor 2 [] [tEntry tKern]).hub.objects = [{ handle := 1, asid := 1, kernels := [tKern], ranges := [] }] := rfl
    simp [State.kernelOf, this, hf]
  have hg : (waitingFor 2 [] [tEntry tKern]).nextGen tKern .dcore false = 1 := by
    have : (waitingFor 2 [] [tEntry tKern]).hub.lode = [tEntry tKern] := rfl
    simp [State.nextGen, this, hf]
    rfl
  have hh : (waitingFor 2 [] [tEntry tKern]).hot (tEntry tKern) = some (tKern, .dcore, false) := by
    have h1 : (waitingFor 2 [] [tEntry tKern]).hub.config.hotThreshold ≤ (tEntry tKern).heat := by decide +kernel
    unfold State.hot
    rw [hk]
    simp only [hg, h1]
    rfl
  refine ⟨hh, ?_⟩
  have : (waitingFor 2 [] [tEntry tKern]).hub.lode = [tEntry tKern] := rfl
  simp [this, hh]

def opened : State := withHub (fun h => { h with win := (List.replicate 16 0).set 0 1, config := { h.config with testMode := true } })

def bells (q : Queue) : State := withHub (fun h => { h with queues := [{ q with device := false }] })
def lateHost : State := { opened with pages := [{ tPage with place := .hbm 0 0 0 }], hub := { opened.hub with ready := 3 } }

/-- Doorbells before and after cmd and behind an access that waits, within and beyond their ring, of a halted queue and of none; an open and a
closed aperture, a page that cannot come; the injector in and out of test mode, CMD while go is 0 and 1. -/
theorem witness_host_port :
    (hState.hub.hostOps = [] ∧ hState.hub.serving = true ∧ State.reset.hub.hostOps = [] ∧ State.reset.hub.serving = false ∧
      (withHub (fun h => { h with hostOps := [.read 0x100000 8] })).hub.hostOps ≠ []) ∧
    ((bells tQueue).queue? (128 / 64) = some { tQueue with device := false } ∧ 128 % 64 = 0 ∧ ((4 : BitVec 32) - tQueue.rd).toNat ≤ tQueue.size ∧
      tQueue.size < ((5 : BitVec 32) - tQueue.rd).toNat ∧ tQueue.halted = none ∧
      (bells { tQueue with halted := some 16 }).queue? 2 = some { tQueue with device := false, halted := some 16 } ∧
      hState.queue? 2 = some tQueue ∧ tQueue.device = true ∧ hState.queue? 3 = none) ∧
    (opened.hub.hostOps = [] ∧ opened.hub.window 0x100000 = some (1, 0x100000) ∧ (opened.hostReach 0x100000 8 false false).1 = .ok ∧ (opened.hostReach 0x100000 8 true false).1 = .ok) ∧
    ((opened.hostReach 0x40000000 8 false false).1 = .bad ∧ (opened.hostReach 0x40000000 8 true false).1 = .bad ∧ (opened.hostReach 0x200000 1 false false).1 = .bad) ∧
    (lateHost.hub.hostOps = [] ∧ (lateHost.hostReach 0x100000 8 false false).1 = .wait ∧ (lateHost.hostReach 0x100000 8 true false).1 = .wait) ∧
    (hState.hub.config.testMode = false ∧ opened.hub.config.testMode = true) ∧ (State.reset.hub.cmdGo = false ∧ (1 : Word).getLsbD 0 = true) ∧
    (withHub (fun h => { h with cmdGo := true })).hub.cmdGo = true := by decide +kernel

/-- The machine with these words in CMD and go set, on changed pages, teams and hub. -/
def cmds (ws : List Word) (f : State → State) : State :=
  f { hState with hub := { hState.hub with cmdGo := true, cmd := ws ++ List.replicate (8 - ws.length) 0 } }
def same (s : State) : State := s
/-- The command runs and its words are in order. -/
def ordered (code : Nat) (words : State → List (Nat × Bool)) (s : State) : Bool :=
  s.cmdRuns code && (offending (s.zeroAbove 0 8 :: words s)).isNone

/-- QCREATE of queue 5 in ASID 1, class 1, weight 3, 2^6 packets. -/
def qcreateWs (m : Nat) : List Word := [1, BitVec.ofNat 64 (m + 1 * 2 ^ 12 + 1 * 2 ^ 24 + 3 * 2 ^ 26 + 6 * 2 ^ 46), 0x103000, 0x104000]
def mapWs (base pages : Nat) : List Word := [0x10, 1, BitVec.ofNat 64 base, BitVec.ofNat 64 pages]
def mapOk (s : State) : Bool := ordered 0x10 State.mapWords s && (s.mapBlocked s.mapCmd).isNone
/-- An object of one JV section of 8 bytes. -/
def tObject : List Byte :=
  bytesOfWords [0x000100014F43564E, 64, 136, 0, 0, 0, 0, 0, 1, 128, 8, 0] ++ List.replicate 32 0 ++ bytesOfWords [0x0917C7FFE0FE0FE0]
def imaged (img : List Byte) (s : State) : State := { s with mem := s.mem.writeN 0x2000 img }
def coloadWs : List Word := [0x20, 1, 0x102000, 136, 0x103000]
def coloadImage (s : State) : List Byte := s.vaBytes (s.cmdField 1 0 12) (s.cmdWord 2).toNat (s.cmdWord 3).toNat
def stoppedTeam (st : TeamStatus) (s : State) : State := { s with teams := [{ tTeam with status := st }] }
/-- Area 2 of port 0 in ASID 1 at base, 2^4 slots of 2^11 bytes. -/
def ingsetWs (on : Bool) : List Word :=
  [0x70, if on then BitVec.ofNat 64 (2 + 1 * 2 ^ 6 + 1 * 2 ^ 8 + 2 ^ 20) else 2, 0x100000, if on then 11 + 4 * 16 else 0, 0, if on then 0xFFF else 0]

/-- Every command with its operands in order, and each of its outcomes. -/
theorem witness_commands :
    (ordered 1 State.qcreateWords (cmds (qcreateWs 5) same) = true ∧ (cmds (qcreateWs 5) same).queue? 5 = none) ∧
    (ordered 1 State.qcreateWords (cmds (qcreateWs 2) same) = true ∧ ((cmds (qcreateWs 2) same).queue? 2).isSome = true) ∧
    ((cmds [1] same).cmdRuns 1 = true ∧ offending ((cmds [1] same).zeroAbove 0 8 :: (cmds [1] same).qcreateWords) = some 1) ∧
    (ordered 2 (fun s => s.zeroAbove 1 12 :: s.zeroFrom 2) (cmds [2, 2] same) = true ∧ (cmds [2, 2] same).queue? 2 = some tQueue ∧ tQueue.pending = 0 ∧ tQueue.ahead = [] ∧ tQueue.look = [] ∧
      (cmds [2, 2] same).hub.tasks = []) ∧
    (mapOk (cmds (mapWs 0x200000 2) same) = true ∧ (cmds (mapWs 0x200000 2) same).pages.any (meetsPage 1 0x200000 0x20000) = false ∧
      (State.mapPagesFrom (cmds (mapWs 0x200000 2) same).mapCmd 2 0 (cmds (mapWs 0x200000 2) same)).2 = 0) ∧
    (let s := cmds [0x10, 0x2001, 0x40000000, 45] (fun s => { s with hub := { s.hub with ready := 0x103 } })
     mapOk s = true ∧ s.pages.any (meetsPage 1 0x40000000 (45 * 1073741824)) = false ∧ (State.mapPagesFrom s.mapCmd 45 0 s).2 = 1) ∧
    (ordered 0x10 State.mapWords (cmds (mapWs 0x100000 1) same) = true ∧ (cmds (mapWs 0x100000 1) same).pages.any (meetsPage 1 0x100000 65536) = true) ∧
    (let s := cmds (mapWs 0x200000 1) (fun s => { s with hub := { s.hub with ready := 3 } })
     s.cmdRuns 0x10 = true ∧ s.mapBlocked s.mapCmd = some 8 ∧ Nat.max s.hub.cmdSince (s.hub.cmdAt.getD 0) + 10000000000 ≤ s.now) ∧
    (ordered 0x11 State.unmapWords (cmds [0x11, 1, 0x100000, 1] same) = true ∧
      ((cmds [0x11, 1, 0x100000, 1] same).pages.filter (meetsPage 1 0x100000 65536)) = [tPage] ∧ (cmds [0x11, 1, 0x100000, 1] same).pageBusy tPage = false) := by
  decide +kernel

theorem witness_object_commands :
    (let s := cmds coloadWs (imaged tObject)
     ordered 0x20 State.coloadWords s = true ∧ objectBad (coloadImage s) = none ∧
     s.mapped 1 0x103000 (layoutEnd (sectionsOf (coloadImage s)) 0x103000 - 0x103000) true = true) ∧
    (let s := cmds coloadWs same
     ordered 0x20 State.coloadWords s = true ∧ objectBad (coloadImage s) = some 0xFFFFFFFF) ∧
    (let s := cmds [0x21, 0x100000000] (fun s => { s with hub := { s.hub with objects := [{ handle := 1, asid := 1, kernels := [], ranges := [] }] } })
     ordered 0x21 (fun s => (1, s.cmdField 1 0 32 == 0) :: s.zeroFrom 2) s = true ∧ s.hub.objects.any (fun (o : Object) => o.handle == s.cmdField 1 32 32) = true ∧ s.hub.tasks = []) ∧
    (let s := cmds [0x30] (stoppedTeam .stopped)
     ordered 0x30 (fun s => s.zeroAbove 1 32 :: s.zeroFrom 3) s = true ∧ s.taskTeam = some { tTeam with status := .stopped }) ∧
    (let s := cmds [0x31] same
     ordered 0x31 (fun s => s.zeroAbove 1 32 :: s.zeroFrom 3) s = true ∧ s.taskTeam = some tTeam ∧ tTeam.status = .resident) ∧
    (let s := cmds [0x40, 0x1001, 0x108000, 96] same
     ordered 0x40 State.resyncWords s = true ∧ 64 + 8 * s.summaryBody.1.length = 96) ∧
    (let s := cmds [0x40, 1, 0x108000, 64] same
     ordered 0x40 State.resyncWords s = true ∧ (s.cmdWord 3).toNat < 64 + 8 * s.summaryBody.1.length) ∧
    (ordered 0x70 State.ingsetWords (cmds (ingsetWs false) same) = true ∧ (cmds (ingsetWs false) same).cmdField 1 20 1 = 0) ∧
    (let s := cmds (ingsetWs true) same
     ordered 0x70 State.ingsetWords s = true ∧ s.cmdField 1 20 1 = 1 ∧ ((s.dropArea s.newArea.area).bringRange s.newArea.asid s.newArea.base s.newArea.bytes).isSome = true) ∧
    ((cmds [0xFF] same).hub.cmdGo = true ∧ (cmds [0xFF] same).hub.serving = true ∧ (cmds [0xFF] same).cmdField 0 0 8 = 0xFF) := by decide +kernel

/-- FWUPDATE with its operands in order and a standby that is ready; whether the image then verifies is left open by Config. -/
theorem witness_fwupdate :
    let s := cmds [0x50, 1, 0x102000, 0x4000] same
    ordered 0x50 State.fwupdateWords s = true ∧ s.hub.updating = false ∧ s.hub.ready.getLsbD 3 = true := by decide +kernel

def tArea : Ingress :=
  { area := 2, ports := 1, asid := 1, base := 0x100000, slotLog := 11, countLog := 4, interval := 1, etherType := 0, vlan := 0, matchType := false
    matchVlan := false, queue := 0xFFF, offset := 0, template := 0, frames := 0 }
def tPeer (p : PeerState) : State := withHub (fun h => { h with peers := Tab.set PeerState.normal [] 1 p })

/-- Frames that an area takes and that none takes, the clock before and after it has locked, links, peers and the power limits. -/
theorem witness_outside :
    (hState.hub.ready.getLsbD (38 + 1) = true ∧
      leastBy (fun (g : Ingress) => g.area) ((withHub (fun h => { h with ingress := [tArea] })).hub.ingress.filter (fun (g : Ingress) => g.takes 0 [])) = some tArea ∧
      tArea.takes 1 [] = false) ∧
    (hState.hub.locked = false ∧ hState.hub.booted = true ∧ hState.hub.bootStatus = 0 ∧ (withHub (fun h => { h with locked := true })).hub.locked = true) ∧
    (hState.hub.config.expected[0]? = some (1, 3) ∧ hState.hub.booted = true ∧ hState.hub.bootStatus = 0) ∧
    ((withHub (fun h => { h with links := h.links.set 17 { Link.down with ready := true, peerPkg := 1 } })).hub.links.getD 17 Link.down).ready = true ∧
    (Tab.get PeerState.normal (tPeer (.silent 9900000000)).hub.peers 1 = .silent 9900000000 ∧ 9900000000 + 100000000 ≤ (tPeer (.silent 9900000000)).ptp) ∧
    Tab.get PeerState.normal (tPeer (.recovering 0)).hub.peers 1 = .recovering 0 ∧
    (650 ≤ hState.hub.dclock ∧ (withHub (fun h => { h with dclock := 1150 })).hub.dclock + 50 ≤ 1200) := by decide +kernel

/-- The machine whose package has been reset, with a number of units ready. -/
def bootState (ready : Word) (now : Nat) : State := { State.reset with now := now, hub := { Hub.initial with booted := true, ready := ready } }

/-- Units that start in their order and are late, and complexes that fail and come back. -/
theorem witness_boot :
    ((bootState 0 0).startable 0 = true ∧ (bootState 1 0).startable 1 = true ∧ (bootState 3 0).startable 2 = true ∧ (bootState 3 0).startable 39 = true) ∧
    ((bootState 1 0).startable 3 = true ∧ (bootState 1 0).hub.updating = false) ∧
    (let s : State := { bootState 1 0 with hub := { (bootState 1 0).hub with updating := true } }
     s.startable 3 = true ∧ s.hub.updating = true) ∧
    ((bootState 0 2000000000).lateBit 0 = true ∧ (bootState 0 1999999999).lateBit 0 = false) ∧
    ((bootState 9 0).hub.ready.getLsbD 0 = true ∧ (bootState 9 0).hub.ready.getLsbD 3 = true) ∧
    (let s : State := { bootState 1 0 with hub := { (bootState 1 0).hub with dusk := { Complex.inRom with failed := true } } }
     (s.complex false).failed = true ∧ (s.complex false).dead = false) ∧
    (let s : State := { bootState 1 0 with hub := { (bootState 1 0).hub with dusk := { Complex.inRom with up := true } } }
     (s.complex false).up = true) := by decide +kernel

/-! ## The statements about every state -/

/-- Every form written out above is well formed, with and without a modifier word, and so is every slot word of the spec. -/
theorem witness_well_formed :
    ((formInt ++ formLogic ++ formMove ++ formFloat ++ formConvert ++ formGang ++ formControl ++ formWait ++ formMemory ++ formHaul ++ formMatrix ++ formSystem).all
      (fun x => x.2.2.wf x.2.1)) = true ∧ specSlots.all (fun x => x.2.2.wf x.2.1) = true := by decide +kernel

/-- Memory in its canonical form in a state that steps; a page, bytes up to its last one, in canonical memory. -/
theorem witness_memory_states :
    MemOk (State.reset.withFetchWord 64 0xFC40000000000005) ∧ (∃ t, step (State.reset.withFetchWord 64 0xFC40000000000005) = .next t) ∧
    MemOk tState ∧ tState.page? 1 0x10FFF8 = some tPage ∧ 0x10FFF8 + (List.replicate 8 (1 : Byte)).length ≤ tPage.vbase + tPage.size := by
  refine ⟨by unfold MemOk; decide +kernel, ?_, by unfold MemOk; decide +kernel, by decide +kernel, by decide +kernel⟩
  have h : (match step (State.reset.withFetchWord 64 0xFC40000000000005) with | .next _ => true | _ => false) = true := by decide +kernel
  cases hs : step (State.reset.withFetchWord 64 0xFC40000000000005) with
  | next t => exact ⟨t, rfl⟩
  | fault e => rw [hs] at h; cases h
  | refused e => rw [hs] at h; cases h

/-- A placed JV word is where the only context stands; a placed slot word is alone in its bundle; an event waits on the agenda. -/
theorem witness_fetch :
    (let s := State.reset.withFetchWord 64 0x010547F005000F07
     s.agenda = [] ∧ s.due = none ∧ s.turn % 2 = 0 ∧ (match s.candidate with
      | some x => (match (picked s x).team? x.1.rid with
        | some t => (match t.gangs[x.1.gang]? with
          | some g => (match g.splits[x.1.split]? with
            | some sp => !(t.runsNative g) && t.source.isNone && t.moveReq.isNone && sp.wait == .ready && (picked s x).holdOf t x.1.gang g x.1.split sp != .short
                && (match t.fetchWords sp.region sp.pc with | some ws => (match decodeJv ws with | .ok _ _ _ => true | .bad _ _ => false) | none => false)
            | none => false)
          | none => false)
        | none => false)
      | none => false) = true) ∧
    (let s := State.reset.withFetchWord 64 0xFC40000000000005
     (match s.team? 0, s.split? 0 0 0 with
      | some t, some sp => (match t.bundleAt sp.pc with
        | some ws => (match decodeBundle t.core.kind ws with
          | (0, .ok (.rrbset, f)) :: rest => rest.all (fun y => match y.2 with | .ok (.nop, _) => true | _ => false)
              && sp.stage.isNone && sp.reissue.isNone && !(implicitCommit .rrbset ((Form.nat f).args .rrbset)) && !(explicitCommit .rrbset) && !(performsFirst .rrbset)
              && (match exec (Instr.ofOp .rrbset (.nat f)) { s.updSplit 0 0 0 (fun y => { y with pc := sp.pc + bundleBytes t.core.kind }) with cur := some { rid := 0, gang := 0, split := 0 } } with
                | .next u => (u.stopOf { rid := 0, gang := 0, split := 0 }).isNone && (u.split? 0 0 0).any (fun q => !q.beyond 0)
                | _ => false)
          | _ => false)
        | none => false)
      | _, _ => false) = true) ∧ ({ State.reset with agenda := [.packageReset] } : State).agenda = .packageReset :: [] := by decide +kernel

/-- An add in the open context and without one, one whose guard excludes every lane, one that is ill formed and one whose address is not
a multiple of its width. -/
theorem witness_execution_model :
    (Instr.ofOp .add (.jv (z 5 (r 40) (r 0) (r 1) .none))).parts = some (.add, .jv (z 5 (r 40) (r 0) (r 1) .none)) ∧
    (View.open tState).isSome = true ∧ View.open { tState with cur := none } = none ∧
    (let f : Form := .jv { z 5 (r 40) (r 0) (r 1) .none with guard := .direct 97 }
     Form.problem .add f = none ∧ (View.open tState).any (fun v => lanes .add f v == 0
       && (Raise.first ((v.enter .add f).idleConditions .add f (ownChecks .add f))).isNone) = true) ∧
    (Form.problem .add (.jv (z 10 (r 40) (r 0) (r 1) .none))).isSome = true ∧
    (let f : Form := .jv { zm 5 (r 40) (r 80) .none .none with off := 1, spc := 3 }
     Form.problem .ld f = none ∧ (View.open tState).any (fun v => lanes .ld f v != 0
       && (Raise.first ((v.enter .ld f).conditions .ld f (ownChecks .ld f))).any (fun x => x.cause == 128)) = true) ∧
    ([⟨128, 0, 0⟩] : List Raise) ≠ [] := by decide +kernel

/-- A lane register, a uniform one and a predicate of the open context. -/
theorem witness_results_land : (View.open tState).any (fun v => v.isLane (r 40) && v.isLane (r 0) && !(v.isLane (r 83)) && Tab.wf (JvVal.uni 0) v.g.jregs
    && v.jreg 96 == .pred 0xFF && (match v.jreg 0 with | .lane _ => true | _ => false)) = true := by decide +kernel

/-- The form executes and answers a next state. -/
def frames (o : Op) (f : JvForm) (p : View → Args → Bool) : Bool := jw tState o f (fun w a _ => p w a) && (after o f tState).isSome

/-- A register operation, a load and a store that answer a next state: nothing acquires or releases, and no poison lies near. -/
theorem witness_frames :
    frames .add (z 5 (r 40) (r 0) (r 1) .none) (fun _ _ => registerOps.contains .add) = true ∧ frames .fadd (z 10 (r 40) (.lit 4) (.lit 2) .none) (fun _ _ => registerOps.contains .fadd) = true ∧
    frames .ld { zm 5 (r 40) (r 81) .none .none with spc := 2 } (fun w a => a.spc != 3 && (a.acq && a.wide) == false &&
      (List.range 32).all (fun l => !(w.nearPoison a.spc (w.addr a l) (tyBytes a.ty)))) = true ∧
    frames .st { zm 5 .none (r 81) (r 0) .none with off := 64, spc := 2 } (fun _ a => a.spc != 3 && (a.rel && a.wide) == false) = true ∧
    (let s : State := { tState with cores := [{ CoreSt.fresh tTeam.core with l1 := [tLine] }] }
     (s.coreOf tTeam.core).l1.find? (fun x => x.is 1 (0x10007C / 128)) = some tLine ∧ tLine.prefetched = false ∧ tLine.data.length = 128 ∧ 0x10007C % 128 + 4 ≤ 128 ∧
       s.page? 1 (0x10007C / 128 * 128) = some tPage ∧ tPage.vbase ≤ 0x10007C / 128 * 128 ∧ 0x10007C / 128 * 128 + 128 ≤ tPage.vbase + tPage.size) ∧
    (tState.coreOf tTeam.core).l1.find? (fun x => x.is 1 (0x10007C / 128)) = none := by decide +kernel

/-- A split that diverges with a free split number, and with none. -/
theorem witness_divergence : (View.open tState).any (fun v => v.g.handler.isNone && (0xFF : Mask) &&& ~~~v.sp.mask == 0 && decide (v.k < v.g.splits.length)
      && (List.range 4).find? (fun j => j != v.k && !((v.g.splits.getD j Split.unused).used)) == some 1 && v.g.rcs.isEmpty) = true ∧
    (View.open (withGang (fun g => { g with splits := g.splits.map (fun sp => { sp with used := true }) }))).any (fun v =>
      ((List.range 4).find? (fun j => j != v.k && !((v.g.splits.getD j Split.unused).used))).isNone) = true := by decide +kernel

def tFault : FaultAt := { rid := 0, gang := 0, split := 0 }
def handled (frame : Nat) : Gang := { tGang with tvec := 0x10000, tframe := frame }
/-- A gang that a fault has reached and whose handler is still to be entered. -/
def onEntry (frame : Nat) : Gang := { (handled frame).rollbackAll with entering := some (⟨128, 0, 0⟩, tFault) }
def inHandler : Gang := { handled 0x108000 with handler := some { split := 0, saved := tGang.splits, rcsBase := 0, start := 0, frame := 0x108000 } }

/-- A native team whose translation maps JV register 82 to register 130, and a gang of it in a handler. -/
def nTeam : Team :=
  let t := fetchTeam (fetchKernel 1 [0] true) 0 0
  { t with kern := { t.kern with pinnedD := t.kern.pinnedD.map (fun c => { c with maps := [⟨82, 130, 0, false⟩] }) } }
def nRecord : Record := { jvpc := 0, eq := true, keyed := false, npc := 0, xpc := 0, safe := 0, nmap := 1, rrb := 0, first := 0 }
def nGang : Gang :=
  let g := nTeam.gangs.headD tGang
  let snap : Snapshot := { pc := 0, mask := BitVec.allOnes 32, fmt := 0, sig := 0, ret := [], lr := 0, rrb := 0, flight := [], regs := g.nregs
                           record := some nRecord, again := none }
  let g1 := g.updSplit 0 (fun sp => { sp with snap := some snap })
  { g1 with tvec := 0x10000, tframe := 0x108000, handler := some { split := 0, saved := g1.splits, rcsBase := 0, start := 0, frame := 0x108000 } }
def nHandler : State := { tState with teams := [{ nTeam with gangs := [nGang] }] }

/-- A handler of native code that ends with one register to place; a gang that holds a fault already; a split with a commit point; a waiting read. -/
theorem witness_native_exceptions :
    (let s := nHandler
     (s.team? 0).any (fun t => t.native && t.natCode.any (fun c => c.valuesOf nRecord == [⟨82, 130, 0, false⟩])) = true ∧
     (nGang.handler).any (fun h => (h.saved[0]?).any (fun sp => sp.used && sp.snap.any (fun n => n.record == some nRecord))
       && (h.saved.drop 1).all (fun y => !y.used)) = true ∧
     (s.dropFrame nTeam.core 1 0x108000).access 1 0x108000 false = .ok 0x8000) ∧
    ((onEntry 0).tvec ≠ 0 ∧ (onEntry 0).handler = none ∧ (onEntry 0).entering.isSome = true) ∧
    (nGang.splits[0]?).any (fun sp => sp.used && !sp.performing && sp.snap.isSome) = true ∧
    (let g : Gang := { nGang with handler := none }
     g.tvec ≠ 0 ∧ g.handler = none ∧ g.entering = none ∧ nTeam.native = true ∧ nTeam.deliverable = true) ∧
    (tReq.parts.all (fun x => x.2.2 == .read)) = true := by decide +kernel

/-- No handler, masked traps, a frame without a page, a frame on its page, and a handler that ends. -/
theorem witness_exceptions :
    (tState.team? 0 = some tTeam ∧ tTeam.gangs[0]? = some tGang ∧ tGang.tvec = 0) ∧ (inHandler.tvec ≠ 0 ∧ inHandler.handler.isSome = true) ∧
    ((handled 0).tvec ≠ 0 ∧ (handled 0).handler = none ∧ tTeam.native = false ∧ { tTeam with status := .suspending }.deliverable = false ∧
      (withGang (fun _ => onEntry 0)).entryWaits { tTeam with gangs := [onEntry 0] } 0 (onEntry 0) = false ∧
      (withGang (fun _ => onEntry 0)).frameAccess 1 ((onEntry 0).tframe + 16384 * 0) = .raise 193 ∧
      (let s : State := { withGang (fun _ => onEntry 0x108000) with faceReqs := [tReq] }
       s.entryWaits { tTeam with gangs := [onEntry 0x108000] } 0 (onEntry 0x108000) = true)) ∧
    (let s := withGang (fun _ => onEntry 0x108000)
     let g := onEntry 0x108000
     MemOk s ∧ (s.team? 0).isSome = true ∧ (s.team? 0).bind (fun t => t.gangs[0]?) = some g ∧ g.entering = some (⟨128, 0, 0⟩, tFault) ∧
     s.entryWaits { tTeam with gangs := [g] } 0 g = false ∧ s.page? 1 g.tframe = some tPage ∧
     (g.splits[0]?).any (fun sp => decide (g.tframe + (frameBytes { tTeam with gangs := [g] } g ⟨128, 0, 0⟩ tFault sp.tailings).length ≤ tPage.vbase + tPage.size)) = true ∧
     s.frameAccess 1 g.tframe = .ok 0x8000) ∧
    (let s := withGang (fun _ => inHandler)
     (s.team? 0).bind (fun t => t.gangs[0]?) = some inHandler ∧ (s.team? 0).any (fun t => !t.native) = true ∧ (tGang.splits[0]?).any (fun sp => sp.used) = true ∧
     (s.dropFrame tTeam.core 1 0x108000).access 1 0x108000 false = .ok 0x8000) := by
  refine ⟨by decide +kernel, by decide +kernel, by decide +kernel, ⟨by unfold MemOk; decide +kernel, by decide +kernel⟩, by decide +kernel⟩

/-- A result of latency 4 on its way, and the limits of the rounding modes. -/
theorem witness_latency : (withSplit (fun sp => { sp with flight := [{ landing with remain := 4 }] })).split? 0 0 0 =
    some { (tGang.splits.getD 0 Split.unused) with flight := [{ landing with remain := 4 }] } ∧ 0 < 4 ∧ ({ landing with remain := 4 } : Flight).remain = 4 ∧ (3 : Nat) < 4 := by
  decide +kernel

end Sys2Proof.Tests
end

/-! PROOFS. An encoded instruction is the shared execution of R154 and R447 around an effect of its own, so what `runOp` always
answers, every encoded instruction always answers. -/

namespace Sys2Proof.Proofs

open Sys2Proof.Machine Sys2Proof.Safety Sys2Proof.Laws

/-- An encoded instruction is the one that its operation and form name. -/
theorem eq_ofOp_of_parts {i : Instr} {o : Op} {f : Form} (h : i.parts = some (o, f)) : i = Instr.ofOp o f := by
  cases i <;> cases h <;> rfl

/-- No operation bypasses `runOp`: each has the conditions that `ownChecks` lists for it, and one effect for every state. -/
theorem exec_ofOp_eq_runOp (o : Op) (f : Form) :
    ∃ body : View → Args → Mask → Out, ∀ s, exec (Instr.ofOp o f) s = runOp o f s (ownChecks o f) body := by
  cases o <;> (dsimp only [Instr.ofOp, exec]; exact ⟨_, fun _ => rfl⟩)

/-- Settles O40: `runOp` answers a next state wherever a context is open, and `noContext` where none is. -/
theorem encodedInstructionsAlwaysAnswer : Obligations.EncodedInstructionsAlwaysAnswer := by
  unfold Obligations.EncodedInstructionsAlwaysAnswer
  intro i o f s hparts
  obtain ⟨body, hexec⟩ := exec_ofOp_eq_runOp o f
  rw [eq_ofOp_of_parts hparts, hexec s]
  exact ⟨fun _ hopen => runOp_next hopen _ body, fun hclosed => runOp_noContext hclosed _ body⟩

end Sys2Proof.Proofs

/-! PROOFS. What the engines' events do with chunks, case by case of where a chunk stands, and how a finished job completes (R90, R376, R467). -/

namespace Sys2Proof.Proofs

open Sys2Proof.Machine

/-! ## A chunk at its next hop -/

section Crossing

variable {s : State} {j : Job} {t : Transit} {h : Hop}

/-- Nothing but the buffer at its far end holds a chunk back from a hop that crosses no link of this package, or a link that is ready. -/
theorem crossing_of_ready (hready : h.via = none ∨ ∃ l, h.via = some l ∧ (s.hub.links.getD l Link.down).ready = true) :
    s.crossing j t h = if s.bufferFree h then .pass else .wait := by
  obtain hnone | ⟨l, hlink, hup⟩ := hready
  · simp only [State.crossing, hnone]
  · simp only [State.crossing, hlink, hup, if_true]

theorem crossing_eq_turn {l : Nat} (hlink : h.via = some l) (hdown : (s.hub.links.getD l Link.down).ready = false)
    (hroute : s.haulRoute (s.farSide j t h) 0 = none) (hfar : s.farSide j t h ≠ s.hub.config.package) : s.crossing j t h = .turn := by
  simp only [State.crossing, hlink, hdown, hroute, if_neg hfar, Bool.false_eq_true, if_false]

theorem crossing_eq_wait_of_park {l : Nat} {w : Wait} (hlink : h.via = some l) (hdown : (s.hub.links.getD l Link.down).ready = false)
    (hroute : s.haulRoute (s.farSide j t h) 0 = some (.park w)) : s.crossing j t h = .wait := by
  simp only [State.crossing, hlink, hdown, hroute, Bool.false_eq_true, if_false]

end Crossing

/-! ## Chunks in transit -/

section ChunkHop

variable {s : State} {flight : Nat} {t : Transit} {j : Job} {h : Hop} {rest : List Hop}

theorem execChunkHop_of_no_job (ht : transit? s flight = some t) (hj : job? s t.job = none) :
    execChunkHop flight s = .next (s.dropTransit flight) := by
  simp only [execChunkHop, ht, hj]

variable (ht : transit? s flight = some t) (hj : job? s t.job = some j)
include ht hj

theorem execChunkHop_of_reading {got : Nat} (hread : t.read = some got) : execChunkHop flight s = .next (s.sendChunk j t got) := by
  simp only [execChunkHop, ht, hj, hread]

variable (hread : t.read = none)
include hread

theorem execChunkHop_of_pass (hpath : t.path = h :: rest) (hc : s.crossing j t h = .pass) :
    execChunkHop flight s = .next (s.chunkHop j t h rest) := by
  simp only [execChunkHop, ht, hj, hread, hpath, hc]

theorem execChunkHop_of_wait (hpath : t.path = h :: rest) (hc : s.crossing j t h = .wait) : execChunkHop flight s = .next s := by
  simp only [execChunkHop, ht, hj, hread, hpath, hc]

theorem execChunkHop_of_turn (hpath : t.path = h :: rest) (hc : s.crossing j t h = .turn) :
    execChunkHop flight s = .next { s with
      transits := updFirst (fun (q : Transit) => q.id == t.id) (fun (q : Transit) => { q with path := s.turnPath j t h }) s.transits } := by
  simp only [execChunkHop, ht, hj, hread, hpath, hc]

theorem execChunkHop_at_end (hpath : t.path = []) (hkind : j.kind ≠ .red) : execChunkHop flight s = .next (s.land j t) := by
  simp only [execChunkHop, ht, hj, hread, hpath, if_neg hkind]

end ChunkHop

theorem land_tens {s : State} {j : Job} {t : Transit} {map : List Word} {store : Bool} {origin : List Int} (hkind : j.kind = .tens map store origin) :
    s.land j t = s.landTens j t map store origin none := by
  simp only [State.land, hkind]

theorem land_rows {s : State} {j : Job} {t : Transit} {map : List Word} {store : Bool} {index : List Nat} (hkind : j.kind = .rows map store index) :
    s.land j t = s.landTens j t map store [] (some index) := by
  simp only [State.land, hkind]

/-- Only tensor transfers land otherwise than whole. -/
theorem land_plain {s : State} {j : Job} {t : Transit} (htens : ∀ map store origin, j.kind ≠ .tens map store origin)
    (hrows : ∀ map store index, j.kind ≠ .rows map store index) : s.land j t = s.landTransit j t := by
  unfold State.land
  split
  next hkind => exact absurd hkind (htens _ _ _)
  next hkind => exact absurd hkind (hrows _ _ _)
  next => rfl

theorem execChunkReduction_at_turn {s : State} {flight : Nat} {t : Transit} {j : Job} (ht : transit? s flight = some t) (hj : job? s t.job = some j)
    (hread : t.read = none) (hpath : t.path = []) (hkind : j.kind = .red) (hturn : j.deadline = true ∨ s.deadlineAt (s.sideUnit (t.dst j)) = false) :
    execChunkReduction flight s = .next (s.reduce j t) := by
  have hatUnit : t.atUnit j = true := by simp [Transit.atUnit, hread, hpath, hkind]
  have hfirst : (j.deadline || !s.deadlineAt (s.sideUnit (t.dst j))) = true := by simpa using hturn
  simp only [execChunkReduction, ht, hj, hatUnit, hfirst, Bool.and_self, if_true]

/-! ## Chunks that agents take, jobs that end, held writes and lost reads -/

theorem execHaulChunk_of_pick {s : State} {die agent : Nat} {j : Job} (hdie : die < 4) (hagent : agent < 16) (htag : s.tagFree die = true)
    (hpick : s.pickJob die = some j) : execHaulChunk die agent s = .next (s.takeChunk j die agent) := by
  have henabled : ¬ (4 ≤ die ∨ 16 ≤ agent ∨ (!s.tagFree die) = true) := by simpa [htag] using ⟨hdie, hagent⟩
  simp only [execHaulChunk, if_neg henabled, hpick]

theorem execHaulJobComplete_of_done {s : State} {id : Nat} {j : Job} (hj : job? s id = some j) (hdone : j.done = j.chunks) :
    execHaulJobComplete id s = .next (s.completeJob j) := by
  simp only [execHaulJobComplete, hj, if_pos hdone]

theorem execHeldWriteRelease_of_held {s : State} {rid : Nat} {t : Team} (ht : s.team? rid = some t) (hrebuild : t.rebuild = false)
    (hheld : t.moving = true ∨ t.heldWrites ≠ []) : execHeldWriteRelease rid s = .next (s.releaseHeld t) := by
  have hreleases : t.releases = true := by simpa [Team.releases, hrebuild] using hheld
  simp only [execHeldWriteRelease, ht, hreleases, if_true]

section PcieTimeout

variable {s : State} {id : Nat} {j : Job}

/-- The read that the host leaves open is that of the chunk which an agent takes now. -/
theorem execPcieCompletionTimeout_of_next (hj : job? s id = some j) (hmore : j.taken < j.chunks) (hkind : j.kind = .copy)
    (hhost : s.sidePlace j.next.1 = none) :
    execPcieCompletionTimeout id j.taken s =
      .next (((s.updJob id (fun q => { q with taken := q.taken + 1 })).degrade j 332 0 j.next.1.addr j.taken).chunkDone j) := by
  simp [execPcieCompletionTimeout, hj, hmore, hkind, hhost]

/-- The read that the host leaves open is that of a chunk taken before. -/
theorem execPcieCompletionTimeout_of_reading {chunk : Nat} {t : Transit} (hj : job? s id = some j) (hother : j.taken ≠ chunk) (hkind : j.kind = .copy)
    (ht : s.transits.find? (fun x => x.job == id && x.chunk == chunk && x.read.isSome) = some t) (hhost : s.sidePlace (j.chunkAt (t.index j)).1 = none) :
    execPcieCompletionTimeout id chunk s = .next (((s.dropTransit t.id).degrade j 332 0 (j.chunkAt (t.index j)).1.addr chunk).chunkDone j) := by
  simp [execPcieCompletionTimeout, hj, hother, hkind, ht, hhost]

end PcieTimeout

/-- Settles O25: each event's equation for the case that its clause names; a hop's clauses go by what the chunk meets there (`State.crossing`). -/
theorem enginesMoveChunks : Obligations.EnginesMoveChunks := by
  unfold Obligations.EnginesMoveChunks
  intro s
  refine ⟨?take, ?read, ?hop, ?land, ?orphan, ?reduce, ?complete, ?held, ?hostNext, ?hostReading⟩
  case take => exact fun _ _ _ hdie hagent htag hpick => execHaulChunk_of_pick hdie hagent htag hpick
  case read => exact fun _ _ _ _ ht hj hread => execChunkHop_of_reading ht hj hread
  case hop =>
    intro flight t j h rest ht hj hread hpath
    refine ⟨fun hready => ⟨fun hfree => ?_, fun hfull => ?_⟩, fun l hlink hdown => ⟨fun hroute hfar => ?_, fun w hroute => ?_⟩⟩
    · exact execChunkHop_of_pass ht hj hread hpath (by rw [crossing_of_ready hready, if_pos hfree])
    · exact execChunkHop_of_wait ht hj hread hpath (by rw [crossing_of_ready hready, hfull]; rfl)
    · exact execChunkHop_of_turn ht hj hread hpath (crossing_eq_turn hlink hdown hroute hfar)
    · exact execChunkHop_of_wait ht hj hread hpath (crossing_eq_wait_of_park hlink hdown hroute)
  case land =>
    intro flight t j ht hj hread hpath
    have hland (hkind : j.kind ≠ .red) : exec (.chunkHop flight) s = .next (s.land j t) := execChunkHop_at_end ht hj hread hpath hkind
    refine ⟨fun map store origin hkind => ?_, fun map store index hkind => ?_, fun hred htens hrows => ?_⟩
    · rw [hland (by simp [hkind]), land_tens hkind]
    · rw [hland (by simp [hkind]), land_rows hkind]
    · rw [hland hred, land_plain htens hrows]
  case orphan => exact fun _ _ ht hj => execChunkHop_of_no_job ht hj
  case reduce => exact fun _ _ _ ht hj hread hpath hkind hturn => execChunkReduction_at_turn ht hj hread hpath hkind hturn
  case complete => exact fun _ _ hj hdone => execHaulJobComplete_of_done hj hdone
  case held => exact fun _ _ ht hrebuild hheld => execHeldWriteRelease_of_held ht hrebuild hheld
  case hostNext => exact fun _ _ hj hmore hkind hhost => execPcieCompletionTimeout_of_next hj hmore hkind hhost
  case hostReading => exact fun _ _ _ _ hj hother hkind ht hhost => execPcieCompletionTimeout_of_reading hj hother hkind ht hhost

end Sys2Proof.Proofs

/-! PROOFS. Events from outside keep the links that they do not name, and the readiness bits are each their own: what the link events leave
(R394, R400, R485). -/

namespace Sys2Proof.Proofs

open Sys2Proof.Machine Sys2Proof.Laws

/-- An event that its condition enables has its effect. -/
theorem when_of_enabled {s t : State} {p : Bool} (h : p = true) : when s p t = .next t := by
  rw [when, if_pos h]

/-- What every step of a fold keeps, the fold keeps. -/
theorem foldl_keeps {σ α β : Type} (proj : σ → β) {f : σ → α → σ} (hf : ∀ s a, proj (f s a) = proj s) (l : List α) (s : σ) :
    proj (l.foldl f s) = proj s := by
  induction l generalizing s with
  | nil => rfl
  | cons a l ih => rw [List.foldl_cons, ih, hf]

/-! ## What leaves the hub alone -/

@[simp] theorem writeBackLine_hub (s : State) (l : L1Line) : (s.writeBackLine l).hub = s.hub := by
  have hstores (base : Nat) : (l.dirty.foldl (fun (s : State) b => { s with mem := s.mem.write (base + b) (l.data.getD b 0) }) s).hub = s.hub := by
    rw [foldl_keeps State.hub]
    exact fun _ _ => rfl
  unfold State.writeBackLine
  split
  · rfl
  · split
    · rfl
    · exact hstores _

@[simp] theorem countUnused_hub (s : State) (l : L1Line) : (s.countUnused l).hub = s.hub := by
  unfold State.countUnused
  split <;> simp

@[simp] theorem dropLine_hub (s : State) (c : CoreId) (asid vline : Nat) : (s.dropLine c asid vline).hub = s.hub := by
  unfold State.dropLine
  dsimp only
  split <;> simp

@[simp] theorem dropFrame_hub (s : State) (c : CoreId) (asid frame : Nat) : (s.dropFrame c asid frame).hub = s.hub :=
  foldl_keeps State.hub (fun s i => dropLine_hub s c asid (frame / 128 + i)) _ s

@[simp] theorem putVa_hub (s : State) (asid va : Nat) (bs : List Byte) : (s.putVa asid va bs).hub = s.hub := by
  unfold State.putVa
  split
  · split
    · simp
    · refine foldl_keeps State.hub (fun s a => ?_) _ s
      split <;> simp
  · rfl

@[simp] theorem enterHandler_hub (s : State) (t : Team) (g : Gang) (r : Raise) (fa : FaultAt) : (s.enterHandler t g r fa).hub = s.hub := by
  unfold State.enterHandler
  split
  · rfl
  · cases t.native <;> simp

@[simp] theorem endTeam_hub (s : State) (rid cause masked gang jvpc addr : Nat) : (s.endTeam rid cause masked gang jvpc addr).hub = s.hub :=
  updTeam_hub s rid _

@[simp] theorem dropPreloads_hub (s : State) (p : Preload → Bool) : (s.dropPreloads p).hub = s.hub := by
  unfold State.dropPreloads
  split <;> rfl

@[simp] theorem stopTeam_hub (s : State) (rid cause masked gang jvpc addr : Nat) : (s.stopTeam rid cause masked gang jvpc addr).hub = s.hub := by
  unfold State.stopTeam
  split
  · rfl
  · dsimp only
    rw [dropPreloads_hub]
    dsimp only
    split
    · rw [foldl_keeps State.hub (fun s (u : Team) => endTeam_hub s u.rid cause masked 0 (2 ^ 64 - 1) 0), endTeam_hub]
    · exact endTeam_hub ..

/-! ## What keeps the links: a terminated team is logged, and nothing more of the hub changes -/

@[simp] theorem terminate_links (s : State) (rid cause masked gang jvpc : Nat) : (s.terminate rid cause masked gang jvpc).hub.links = s.hub.links := by
  unfold State.terminate State.terminateAt
  split
  · rfl
  · dsimp only
    split <;> simp [State.log]

theorem tryEnter_links (s : State) (rid gang : Nat) : (s.tryEnter rid gang).hub.links = s.hub.links := by
  unfold State.tryEnter
  split
  · rfl
  · split
    · rfl
    · split
      · rfl
      · split
        · rfl
        · dsimp only
          split
          · exact terminate_links ..
          · split <;> simp
          · rw [enterHandler_hub]

@[simp] theorem settleEntries_links (s : State) : s.settleEntries.hub.links = s.hub.links := by
  refine foldl_keeps (fun (u : State) => u.hub.links) (fun s t => ?_) _ s
  split
  · refine foldl_keeps (fun (u : State) => u.hub.links) (fun s x => ?_) _ s
    split
    · exact tryEnter_links ..
    · rfl
  · rfl

@[simp] theorem releasePeer_links (s : State) (pkg since : Nat) : (s.releasePeer pkg since).hub.links = s.hub.links := settleEntries_links _

/-! ## Readiness bits and their events -/

theorem flushEvents_keeps (n : Nat) (s : State) :
    (State.flushEvents n s).hub.links = s.hub.links ∧ (State.flushEvents n s).hub.ready = s.hub.ready := by
  induction n generalizing s with
  | zero => exact ⟨rfl, rfl⟩
  | succ n ih =>
    unfold State.flushEvents
    split
    · exact ⟨rfl, rfl⟩
    · split
      · exact ⟨rfl, rfl⟩
      · exact ih _

theorem event_keeps (s : State) (kind n gang task team : Nat) (jvpc value : Word) :
    (s.event kind n gang task team jvpc value).hub.links = s.hub.links ∧ (s.event kind n gang task team jvpc value).hub.ready = s.hub.ready :=
  flushEvents_keeps 64 _

theorem setReady_keeps (s : State) (bit : Nat) (on : Bool) :
    (s.setReady bit on).hub.links = s.hub.links ∧
      (s.setReady bit on).hub.ready = if on then s.hub.ready ||| (1#64 <<< bit) else s.hub.ready &&& ~~~(1#64 <<< bit) := by
  unfold State.setReady
  dsimp only
  generalize (if on then s.hub.ready ||| (1#64 <<< bit) else s.hub.ready &&& ~~~(1#64 <<< bit)) = r
  split
  next hsame => exact ⟨rfl, hsame.symm⟩
  next => exact event_keeps ..

@[simp] theorem setReady_links (s : State) (bit : Nat) (on : Bool) : (s.setReady bit on).hub.links = s.hub.links := (setReady_keeps s bit on).1

/-- A bit of READY after one of them has been set or cleared. -/
theorem setReady_getLsbD (s : State) {bit i : Nat} (on : Bool) (hi : i < 64) :
    (s.setReady bit on).hub.ready.getLsbD i = if i = bit then on else s.hub.ready.getLsbD i := by
  have hmask : (1#64 <<< bit).getLsbD i = decide (i = bit) := by
    rw [← BitVec.twoPow_eq, BitVec.getLsbD_twoPow]
    simp only [eq_comm (a := bit), Bool.and_eq_right_iff_imp, decide_eq_true_eq]
    omega
  rw [(setReady_keeps s bit on).2]
  cases on
  case false =>
    simp only [Bool.false_eq_true, if_false, BitVec.getLsbD_and, BitVec.getLsbD_not, hmask, hi]
    by_cases h : i = bit <;> simp [h]
  case true =>
    simp only [if_true, BitVec.getLsbD_or, hmask]
    by_cases h : i = bit <;> simp [h]

/-! ## Links -/

/-- A link's readiness bit is set before the domain's, and both keep the links. -/
theorem openLink_keeps (u : State) {bit : Nat} (hbit : bit < 41) :
    let r := u.setReady bit true
    let t := if r.hub.domReady then r.setReady 41 true else r
    t.hub.links = u.hub.links ∧ t.hub.ready.getLsbD bit = true := by
  have hset : (u.setReady bit true).hub.ready.getLsbD bit = true := by rw [setReady_getLsbD u true (by omega), if_pos rfl]
  dsimp only
  split
  · exact ⟨by simp, by rw [setReady_getLsbD _ _ (by omega), if_neg (by omega), hset]⟩
  · exact ⟨by simp, hset⟩

theorem execLinkReady_of_expected {s : State} {link pp pl : Nat} (hlink : link < 18) (hexp : s.hub.config.expected[link]? = some (pp, pl))
    (hboot : s.hub.booted = true) (hok : s.hub.bootStatus = 0) :
    ∃ t, execLinkReady link pp pl s = .next t ∧
      t.hub.links = s.hub.links.set link { ready := true, peerPkg := pp, peerLink := pl, chunkBuffers := 128, requestBuffers := 1024 } ∧
      t.hub.ready.getLsbD (20 + link) = true := by
  unfold execLinkReady
  rw [if_pos ⟨hlink, hexp, hboot, hok⟩]
  obtain ⟨hlinks, hready⟩ := openLink_keeps _ (show 20 + link < 41 by omega)
  refine ⟨_, rfl, hlinks.trans ?_, hready⟩
  split <;> simp

theorem execLinkDown_of_ready {s : State} {link : Nat} (hlink : link < 18) (hup : (s.hub.links.getD link Link.down).ready = true) :
    ∃ t, execLinkDown link s = .next t ∧ t.hub.links = s.hub.links.set link Link.down ∧ t.hub.ready.getLsbD (20 + link) = false := by
  unfold execLinkDown
  rw [if_pos ⟨hlink, hup⟩]
  refine ⟨_, rfl, by simp, ?_⟩
  rw [setReady_getLsbD _ _ (by omega), if_neg (by omega), setReady_getLsbD _ _ (by omega), if_pos rfl]

end Sys2Proof.Proofs

/-! PROOFS. What the events from outside do where they are enabled: frames, the clock, links, peers and power (R29, R394 to R398, R400, R484, R485). -/

namespace Sys2Proof.Proofs

open Sys2Proof.Machine

/-! ## Frames -/

section Frames

variable {s : State} {port stamp : Nat} {frame : List Byte}
variable (hport : port < 2) (hlength : frame.length ≤ 9216) (hup : s.hub.ready.getLsbD (38 + port) = true)
include hport hlength hup

theorem frame_enters : ¬ (2 ≤ port ∨ 9216 < frame.length ∨ (!s.hub.ready.getLsbD (38 + port)) = true) := by
  simpa [hup] using ⟨Nat.le_of_lt_succ hport, hlength⟩

theorem execFrameReceive_of_least {g : Ingress}
    (hleast : leastBy (fun (g : Ingress) => g.area) (s.hub.ingress.filter (fun (g : Ingress) => g.takes port frame)) = some g) :
    execFrameReceive port stamp frame s = .next (s.store g port stamp frame) := by
  simp only [execFrameReceive, if_neg (frame_enters hport hlength hup), hleast]

theorem execFrameReceive_of_none_takes (hnone : ∀ g ∈ s.hub.ingress, g.takes port frame = false) : execFrameReceive port stamp frame s = .next s := by
  have hempty : s.hub.ingress.filter (fun (g : Ingress) => g.takes port frame) = [] := by simpa [List.filter_eq_nil_iff] using hnone
  simp only [execFrameReceive, if_neg (frame_enters hport hlength hup), hempty, leastBy, List.foldl_nil]

end Frames

/-! ## Peers -/

section Peers

variable {s : State} {package since : Nat}

theorem execPeerSilentTimeout_of_silent (hpeer : Tab.get PeerState.normal s.hub.peers package = .silent since) (hlate : since + 100000000 ≤ s.ptp) :
    execPeerSilentTimeout package s = .next (s.resetPeer package since) := by
  simp only [execPeerSilentTimeout, hpeer, when_of_enabled (decide_eq_true hlate)]

variable (hpeer : Tab.get PeerState.normal s.hub.peers package = .recovering since)
include hpeer

theorem execDoneNotice_of_kept :
    execDoneNotice package true s =
      .next (({ s with hub := { s.hub with peers := Tab.set PeerState.normal s.hub.peers package .normal } } : State).releasePeer package since) := by
  simp only [execDoneNotice, hpeer, if_true]

theorem execDoneNotice_of_lost : execDoneNotice package false s = .next (s.resetPeer package since) := by
  simp only [execDoneNotice, hpeer, Bool.false_eq_true, if_false]

theorem execDoneNoticeTimeout_of_late (hlate : since + 60000000000 ≤ s.ptp) :
    execDoneNoticeTimeout package s = .next (s.resetPeer package since) := by
  simp only [execDoneNoticeTimeout, hpeer, when_of_enabled (decide_eq_true hlate)]

end Peers

/-- Settles O30: an event that its clause enables (`when_of_enabled`, or the equation of its own case above) has its effect; a link event's effect
also keeps every other link, since what it releases writes no link. -/
theorem outsideEventResults : Obligations.OutsideEventResults := by
  unfold Obligations.OutsideEventResults
  intro s
  refine ⟨?stored, ?dropped, rfl, ?lock, ?slew, ?linkReady, ?linkDown, ?silent, ?recovery, ?kept, ?lost, ?late, ?down, ?up⟩
  case stored => exact fun _ _ _ _ hport hlength hup hleast => execFrameReceive_of_least hport hlength hup hleast
  case dropped => exact fun _ _ _ hport hlength hup hnone => execFrameReceive_of_none_takes hport hlength hup hnone
  case lock => exact fun _ hunlocked hboot hok => when_of_enabled (by simp [hunlocked, hboot, hok])
  case slew => exact fun _ hlocked hlo hhi => when_of_enabled (by simp [hlocked, hlo, hhi])
  case linkReady => exact fun _ _ _ hlink hexp hboot hok => execLinkReady_of_expected hlink hexp hboot hok
  case linkDown => exact fun _ hlink hup => execLinkDown_of_ready hlink hup
  case silent => exact fun _ _ hpeer hlate => execPeerSilentTimeout_of_silent hpeer hlate
  case recovery => exact fun _ hknown hother => when_of_enabled (by simp [hknown, hother])
  case kept => exact fun _ _ hpeer => execDoneNotice_of_kept hpeer
  case lost => exact fun _ _ hpeer => execDoneNotice_of_lost hpeer
  case late => exact fun _ _ hpeer hlate => execDoneNoticeTimeout_of_late hpeer hlate
  case down => exact fun _ hpower hclock => when_of_enabled (by simp [hpower, hclock])
  case up => exact fun _ hpower hclock => when_of_enabled (by simp [hpower, hclock])

end Sys2Proof.Proofs

/-! PROOFS. The machine after package reset (R28, R386, R387, R399). -/

namespace Sys2Proof.Proofs

open Sys2Proof.Machine

/-- The 16 window registers are 0, so that no window is open. -/
theorem reset_windows_closed : ∀ w ∈ State.reset.hub.win, w = 0 := fun _ hw => List.eq_of_mem_replicate hw

theorem reset_links_down : ∀ l ∈ State.reset.hub.links, l.ready = false := by
  intro l hl
  rw [List.eq_of_mem_replicate (show l ∈ List.replicate 18 Link.down from hl)]
  rfl

/-- Settles O37: the fields of `State.reset` and `Hub.initial` as they are given; the two lists hold one value throughout. -/
theorem resetLeavesWhatTheSpecGives : Obligations.ResetLeavesWhatTheSpecGives := by
  unfold Obligations.ResetLeavesWhatTheSpecGives
  exact ⟨rfl, rfl, rfl, rfl, rfl, rfl, rfl, rfl, rfl, rfl, rfl, rfl, reset_windows_closed, reset_links_down, rfl, rfl⟩

end Sys2Proof.Proofs

/-! PROOFS. An encoded instruction that no lane executes, and the ends of an effect that Laws gives no lemma of its own for: a wait and a
cause (R154, R424, R447). -/

namespace Sys2Proof.Proofs

open Sys2Proof.Machine Sys2Proof.Safety Sys2Proof.Laws

/-- Where E is empty and nothing judged whatever the lanes holds, only the shared conclusion of R226 is left. -/
theorem runOp_idle {o : Op} {f : Form} {s : State} {v : View} (hopen : View.open s = some v) (hformed : Form.problem o f = none)
    (hempty : lanes o f v = 0) (hclean : Raise.first ((v.enter o f).idleConditions o f (ownChecks o f)) = none)
    (body : View → Args → Mask → Out) : runOp o f s (ownChecks o f) body = .next ((ready o f v).retire f) := by
  unfold runOp
  rw [hopen]
  simp only [hformed]
  rw [if_pos (show (v.enter o f).active f = 0 from hempty), hclean]
  rfl

/-- Settles O41: every encoded instruction is `runOp` around an effect of its own, which an empty E never reaches. -/
theorem emptyLanesOnlyStep : Obligations.EmptyLanesOnlyStep := by
  unfold Obligations.EmptyLanesOnlyStep
  intro o f s v hopen hformed hempty hclean
  obtain ⟨body, hexec⟩ := exec_ofOp_eq_runOp o f
  rw [hexec s]
  exact runOp_idle hopen hformed hempty hclean body

theorem runOp_park {o : Op} {f : Form} {s : State} {v w : View} {x : Wait} (h : Executes o f s v) {body : View → Args → Mask → Out}
    (hb : body (ready o f v) (f.args o) (lanes o f v) = .park w x) :
    runOp o f s (ownChecks o f) body =
      .next (({ w with sp := { w.sp with sig := v.sp.sig, tilePos := v.sp.tilePos } } : View).close.parkGang v.t.rid (v.enter o f).gang v.k x) := by
  rw [runOp_executes h, hb]

theorem runOp_raise {o : Op} {f : Form} {s : State} {v : View} {x : Raise} (h : Executes o f s v) {body : View → Args → Mask → Out}
    (hb : body (ready o f v) (f.args o) (lanes o f v) = .raise x) :
    runOp o f s (ownChecks o f) body = .next ((v.enter o f).fail f.slot x) := by
  rw [runOp_executes h, hb]

end Sys2Proof.Proofs

/-! PROOFS. What a JV register holds after a write of a result (R36, R37, R154). -/

namespace Sys2Proof.Proofs

open Sys2Proof.Machine Sys2Proof.Laws

/-! ## Tables that are given a value other than the default -/

section Tables

variable {α : Type} [DecidableEq α] {d v : α} (t : Tab α) (k : Nat) (hv : v ≠ d)
include hv

/-- A value that is not the default is read back from any table, canonical or not. -/
theorem Tab_get_set_same_of_ne : Tab.get d (Tab.set d t k v) k = v := by
  induction t with
  | nil => simp [Tab.set, Tab.get, hv]
  | cons x r ih =>
    simp only [Tab.set, hv, if_false]
    split
    · simp [Tab.get]
    · split
      · simp [Tab.get]
      next hother => simpa [Tab.get, hother] using ih

theorem Tab_get_set_other_of_ne {j : Nat} (hj : j ≠ k) : Tab.get d (Tab.set d t k v) j = Tab.get d t j := by
  induction t with
  | nil => simp [Tab.set, Tab.get, hv, hj]
  | cons x r ih =>
    simp only [Tab.set, hv, if_false]
    split
    · simp [Tab.get, hj]
    · split
      next hsame => simp [Tab.get, hj, ← hsame]
      · simp only [Tab.get, ih]

end Tables

/-! ## Lane values -/

theorem laneOf_tab32 (f : Nat → Word) {l : Nat} (hl : l < 32) : laneOf (tab32 f) l = f l := by
  simp [laneOf, tab32, List.getD_eq_getElem?_getD, List.getElem?_map, List.getElem?_range hl]

@[simp] theorem lowBits_lowBits (w : Nat) (x : Word) : lowBits w (lowBits w x) = lowBits w x := by
  have hlt : x.toNat % 2 ^ w < 2 ^ 64 := Nat.lt_of_le_of_lt (Nat.mod_le _ _) x.isLt
  simp only [lowBits, BitVec.toNat_ofNat, Nat.mod_eq_of_lt hlt, Nat.mod_mod]

/-! ## Registers -/

@[simp] theorem cleared_jregs (g : Gang) (key : Nat) (wide : Bool) (m : Mask) : (g.cleared key wide m).jregs = g.jregs := by
  unfold Gang.cleared
  split <;> rfl

/-- The lanes of a register as a write to some of them finds it: zeros where it holds no lane value. -/
def lanesHeld (v : View) (n : Nat) : Lanes :=
  match v.jreg n with
  | .lane x => x
  | _ => zeroLanes

theorem lane_ne_default (x : Lanes) : JvVal.lane x ≠ .uni 0 := nofun

theorem pred_ne_default (m : Mask) : JvVal.pred m ≠ .uni 0 := nofun

theorem lanesHeld_of_lane {v : View} {n : Nat} {x : Lanes} (h : v.jreg n = .lane x) : lanesHeld v n = x := by
  simp only [lanesHeld, h]

section Registers

variable (v : View) {n : Nat} {esc : Bool} (ty : Nat) (e : Mask)

theorem put_lane_eq (f : Nat → Word) (hlane : v.isLane (.reg n esc) = true) :
    v.put (.reg n esc) ty e f = { v with g := v.g.setJreg n (tyWidth ty == 64) e (.lane (tab32 (fun l =>
      if e.getLsbD l then lowBits (tyWidth ty) (f l) else laneOf (lanesHeld v n) l))) } := by
  rw [View.put, if_pos hlane]
  rfl

theorem put_uniform_eq (f : Nat → Word) (huni : v.isLane (.reg n esc) = false) :
    v.put (.reg n esc) ty e f =
      { v with g := v.g.setJreg n true (BitVec.allOnes 32) (.uni (lowBits (tyWidth ty) (f ((lanesOf e).headD 0)))) } := by
  simp only [View.put, huni, Bool.false_eq_true, if_false, View.putUni]

theorem putPred_eq {old : Mask} (m : Mask) (hpred : v.jreg n = .pred old) :
    v.putPred (.reg n esc) e m =
      { v with g := v.g.setJreg n true (if e = BitVec.allOnes 32 then e else 0) (.pred ((old &&& ~~~e) ||| (m &&& e))) } := by
  simp only [View.putPred, hpred]

theorem rd_lane {x : Lanes} (hlane : v.jreg n = .lane x) (l : Nat) : v.rd (.reg n esc) ty l = lowBits (tyWidth ty) (laneOf x l) := by
  simp only [View.rd, hlane]

end Registers

section JregAfterSet

variable (v : View) (n : Nat) (wide : Bool) (e : Mask) {x : JvVal}

theorem jreg_setJreg_same_of_ne (hx : x ≠ .uni 0) : ({ v with g := v.g.setJreg n wide e x } : View).jreg n = x := by
  simpa [View.jreg, Gang.setJreg] using Tab_get_set_same_of_ne v.g.jregs n hx

theorem jreg_setJreg_other_of_ne (hx : x ≠ .uni 0) {m : Nat} (hm : m ≠ n) : ({ v with g := v.g.setJreg n wide e x } : View).jreg m = v.jreg m := by
  simpa [View.jreg, Gang.setJreg] using Tab_get_set_other_of_ne v.g.jregs n hx hm

variable (hwf : Tab.wf (JvVal.uni 0) v.g.jregs = true)
include hwf

theorem jreg_setJreg_same : ({ v with g := v.g.setJreg n wide e x } : View).jreg n = x := by
  simpa [View.jreg, Gang.setJreg] using Tab_get_set_same (JvVal.uni 0) v.g.jregs n x 0 hwf

theorem jreg_setJreg_other {m : Nat} (hm : m ≠ n) : ({ v with g := v.g.setJreg n wide e x } : View).jreg m = v.jreg m := by
  simpa [View.jreg, Gang.setJreg] using Tab_get_set_other (JvVal.uni 0) v.g.jregs n m x hm 0 hwf

end JregAfterSet

/-- Settles O44: each kind of write sets its one register; a lane or predicate value is never the table's default, so that those two need no
canonical table. -/
theorem laneResultsLandInExecutingLanes : Obligations.LaneResultsLandInExecutingLanes := by
  unfold Obligations.LaneResultsLandInExecutingLanes
  refine ⟨?lane, ?uniform, ?pred⟩
  case lane =>
    intro v n ty l esc e f hlane hl
    simp only [put_lane_eq v ty e f hlane]
    refine ⟨fun hin => ?_, fun x hx hout => ?_, fun m hm => jreg_setJreg_other_of_ne v n _ e (lane_ne_default _) hm⟩
    · rw [rd_lane _ ty (jreg_setJreg_same_of_ne v n _ e (lane_ne_default _)), laneOf_tab32 _ hl, if_pos hin, lowBits_lowBits]
    · rw [rd_lane _ ty (jreg_setJreg_same_of_ne v n _ e (lane_ne_default _)), laneOf_tab32 _ hl, if_neg (by simp [hout]), rd_lane v ty hx, lanesHeld_of_lane hx]
  case uniform =>
    intro v n ty esc e f hwf huni
    simp only [put_uniform_eq v ty e f huni]
    exact ⟨jreg_setJreg_same v n _ _ hwf, fun m hm => jreg_setJreg_other v n _ _ hwf hm⟩
  case pred =>
    intro v n esc e m old hpred
    simp only [putPred_eq v e m hpred]
    refine ⟨?_, fun k hk => jreg_setJreg_other_of_ne v n _ _ (pred_ne_default _) hk⟩
    simp only [View.rdP, jreg_setJreg_same_of_ne v n true _ (pred_ne_default _)]

end Sys2Proof.Proofs

/-! PROOFS. The reconvergence stack (R42 to R44): what a join does with the entry of its address, what a divergence puts on the stack, and
that the joins of a divergence take it off again. -/

namespace Sys2Proof.Proofs

open Sys2Proof.Machine

/-! ## Gangs with another stack -/

@[simp] theorem setRcs_splits (g : Gang) (l : List RcsEntry) : (g.setRcs l).splits = g.splits := by
  unfold Gang.setRcs
  dsimp only
  split <;> rfl

/-- A gang with its stack and its splits replaced. -/
def restacked (g : Gang) (l : List RcsEntry) (ss : List Split) : Gang := { g.setRcs l with splits := ss }

section Restacked

variable (g : Gang) (l : List RcsEntry) (ss : List Split)

@[simp] theorem restacked_splits : (restacked g l ss).splits = ss := rfl

@[simp] theorem restacked_rcs : (restacked g l ss).rcs = l := by
  unfold restacked Gang.setRcs
  dsimp only
  split <;> rfl

@[simp] theorem restacked_handler : (restacked g l ss).handler = g.handler := by
  unfold restacked Gang.setRcs
  dsimp only
  split <;> rfl

end Restacked

/-! ## The entries of a split -/

/-- The entries that a context sees begin the stack. -/
theorem entries_append (g : Gang) : ∃ below, g.entries ++ below = g.rcs := by
  unfold Gang.entries
  split
  · exact ⟨_, List.take_append_drop _ _⟩
  · exact ⟨[], List.append_nil _⟩

theorem entries_of_no_handler {g : Gang} (h : g.handler = none) : g.entries = g.rcs := by
  simp only [Gang.entries, h]

/-- An entry found among those that a context sees is the entry of that place in the stack. -/
theorem rcs_of_findIdx? {g : Gang} {p : RcsEntry → Bool} {i : Nat} (h : g.entries.findIdx? p = some i) : ∃ e, g.rcs[i]? = some e ∧ p e = true := by
  obtain ⟨hi, hp, _⟩ := List.findIdx?_eq_some_iff_getElem.1 h
  obtain ⟨below, hbelow⟩ := entries_append g
  exact ⟨g.entries[i], by rw [← hbelow, List.getElem?_append_left hi, List.getElem?_eq_getElem hi], hp⟩

theorem top_entry {g : Gang} {k i : Nat} (h : g.top k = some i) : ∃ e, g.rcs[i]? = some e ∧ e.owner = k := by
  obtain ⟨e, he, hp⟩ := rcs_of_findIdx? h
  exact ⟨e, he, by simpa using hp⟩

theorem childOf_entry {g : Gang} {k i : Nat} (h : g.childOf k = some i) : ∃ e, g.rcs[i]? = some e ∧ e.child = k := by
  obtain ⟨e, he, hp⟩ := rcs_of_findIdx? h
  exact ⟨e, he, (by simpa using hp : _ ∧ _).2⟩

/-- Where a split's newest entry stands is a matter of the entries' owners alone. -/
theorem top_eq_of_owners {g h : Gang} (howners : g.entries.map (fun e => e.owner) = h.entries.map (fun e => e.owner)) (k : Nat) : g.top k = h.top k := by
  have hmap (g : Gang) : g.top k = (g.entries.map (fun e => e.owner)).findIdx? (fun o => o == k) := by
    simp only [Gang.top, List.findIdx?_map, Function.comp_def]
  rw [hmap, hmap, howners]

/-- An entry that another one of the same owner replaces leaves every split's newest entry where it stands. -/
theorem top_of_rcs_set {g h : Gang} {i : Nat} {e e1 : RcsEntry} (he : g.rcs[i]? = some e) (howner : e1.owner = e.owner)
    (hrcs : h.rcs = g.rcs.set i e1) (hhandler : h.handler = g.handler) (k : Nat) : h.top k = g.top k := by
  have hset : (g.rcs.set i e1).map (fun e => e.owner) = g.rcs.map (fun e => e.owner) := by
    obtain ⟨hi, rfl⟩ := List.getElem?_eq_some_iff.1 he
    have hself := List.set_getElem_self (as := g.rcs.map (fun e => e.owner)) (i := i) (by simpa using hi)
    rwa [List.getElem_map, ← howner, ← List.map_set] at hself
  refine top_eq_of_owners ?_ k
  unfold Gang.entries
  rw [hhandler, hrcs]
  split
  · rw [List.map_take, List.map_take, hset, List.length_set]
  · exact hset

section NewestEntry

variable {g : Gang} {k : Nat} {e : RcsEntry} {rest : List RcsEntry} (hhandler : g.handler = none)
include hhandler

theorem top_of_newest (hrcs : g.rcs = e :: rest) (howner : e.owner = k) : g.top k = some 0 := by
  simp [Gang.top, entries_of_no_handler hhandler, hrcs, List.findIdx?_cons, howner]

theorem childOf_of_newest (hrcs : g.rcs = e :: rest) (hcv : e.cv = true) (hchild : e.child = k) : g.childOf k = some 0 := by
  simp [Gang.childOf, entries_of_no_handler hhandler, hrcs, List.findIdx?_cons, hcv, hchild]

theorem top_of_owns_none (hrcs : g.rcs = e :: rest) (hne : e.owner ≠ k) (hown : ∀ y ∈ rest, y.owner ≠ k) : g.top k = none := by
  simpa [Gang.top, entries_of_no_handler hhandler, List.findIdx?_eq_none_iff, hrcs] using ⟨hne, hown⟩

end NewestEntry

/-! ## What a join does (R44) -/

section Join

variable {g : Gang} {next : Nat → Nat × Nat} {now k x i : Nat} {sp : Split} {e : RcsEntry}

/-- The split behind its join. -/
def behindJoin (sp : Split) (next : Nat → Nat × Nat) (x : Nat) : Split := { sp with pc := (next x).1, region := (next x).2 }

/-- The split on the held path of an entry, and the entry that now holds the path it has run. -/
def onHeldPath (sp : Split) (e : RcsEntry) : Split :=
  { sp with mask := e.held, pc := e.resume, region := e.region, fmt := e.fmt, sig := sigStep sp.sig 0x21 }

/-- The split with the lanes of both paths of an entry, behind their join. -/
def rejoined (sp : Split) (e : RcsEntry) (next : Nat → Nat × Nat) (x : Nat) : Split :=
  { behindJoin sp next x with mask := sp.mask ||| e.held, fmt := e.fmt, sig := sigStep sp.sig 0x31 }

/-- The split that waits at its join for the other one. -/
def parkedAtJoin (sp : Split) (next : Nat → Nat × Nat) (x : Nat) : Split := { behindJoin sp next x with wait := .join }

def holdingPathOf (e : RcsEntry) (sp : Split) : RcsEntry := { e with held := sp.mask, phase := true, lr := sp.lr, rrb := sp.rrb }

variable (hk : g.splits[k]? = some sp)
include hk

/-- No entry names the join's address for the split: it goes past. -/
theorem join_goes_past (howner : ∀ i e, g.top k = some i → g.rcs[i]? = some e → e.rpc ≠ x)
    (hchild : g.top k = none → ∀ i e, g.childOf k = some i → g.rcs[i]? = some e → e.rpc ≠ x) :
    g.join next now k x = ({ g with splits := g.splits.set k (behindJoin sp next x) }, k) := by
  unfold Gang.join
  rw [hk]
  cases htop : g.top k with
  | some i =>
    obtain ⟨e, he, _⟩ := top_entry htop
    simp only [Option.bind_some, he, if_neg (howner i e htop he), Option.isSome_some, if_true]
    rfl
  | none =>
    cases hc : g.childOf k with
    | none => rfl
    | some i =>
      obtain ⟨e, he, _⟩ := childOf_entry hc
      simp only [Option.bind_none, Option.bind_some, he, if_neg (hchild htop i e hc he), Option.isSome_none, Bool.false_eq_true, if_false]
      rfl

section Owner

variable (htop : g.top k = some i) (he : g.rcs[i]? = some e) (hrpc : e.rpc = x)
include htop he hrpc

/-- The first of two paths in one split has arrived: the held path runs. -/
theorem join_starts_held_path (hcv : e.cv = false) (hphase : e.phase = false) :
    g.join next now k x = (restacked g (g.rcs.set i (holdingPathOf e sp)) (g.splits.set k (onHeldPath sp e)), k) := by
  simp only [Gang.join, hk, htop, Option.bind_some, he, if_pos hrpc]
  rw [if_pos (by simp [hcv, hphase])]
  rfl

/-- The second of two paths in one split has arrived: the lanes are together again. -/
theorem join_closes_region (hcv : e.cv = false) (hphase : e.phase = true) :
    g.join next now k x = (restacked g (g.rcs.eraseIdx i) (g.splits.set k (rejoined sp e next x)), k) := by
  simp only [Gang.join, hk, htop, Option.bind_some, he, if_pos hrpc]
  rw [if_neg (by simp [hphase]), if_pos (by simp [hcv])]
  rfl

theorem join_parks_owner (hcv : e.cv = true) :
    g.join next now k x = (restacked g (g.rcs.set i { e with oarr := true }) (g.splits.set k (parkedAtJoin sp next x))).mergeIfReady now i := by
  simp only [Gang.join, hk, htop, Option.bind_some, he, if_pos hrpc]
  rw [if_neg (by simp [hcv]), if_neg (by simp [hcv])]
  rfl

end Owner

theorem join_parks_child (htop : g.top k = none) (hchild : g.childOf k = some i) (he : g.rcs[i]? = some e) (hrpc : e.rpc = x) :
    g.join next now k x = (restacked g (g.rcs.set i { e with carr := true }) (g.splits.set k (parkedAtJoin sp next x))).mergeIfReady now i := by
  simp only [Gang.join, hk, htop, hchild, Option.bind_none, Option.bind_some, he, if_pos hrpc, Option.isSome_none, Bool.false_eq_true, if_false]
  rfl

end Join

/-! ## Two splits that meet -/

/-- The owner of an entry has gone on with a mask, the other split is free, and the entry is gone from the stack above the rest. -/
def Merged (e : RcsEntry) (rest : List RcsEntry) (m : Mask) (r : Gang × Nat) : Prop :=
  r.2 = e.owner ∧ r.1.rcs = rest ∧ r.1.splits[e.child]? = some Split.unused ∧
    ∃ q, r.1.splits[e.owner]? = some q ∧ q.mask = m ∧ q.fmt = e.fmt ∧ q.wait = .ready

section Merge

variable {g : Gang} {now : Nat} {o c : Split} {e : RcsEntry} {rest : List RcsEntry}
variable (hrcs : g.rcs = e :: rest) (ho : g.splits[e.owner]? = some o) (hc : g.splits[e.child]? = some c)
include hrcs ho hc

theorem mergeIfReady_of_one (harr : (e.oarr && e.carr) = false) : g.mergeIfReady now 0 = (g, 4) := by
  simp only [Gang.mergeIfReady, hrcs, List.getElem?_cons_zero, ho, hc, harr, Bool.false_eq_true, if_false]

/-- Both have arrived at the newest entry. -/
theorem mergeIfReady_of_both (hne : e.owner ≠ e.child) (harr : (e.oarr && e.carr) = true) :
    Merged e rest (o.mask ||| c.mask) (g.mergeIfReady now 0) := by
  obtain ⟨hownerLt, _⟩ := List.getElem?_eq_some_iff.1 ho
  obtain ⟨hchildLt, _⟩ := List.getElem?_eq_some_iff.1 hc
  have hmerged : ∃ q, g.mergeIfReady now 0 = (restacked g rest ((g.splits.set e.owner q).set e.child Split.unused), e.owner) ∧
      q.mask = o.mask ||| c.mask ∧ q.fmt = e.fmt ∧ q.wait = .ready := by
    simp only [Gang.mergeIfReady, hrcs, List.getElem?_cons_zero, ho, hc, harr, if_true]
    exact ⟨_, rfl, rfl, rfl, rfl⟩
  obtain ⟨q, hq, hgiven⟩ := hmerged
  rw [hq]
  refine ⟨rfl, by simp, by simp [hchildLt], q,
    (List.getElem?_set_ne hne.symm).trans (List.getElem?_set_self hownerLt), hgiven⟩

end Merge

end Sys2Proof.Proofs

/-! PROOFS. A divergence (R43), with no split number free and with one, and the joins that undo it (R44). -/

namespace Sys2Proof.Proofs

open Sys2Proof.Machine

section Divergence

variable (v : View) (n : Mask) (x fall region : Nat)

/-- The open split without the lanes that it leaves behind. -/
def divergedSplit : Split := { v.sp with sig := sigStep v.sp.sig 0x11, mask := v.sp.mask &&& ~~~n }

/-- The entry of a divergence whose lanes wait in the same split. -/
def heldEntry : RcsEntry :=
  { rpc := x, resume := fall, held := n, owner := v.k, child := 0, cv := false, phase := false, oarr := false, carr := false
    fmt := v.sp.fmt, region := region, lr := v.sp.lr, rrb := v.sp.rrb }

/-- The entry of a divergence whose lanes start in split j. -/
def childEntry (j : Nat) : RcsEntry := { heldEntry v n x fall region with held := 0, cv := true, child := j, resume := 0 }

/-- The split that starts with the lanes left behind. -/
def childSplit : Split :=
  { Split.unused with used := true, pc := fall, region := region, mask := n, fmt := v.sp.fmt, sig := sigStep v.sp.sig 0x11, sigOff := v.sp.sigOff
                      ret := v.sp.ret, stamp := v.s.now, lr := v.sp.lr, rrb := v.sp.rrb }

/-- The first split number that a divergence of the open split finds free. -/
def freeSplit : Option Nat := (List.range 4).find? (fun j => j != v.k && !((v.g.splits.getD j Split.unused).used))

theorem diverge_gangNow_of_none_free (hfree : freeSplit v = none) :
    (v.diverge n x fall region).gangNow =
      restacked v.g (heldEntry v n x fall region :: v.g.rcs) (v.g.splits.set v.k (divergedSplit v n)) := by
  unfold freeSplit at hfree
  simp only [View.diverge, hfree, View.gangNow, setRcs_splits]
  rfl

theorem diverge_gangNow_of_free {j : Nat} (hfree : freeSplit v = some j) :
    (v.diverge n x fall region).gangNow =
      restacked v.g (childEntry v n x fall region j :: v.g.rcs) ((v.g.splits.set j (childSplit v n fall region)).set v.k (divergedSplit v n)) := by
  unfold freeSplit at hfree
  simp only [View.diverge, hfree, View.gangNow]
  rfl

end Divergence

/-! ## The joins of the newest entry -/

section JoinsOfOneEntry

variable {g : Gang} {next : Nat → Nat × Nat} {now x : Nat} {e : RcsEntry} {rest : List RcsEntry}
variable (hhandler : g.handler = none) (hrcs : g.rcs = e :: rest) (hrpc : e.rpc = x)
include hhandler hrcs hrpc

/-- Two joins of one split, which has run one path and then the other. -/
theorem join_join_in_one_split {sp : Split} (hk : g.splits[e.owner]? = some sp) (hcv : e.cv = false) (hphase : e.phase = false) :
    (((g.join next now e.owner x).1.join next now e.owner x).1.rcs = rest) ∧
      ∃ q, ((g.join next now e.owner x).1.join next now e.owner x).1.splits[e.owner]? = some q ∧ q.mask = e.held ||| sp.mask ∧ q.fmt = e.fmt := by
  obtain ⟨hlt, _⟩ := List.getElem?_eq_some_iff.1 hk
  rw [join_starts_held_path hk (top_of_newest hhandler hrcs rfl) (by rw [hrcs]; rfl) hrpc hcv hphase, hrcs, List.set_cons_zero]
  generalize hg : restacked g (holdingPathOf e sp :: rest) (g.splits.set e.owner (onHeldPath sp e)) = h
  have hrcs1 : h.rcs = holdingPathOf e sp :: rest := by simp [← hg]
  have hk1 : h.splits[e.owner]? = some (onHeldPath sp e) := by simp [← hg, hlt]
  have hclosed := join_closes_region (e := holdingPathOf e sp) (next := next) (now := now) hk1 (top_of_newest (by simpa [← hg] using hhandler) hrcs1 rfl)
    (by rw [hrcs1]; rfl) hrpc hcv rfl
  rw [hclosed]
  obtain ⟨hlt1, _⟩ := List.getElem?_eq_some_iff.1 hk1
  exact ⟨by simp [hrcs1], _, List.getElem?_set_self hlt1, rfl, rfl⟩

section TwoSplits

/-- The entry at which the owner, or the other split, has arrived. -/
def ownerArrived (e : RcsEntry) : RcsEntry := { e with oarr := true }
def childArrived (e : RcsEntry) : RcsEntry := { e with carr := true }

variable {o c : Split} (ho : g.splits[e.owner]? = some o) (hc : g.splits[e.child]? = some c) (hne : e.owner ≠ e.child) (hcv : e.cv = true)
include ho hc hne hcv

theorem join_owner_first (hcarr : e.carr = false) :
    g.join next now e.owner x = (restacked g (ownerArrived e :: rest) (g.splits.set e.owner (parkedAtJoin o next x)), 4) := by
  obtain ⟨hownerLt, _⟩ := List.getElem?_eq_some_iff.1 ho
  rw [join_parks_owner ho (top_of_newest hhandler hrcs rfl) (by rw [hrcs]; rfl) hrpc hcv, hrcs, List.set_cons_zero]
  exact mergeIfReady_of_one (e := ownerArrived e) (restacked_rcs ..) (List.getElem?_set_self hownerLt)
    ((List.getElem?_set_ne hne).trans hc) (by simp [ownerArrived, hcarr])

theorem join_owner_last (hcarr : e.carr = true) : Merged e rest (o.mask ||| c.mask) (g.join next now e.owner x) := by
  obtain ⟨hownerLt, _⟩ := List.getElem?_eq_some_iff.1 ho
  rw [join_parks_owner ho (top_of_newest hhandler hrcs rfl) (by rw [hrcs]; rfl) hrpc hcv, hrcs, List.set_cons_zero]
  exact mergeIfReady_of_both (e := ownerArrived e) (o := parkedAtJoin o next x) (restacked_rcs ..) (List.getElem?_set_self hownerLt)
    ((List.getElem?_set_ne hne).trans hc) hne (by simp [ownerArrived, hcarr])

variable (hown : ∀ y ∈ rest, y.owner ≠ e.child)
include hown

theorem join_child_first (hoarr : e.oarr = false) :
    g.join next now e.child x = (restacked g (childArrived e :: rest) (g.splits.set e.child (parkedAtJoin c next x)), 4) := by
  obtain ⟨hchildLt, _⟩ := List.getElem?_eq_some_iff.1 hc
  rw [join_parks_child hc (top_of_owns_none hhandler hrcs hne hown) (childOf_of_newest hhandler hrcs hcv rfl) (by rw [hrcs]; rfl) hrpc,
    hrcs, List.set_cons_zero]
  exact mergeIfReady_of_one (e := childArrived e) (restacked_rcs ..) ((List.getElem?_set_ne hne.symm).trans ho)
    (List.getElem?_set_self hchildLt) (by simp [childArrived, hoarr])

theorem join_child_last (hoarr : e.oarr = true) : Merged e rest (o.mask ||| c.mask) (g.join next now e.child x) := by
  obtain ⟨hchildLt, _⟩ := List.getElem?_eq_some_iff.1 hc
  rw [join_parks_child hc (top_of_owns_none hhandler hrcs hne hown) (childOf_of_newest hhandler hrcs hcv rfl) (by rw [hrcs]; rfl) hrpc,
    hrcs, List.set_cons_zero]
  exact mergeIfReady_of_both (e := childArrived e) (c := parkedAtJoin c next x) (restacked_rcs ..) ((List.getElem?_set_ne hne.symm).trans ho)
    (List.getElem?_set_self hchildLt) hne (by simp [childArrived, hoarr])

theorem join_owner_join_child (hcarr : e.carr = false) : Merged e rest (o.mask ||| c.mask) ((g.join next now e.owner x).1.join next now e.child x) := by
  obtain ⟨hownerLt, _⟩ := List.getElem?_eq_some_iff.1 ho
  rw [join_owner_first hhandler hrcs hrpc ho hc hne hcv hcarr]
  exact join_child_last (e := ownerArrived e) (o := parkedAtJoin o next x) (by simpa using hhandler) (restacked_rcs ..) hrpc
    (List.getElem?_set_self hownerLt) ((List.getElem?_set_ne hne).trans hc) hne hcv hown rfl

theorem join_child_join_owner (hoarr : e.oarr = false) : Merged e rest (o.mask ||| c.mask) ((g.join next now e.child x).1.join next now e.owner x) := by
  obtain ⟨hchildLt, _⟩ := List.getElem?_eq_some_iff.1 hc
  rw [join_child_first hhandler hrcs hrpc ho hc hne hcv hown hoarr]
  exact join_owner_last (e := childArrived e) (c := parkedAtJoin c next x) (by simpa using hhandler) (restacked_rcs ..) hrpc
    ((List.getElem?_set_ne hne.symm).trans ho) (List.getElem?_set_self hchildLt) hne hcv rfl

end TwoSplits

end JoinsOfOneEntry

/-- The lanes left behind and the lanes that stay are the lanes of the split. -/
theorem or_and_not_of_subset {n m : Mask} (h : n &&& ~~~m = 0) : n ||| (m &&& ~~~n) = m := by
  ext i hi
  have hbit : (n &&& ~~~m)[i] = (0 : Mask)[i] := by rw [h]
  simp only [BitVec.getElem_and, BitVec.getElem_not, BitVec.ofNat_eq_ofNat, BitVec.getElem_zero] at hbit
  simp only [BitVec.getElem_or, BitVec.getElem_and, BitVec.getElem_not]
  cases hn : n[i] <;> cases hm : m[i] <;> simp_all

/-- Settles O49: with no free split number the entry holds the lanes left behind and two joins of the one split close it; with a free one both splits
arrive at the entry, in either order, and merge. -/
theorem divergenceIsUndoneByItsJoins : Obligations.DivergenceIsUndoneByItsJoins := by
  unfold Obligations.DivergenceIsUndoneByItsJoins
  intro v n x fall region now next hhandler hsubset hk
  refine ⟨fun hfree => ?oneSplit, fun j hfree hj hown r hr => ?twoSplits⟩
  case oneSplit =>
    rw [diverge_gangNow_of_none_free v n x fall region hfree]
    obtain ⟨hrcs, q, hq, hmask, hfmt⟩ := join_join_in_one_split (next := next) (now := now) (by simpa using hhandler)
      (restacked_rcs v.g (heldEntry v n x fall region :: v.g.rcs) (v.g.splits.set v.k (divergedSplit v n))) rfl
      (sp := divergedSplit v n) (List.getElem?_set_self hk) rfl rfl
    exact ⟨hrcs, q, hq, hmask.trans (or_and_not_of_subset hsubset), hfmt⟩
  case twoSplits =>
    have hne : v.k ≠ j := by
      have hfound := List.find?_some hfree
      simp only [Bool.and_eq_true, bne_iff_ne, ne_eq] at hfound
      exact Ne.symm hfound.1
    rw [diverge_gangNow_of_free v n x fall region hfree] at hr
    generalize hg : restacked v.g (childEntry v n x fall region j :: v.g.rcs) ((v.g.splits.set j (childSplit v n fall region)).set v.k (divergedSplit v n)) = g at hr
    have hh : g.handler = none := by simpa [← hg] using hhandler
    have hrcs : g.rcs = childEntry v n x fall region j :: v.g.rcs := by simp [← hg]
    have ho : g.splits[v.k]? = some (divergedSplit v n) := by
      rw [← hg]
      exact List.getElem?_set_self (by simpa using hk)
    have hc : g.splits[j]? = some (childSplit v n fall region) := by
      rw [← hg]
      exact (List.getElem?_set_ne hne).trans (List.getElem?_set_self hj)
    have hmerged : Merged (childEntry v n x fall region j) v.g.rcs ((divergedSplit v n).mask ||| (childSplit v n fall region).mask) r := by
      obtain rfl | rfl := hr
      · exact join_owner_join_child hh hrcs rfl ho hc hne rfl hown rfl
      · exact join_child_join_owner hh hrcs rfl ho hc hne rfl hown rfl
    obtain ⟨hsplit, hrest, hunused, q, hq, hmask, hfmt, hwait⟩ := hmerged
    exact ⟨hsplit, hrest, hunused, q, hq, (hmask.trans (BitVec.or_comm _ _)).trans (or_and_not_of_subset hsubset), hfmt, hwait⟩

end Sys2Proof.Proofs

/-! PROOFS. Branches, calls, joins and exits as instructions: each effect's result in the case at hand, and that a join leaves its gang lanes
(R43 to R47, R181 to R185). -/

namespace Sys2Proof.Proofs

open Sys2Proof.Machine Sys2Proof.Safety Sys2Proof.Laws

/-! ## Lanes -/

/-- Only a split with lanes executes. -/
theorem mask_ne_zero_of_executes {o : Op} {f : Form} {s : State} {v : View} (h : Executes o f s v) : v.sp.mask ≠ 0 := by
  intro hzero
  have hentered : (v.enter o f).sp.mask = 0 := hzero
  apply h.some_lane
  unfold lanes View.active
  dsimp only
  split <;> simp [hentered]

@[simp] theorem ready_mask (o : Op) (f : Form) (v : View) : (ready o f v).sp.mask = v.sp.mask := by
  unfold ready View.stepSig
  split <;> rfl

/-! ## Branches and calls -/

section Branches

variable {f : Form} {v : View} {a : Args} {e : Mask}

theorem braBody_of_all (hall : v.sp.mask &&& ~~~e = 0) : braBody f v a e = .jump (v.goto (v.label a.a)) := by
  simp only [braBody, hall, if_true]

/-- The lanes that go and those that stay are disjoint and, where some of each are left, consistent. -/
theorem lanesOk_of_rest {e n : Mask} (hdisjoint : e &&& n = 0) (he : e ≠ 0) (hn : n ≠ 0) : lanesOk e n 0 = true := by
  simpa [lanesOk, hdisjoint] using ⟨he, hn⟩

theorem braBody_of_some (hsome : e ≠ 0) (hleft : v.sp.mask &&& ~~~e ≠ 0) :
    braBody f v a e = .jump ((v.diverge (v.sp.mask &&& ~~~e) (v.label a.b) (v.fall f) v.sp.region).goto (v.label a.a)) := by
  have hdisjoint : e &&& (v.sp.mask &&& ~~~e) = 0 := by
    ext i hi
    cases hin : e[i] <;> simp [hin]
  simp only [braBody, if_neg hleft, lanesOk_of_rest hdisjoint hsome hleft, Bool.not_true, Bool.false_eq_true, if_false]

/-- One target for all lanes is a jump there. -/
theorem brxBody_of_one {x : Nat × Mask} (hgroups : brxGroups (v.brxTarget f a e) (lanesOf v.sp.mask) = [x]) (hfall : x.1 ≠ v.fall f) :
    brxBody f v a e = .jump (v.goto x.1) := by
  simp only [brxBody, hgroups, List.drop_succ_cons, List.drop_nil, List.foldl_nil, if_neg hfall]
  rfl

theorem brxBody_of_groups {x : Nat × Mask} {r : List (Nat × Mask)} (hgroups : brxGroups (v.brxTarget f a e) (lanesOf v.sp.mask) = x :: r) :
    brxBody f v a e =
      let place := fun t => if t = v.fall f then v.sp.region else (v.target? t).getD 0
      let u := r.foldl (fun (u : View) h => u.diverge h.2 (v.label a.b) h.1 (place h.1)) v
      .jump { u with sp := { u.sp with pc := x.1, region := place x.1 } } := by
  simp only [brxBody, hgroups, List.drop_succ_cons, List.drop_zero]

theorem retBody_of_cons {x : Nat × Nat × Nat} {r : List (Nat × Nat × Nat)} (hret : v.sp.ret = x :: r) :
    retBody v a e = .jump { v with sp := { v.sp with pc := x.1, region := x.2.1, ret := r } } := by
  simp only [retBody, hret]

end Branches

/-- Settles O7: the effect of each branch and call in the case of its clause; the lanes that a `bra` leaves behind are disjoint from those that it
takes. -/
theorem branchAndCallResults : Obligations.BranchAndCallResults := by
  unfold Obligations.BranchAndCallResults
  intro f s v
  refine ⟨?braAll, ?braSome, ?brxOne, ?brx, ?call, ?callx, ?ret⟩
  case braAll => exact fun h hall => runOp_jump h (body := braBody f) (braBody_of_all hall)
  case braSome => exact fun h hleft => runOp_jump h (body := braBody f) (braBody_of_some h.some_lane hleft)
  case brxOne => exact fun h g hgroups hfall => runOp_jump h (body := brxBody f) (brxBody_of_one hgroups hfall)
  case brx => exact fun h g r hgroups => runOp_jump h (body := brxBody f) (brxBody_of_groups hgroups)
  case call => exact fun h => runOp_jump h (body := callBody f (fun v a => v.label a.a)) rfl
  case callx => exact fun h => runOp_jump h (body := callBody f (fun v a => (v.rdU a.a 7).toNat)) rfl
  case ret => exact fun h x r hret => runOp_jump h (body := retBody) (retBody_of_cons hret)

/-! ## A gang that settles (R47) -/

/-- The split of a number, where it is in use, has lanes. -/
def HasLanes (g : Gang) (k : Nat) : Prop := ∀ sp, g.splits[k]? = some sp → sp.used = true → sp.mask ≠ 0

section Settling

variable {g : Gang} {next : Nat → Nat × Nat} {now k x fuel : Nat}

/-- A split that has lanes does not act as a join. -/
theorem settle_of_hasLanes (h : HasLanes g k) : (Gang.settle fuel next now k g).2 = false := by
  cases fuel with
  | zero => rfl
  | succ fuel =>
    unfold Gang.settle
    split
    · rfl
    next sp hsp =>
      rw [if_pos]
      cases hused : sp.used with
      | false => rfl
      | true => simpa using Or.inl (h sp hsp hused)

theorem eq_of_getElem?_set_self {ss : List Split} {y z : Split} (h : (ss.set k y)[k]? = some z) : z = y := by
  obtain ⟨hlt, hz⟩ := List.getElem?_eq_some_iff.1 h
  rw [← hz, List.getElem_set_self]

theorem hasLanes_of_set {ss : List Split} {y : Split} (hy : y.mask ≠ 0) (hsplits : g.splits = ss.set k y) : HasLanes g k := by
  intro sp hsp _
  rw [hsplits] at hsp
  exact eq_of_getElem?_set_self hsp ▸ hy

theorem hasLanes_of_length_le (h : g.splits.length ≤ k) : HasLanes g k := by
  intro sp hsp
  rw [List.getElem?_eq_none h] at hsp
  cases hsp

/-- Two splits that meet, one of them with lanes, go on with lanes; one that waits for the other goes on with split number 4, which no gang of four
contexts has. -/
theorem mergeIfReady_hasLanes {e : RcsEntry} {i : Nat} (hlength : g.splits.length ≤ 4) (he : g.rcs[i]? = some e)
    (hmask : ∀ o c, g.splits[e.owner]? = some o → g.splits[e.child]? = some c → o.mask ≠ 0 ∨ c.mask ≠ 0) :
    HasLanes (g.mergeIfReady now i).1 (g.mergeIfReady now i).2 := by
  unfold Gang.mergeIfReady
  rw [he]
  dsimp only
  split
  next o c ho hc =>
    split
    · by_cases hsame : e.child = e.owner
      · intro sp hsp hused
        rw [← hsame] at hsp
        rw [eq_of_getElem?_set_self hsp] at hused
        cases hused
      · intro sp hsp _
        rw [List.getElem?_set_ne hsame] at hsp
        rw [eq_of_getElem?_set_self hsp]
        intro hnone
        obtain ⟨hoNone, hcNone⟩ := BitVec.or_eq_zero_iff.1 hnone
        exact (hmask o c ho hc).elim (· hoNone) (· hcNone)
    · exact hasLanes_of_length_le hlength
  · exact hasLanes_of_length_le hlength

/-- An address that the entry in a place does not name is named by no entry there. -/
theorem rpc_ne_of_entry {place : Option Nat} {i : Nat} {e : RcsEntry} (hplace : place = some i) (he : g.rcs[i]? = some e) (hrpc : e.rpc ≠ x) :
    ∀ j y, place = some j → g.rcs[j]? = some y → y.rpc ≠ x := by
  intro j y hj hy
  obtain rfl := Option.some.inj (hplace.symm.trans hj)
  obtain rfl := Option.some.inj (he.symm.trans hy)
  exact hrpc

variable {sp : Split} (hk : g.splits[k]? = some sp) (hmask : sp.mask ≠ 0)
include hk hmask

/-- Lanes that arrive first leave their split to the held ones; where none are held, the split without lanes closes the region at once and has
its lanes again. -/
theorem settle_held_path {e : RcsEntry} {i : Nat} (htop : g.top k = some i) (he : g.rcs[i]? = some e) (hcv : e.cv = false) :
    (Gang.settle (fuel + 1) next now k (restacked g (g.rcs.set i (holdingPathOf e sp)) (g.splits.set k (onHeldPath sp e)))).2 = false := by
  obtain ⟨hlt, _⟩ := List.getElem?_eq_some_iff.1 hk
  obtain ⟨hi, _⟩ := List.getElem?_eq_some_iff.1 he
  generalize hg : restacked g (g.rcs.set i (holdingPathOf e sp)) (g.splits.set k (onHeldPath sp e)) = h
  have hk1 : h.splits[k]? = some (onHeldPath sp e) := by simp [← hg, hlt]
  have he1 : h.rcs[i]? = some (holdingPathOf e sp) := by simp [← hg, hi]
  have htop1 : h.top k = some i := (top_of_rcs_set he (e1 := holdingPathOf e sp) rfl (by simp [← hg]) (by simp [← hg]) k).trans htop
  unfold Gang.settle
  simp only [hk1, htop1, Option.orElse_some, Option.bind_some, he1]
  split
  · rfl
  · rw [join_closes_region hk1 htop1 he1 rfl hcv rfl]
    refine settle_of_hasLanes (hasLanes_of_set ?_ rfl)
    simpa [rejoined, holdingPathOf, behindJoin] using fun _ => hmask

/-- In a gang of four contexts a join by a split with lanes leaves lanes. -/
theorem settle_join (hlength : g.splits.length ≤ 4) :
    (Gang.settle (fuel + 1) next now (g.join next now k x).2 (g.join next now k x).1).2 = false := by
  have hpast (howner : ∀ i e, g.top k = some i → g.rcs[i]? = some e → e.rpc ≠ x)
      (hchild : g.top k = none → ∀ i e, g.childOf k = some i → g.rcs[i]? = some e → e.rpc ≠ x) :
      (Gang.settle (fuel + 1) next now (g.join next now k x).2 (g.join next now k x).1).2 = false := by
    rw [join_goes_past hk howner hchild]
    exact settle_of_hasLanes (hasLanes_of_set (y := behindJoin sp next x) hmask rfl)
  cases htop : g.top k with
  | some i =>
    obtain ⟨e, he, howner⟩ := top_entry htop
    obtain ⟨hi, _⟩ := List.getElem?_eq_some_iff.1 he
    by_cases hrpc : e.rpc = x
    case neg => exact hpast (rpc_ne_of_entry htop he hrpc) (by simp [htop])
    cases hcv : e.cv with
    | true =>
      rw [join_parks_owner hk htop he hrpc hcv]
      refine settle_of_hasLanes (mergeIfReady_hasLanes (e := ownerArrived e) (by simpa using hlength) (by simp [hi, ownerArrived]) ?_)
      intro o c ho _
      rw [restacked_splits, show (ownerArrived e).owner = k from howner] at ho
      exact .inl (eq_of_getElem?_set_self ho ▸ hmask)
    | false =>
      cases hphase : e.phase with
      | false =>
        rw [join_starts_held_path hk htop he hrpc hcv hphase]
        exact settle_held_path hk hmask htop he hcv
      | true =>
        rw [join_closes_region hk htop he hrpc hcv hphase]
        exact settle_of_hasLanes (hasLanes_of_set (by simpa [rejoined, behindJoin] using fun h => absurd h hmask) rfl)
  | none =>
    cases hchild : g.childOf k with
    | none => exact hpast (by simp [htop]) (by simp [hchild])
    | some i =>
      obtain ⟨e, he, hc⟩ := childOf_entry hchild
      by_cases hrpc : e.rpc = x
      case neg => exact hpast (by simp [htop]) (fun _ => rpc_ne_of_entry hchild he hrpc)
      obtain ⟨hi, _⟩ := List.getElem?_eq_some_iff.1 he
      rw [join_parks_child hk htop hchild he hrpc]
      refine settle_of_hasLanes (mergeIfReady_hasLanes (e := childArrived e) (by simpa using hlength) (by simp [hi, childArrived]) ?_)
      intro o c _ hc'
      rw [restacked_splits, show (childArrived e).child = k from hc] at hc'
      exact .inr (eq_of_getElem?_set_self hc' ▸ hmask)

end Settling

/-! ## join and exit -/

section AfterSettle

variable {v0 v : View} {r : Gang × Bool}

theorem afterSettle_of_lanes (hlanes : r.2 = false) : v0.afterSettle v r = .jump (v.onGang r.1) := by
  simp only [View.afterSettle, hlanes, Bool.not_false, if_true]

variable (hdone : r.2 = true)
include hdone

theorem afterSettle_of_exit (hhandler : (v.onGang r.1).g.handler = none) :
    v0.afterSettle v r = .state (((v.onGang r.1).complete.onTeam (fun t => t.gangExit v.s.now v.gang)).close) := by
  simp only [View.afterSettle, hdone, Bool.not_true, Bool.false_eq_true, if_false, hhandler, Option.isSome_none]

variable (hhandler : (v.onGang r.1).g.handler.isSome = true)
include hhandler

theorem afterSettle_of_handler (hframe : v.s.frameWait (v.onGang r.1).t (v.onGang r.1).g = none) :
    v0.afterSettle v r = .state ((v.onGang r.1).complete.close.endHandler v.t.rid v.gang) := by
  simp only [View.afterSettle, hdone, Bool.not_true, Bool.false_eq_true, if_false, hhandler, if_true, hframe]

theorem afterSettle_of_frameWait {p : Wait} (hframe : v.s.frameWait (v.onGang r.1).t (v.onGang r.1).g = some p) :
    v0.afterSettle v r = .park v0 p := by
  simp only [View.afterSettle, hdone, Bool.not_true, Bool.false_eq_true, if_false, hhandler, if_true, hframe]

end AfterSettle

/-- The address at which a split goes on after the join that executes, or after one at another address. -/
def nextAfter (f : Form) (w : View) (y : Nat) : Nat × Nat := if y = w.here then (w.fall f, w.sp.region) else w.nextOf y

/-- The gang that the join of an instruction leaves once a split without lanes has acted as one. -/
def joined (f : Form) (w : View) : Gang × Bool :=
  let j := w.gangNow.join (nextAfter f w) w.s.now w.k w.here
  Gang.settle 1100 (nextAfter f w) w.s.now j.2 j.1

theorem joinBody_of_bad {f : Form} {w : View} {a : Args} {e : Mask} (hbad : w.gangNow.joinBad w.k w.here = true) :
    joinBody f w a e = .raise r642 := by
  simp only [joinBody, hbad, if_true]

theorem joinBody_of_ok {f : Form} {w : View} {a : Args} {e : Mask} (hok : w.gangNow.joinBad w.k w.here = false) :
    joinBody f w a e = w.afterSettle w (joined f w) := by
  simp only [joinBody, hok, Bool.false_eq_true, if_false]
  rfl

theorem open_split {s : State} {v : View} (h : View.open s = some v) : v.g.splits[v.k]? = some v.sp := by
  simp only [View.open, Option.bind_eq_bind, Option.bind_eq_some_iff] at h
  obtain ⟨c, _, t, _, g, _, sp, hsp, hv⟩ := h
  cases hv
  exact hsp

@[simp] theorem ready_splits (o : Op) (f : Form) (v : View) : (ready o f v).g.splits = v.g.splits := by
  unfold ready View.stepSig
  split <;> rfl

@[simp] theorem ready_k (o : Op) (f : Form) (v : View) : (ready o f v).k = v.k := by
  unfold ready View.stepSig
  split <;> rfl

/-- A gang of four contexts is left lanes by a join that executes. -/
theorem joined_leaves_lanes {f : Form} {s : State} {v : View} (h : Executes .join f s v) (hlength : (ready .join f v).g.splits.length ≤ 4) :
    (joined f (ready .join f v)).2 = false := by
  obtain ⟨hlt, _⟩ := List.getElem?_eq_some_iff.1 (open_split h.opened)
  refine settle_join (sp := (ready .join f v).sp) ?_ ?_ ?_
  · exact List.getElem?_set_self (by simpa using hlt)
  · simpa using mask_ne_zero_of_executes h
  · simpa [View.gangNow] using hlength

/-- Settles O8: a join or an exit ends as its settled gang says (`View.afterSettle`); only a split with lanes executes, so that a join leaves its
gang of four contexts lanes (`settle_join`). -/
theorem joinAndExitResults : Obligations.JoinAndExitResults := by
  unfold Obligations.JoinAndExitResults
  intro f s v
  refine ⟨fun h => ?join, fun h => ?exit⟩
  case join =>
    intro w x next j r
    have hr : joined f w = r := rfl
    clear_value r
    have hbody (hok : w.gangNow.joinBad w.k x = false) : joinBody f w (f.args .join) (lanes .join f v) = w.afterSettle w r :=
      hr ▸ joinBody_of_ok hok
    refine ⟨fun hbad => ?_, fun hok hlanes => ?_, fun hok hdone hhandler hframe => ?_, fun p hok hdone hhandler hframe => ?_,
      fun hok hdone hnone => ?_, fun hlength => hr ▸ joined_leaves_lanes h hlength⟩
    · exact runOp_raise h (body := joinBody f) (joinBody_of_bad hbad)
    · exact runOp_jump h (body := joinBody f) ((hbody hok).trans (afterSettle_of_lanes hlanes))
    · exact runOp_state h (body := joinBody f) ((hbody hok).trans (afterSettle_of_handler hdone hhandler hframe))
    · exact runOp_park h (body := joinBody f) ((hbody hok).trans (afterSettle_of_frameWait hdone hhandler hframe))
    · exact runOp_state h (body := joinBody f) ((hbody hok).trans (afterSettle_of_exit hdone hnone))
  case exit =>
    intro w e sp g u r z
    have hbody : exitBody f w (f.args .exit) e = w.afterSettle u r := rfl
    clear_value r
    refine ⟨fun hlanes => ?_, fun hdone hnone => ?_, fun hdone hhandler hframe => ?_, fun p hdone hhandler hframe => ?_⟩
    · exact runOp_jump h (body := exitBody f) (hbody.trans (afterSettle_of_lanes hlanes))
    · exact runOp_state h (body := exitBody f) (hbody.trans (afterSettle_of_exit hdone hnone))
    · exact runOp_state h (body := exitBody f) (hbody.trans (afterSettle_of_handler hdone hhandler hframe))
    · exact runOp_park h (body := exitBody f) (hbody.trans (afterSettle_of_frameWait hdone hhandler hframe))

end Sys2Proof.Proofs

/-! PROOFS. Waits and team barriers (R57, R186 to R190). -/

namespace Sys2Proof.Proofs

open Sys2Proof.Machine Sys2Proof.Safety Sys2Proof.Laws

/-! ## waita (R189) -/

section Waita

variable {v : View} {a : Args} {e : Mask} (hplace : v.parkOf a.spc (v.watchAddr a e) false = none)

theorem waitaBody_of_park {p : Wait} (hpark : v.parkOf a.spc (v.watchAddr a e) false = some p) : waitaBody v a e = .park v p := by
  simp only [waitaBody, hpark]

include hplace

theorem waitaBody_of_poison (hpoison : v.nearPoison a.spc (v.watchAddr a e) (tyBytes a.ty) = true ∨
      (a.spc = 3 ∧ v.s.dmPoison v.t.core v.t.asid (v.watchAddr a e) (tyBytes a.ty) true = true)) :
    waitaBody v a e = .raise (raise256 (v.poisonSource a.spc (v.watchAddr a e)) (v.watchAddr a e)) := by
  simp only [waitaBody, hplace]
  rw [if_pos (by simpa using hpoison)]

variable (hnear : v.nearPoison a.spc (v.watchAddr a e) (tyBytes a.ty) = false)
variable (hfar : a.spc = 3 → v.s.dmPoison v.t.core v.t.asid (v.watchAddr a e) (tyBytes a.ty) true = false)
include hnear hfar

/-- A word that is there and holds no poison is compared. -/
theorem waitaBody_of_clean :
    waitaBody v a e =
      let r := v.watched a.spc (v.watchAddr a e) (tyBytes a.ty)
      if cmpInt a.sub (tyVal a.ty r.1) (tyVal a.ty (v.watchValue a)) then
        .done (({ (r.2).acquire (a.acq && a.wide) with due := v.farTime a.spc (v.watchAddr a e) }.put a.d a.ty e (fun _ => r.1)).holdUntil
          (v.farTime a.spc (v.watchAddr a e)))
      else .park r.2 (.word a.spc (v.watchAddr a e) a.ty a.sub (v.watchValue a)) := by
  have hclean : ¬ ((v.nearPoison a.spc (v.watchAddr a e) (tyBytes a.ty) ||
      (decide (a.spc = 3) && v.s.dmPoison v.t.core v.t.asid (v.watchAddr a e) (tyBytes a.ty) true)) = true) := by
    simpa [hnear] using hfar
  simp only [waitaBody, hplace]
  rw [if_neg hclean]

end Waita

/-! ## Barriers (R57, R190) -/

theorem barwtBody_of_passed {v : View} {a : Args} {e : Mask}
    (hpassed : v.sp.latched.isSome = true ∨ Tab.get 0 v.g.lastPhase (v.barArgs a).1 ≤ (v.t.bar (v.barArgs a).1).phase) :
    barwtBody v a e = .done v := by
  unfold barwtBody
  dsimp only
  rw [if_pos (by simpa using hpassed)]

theorem barwtBody_of_before {v : View} {a : Args} {e : Mask} (hfirst : v.sp.latched = none)
    (hbefore : (v.t.bar (v.barArgs a).1).phase < Tab.get 0 v.g.lastPhase (v.barArgs a).1) :
    barwtBody v a e = .park v (.barwt (v.barArgs a).1 (Tab.get 0 v.g.lastPhase (v.barArgs a).1)) := by
  unfold barwtBody
  dsimp only
  rw [if_neg (by simpa [hfirst] using hbefore)]

/-- Settles O9: each wait and barrier in the case of its clause; those of `waita` follow its own order of page, poison and comparison. -/
theorem waitAndBarrierResults : Obligations.WaitAndBarrierResults := by
  unfold Obligations.WaitAndBarrierResults
  intro f s v
  refine ⟨?yield, ?nsleep, ?holds, ?waits, ?parks, ?poison, ?bar, ?barar, ?passed, ?before⟩
  case yield => exact fun h => runOp_done h (body := yieldBody) rfl
  case nsleep => exact fun h => runOp_done h (body := nsleepBody) rfl
  case holds =>
    intro h a w e x r hplace hnear hfar hcmp
    exact runOp_done h (body := waitaBody) ((waitaBody_of_clean hplace hnear hfar).trans (if_pos hcmp))
  case waits =>
    intro h a w x r hplace hnear hfar hcmp
    exact runOp_park h (body := waitaBody) ((waitaBody_of_clean hplace hnear hfar).trans (if_neg (by rw [hcmp]; exact Bool.false_ne_true)))
  case parks => exact fun h p hpark => runOp_park h (body := waitaBody) (waitaBody_of_park hpark)
  case poison => exact fun h hplace hpoison => runOp_raise h (body := waitaBody) (waitaBody_of_poison hplace hpoison)
  case bar => exact fun h => runOp_state h (body := arriveBody f true) rfl
  case barar => exact fun h => runOp_state h (body := arriveBody f false) rfl
  case passed => exact fun h hpassed => runOp_done h (body := barwtBody) (barwtBody_of_passed hpassed)
  case before => exact fun h hfirst hbefore => runOp_park h (body := barwtBody) (barwtBody_of_before hfirst hbefore)

end Sys2Proof.Proofs

/-! PROOFS. Results in flight: the clocks of a context count them down, and those whose count runs out are written to their registers (R290 to
R293, R313, R520). -/

namespace Sys2Proof.Proofs

open Sys2Proof.Machine Sys2Proof.Laws

/-! ## Writing to a location (R281) -/

@[simp] theorem cleared_nregs (g : Gang) (key : Nat) (wide : Bool) (m : Mask) : (g.cleared key wide m).nregs = g.nregs := by
  unfold Gang.cleared
  split <;> rfl

@[simp] theorem cleared_splits (g : Gang) (key : Nat) (wide : Bool) (m : Mask) : (g.cleared key wide m).splits = g.splits := by
  unfold Gang.cleared
  split <;> rfl

theorem setLoc_lr (g : Gang) (kind : CoreKind) (k : Nat) (lanes : Mask) (x : Lanes) :
    g.setLoc kind k 208 lanes x = g.updSplit k (fun sp => { sp with lr := (laneOf x 0).truncate 32 }) := if_pos rfl

/-- A location of the register files is written there, and LR is none of them. -/
theorem setLoc_nregs (g : Gang) (kind : CoreKind) (k loc : Nat) (lanes : Mask) (x : Lanes) :
    (g.setLoc kind k loc lanes x).nregs = g.nregs.put kind loc lanes x := by
  by_cases hlr : loc = 208
  · rw [hlr, setLoc_lr]
    rfl
  · simp only [Gang.setLoc, if_neg hlr, cleared_nregs]

theorem setLoc_splits (g : Gang) (kind : CoreKind) (k : Nat) {loc : Nat} (lanes : Mask) (x : Lanes) (hlr : loc ≠ 208) :
    (g.setLoc kind k loc lanes x).splits = g.splits := by
  simp only [Gang.setLoc, if_neg hlr, cleared_splits]

/-! ## Clocks of a context -/

/-- Results on their way, n clocks later. -/
def aged (n : Nat) (l : List Flight) : List Flight := l.map (fun (x : Flight) => { x with remain := x.remain - n })

theorem aged_zero (l : List Flight) : aged 0 l = l := by simp [aged]

theorem aged_aged (m n : Nat) (l : List Flight) : aged n (aged m l) = aged (m + n) l := by
  simp [aged, Nat.sub_sub]

theorem le_aged {b n : Nat} {l : List Flight} (h : ∀ x ∈ l, b + n ≤ x.remain) : ∀ x ∈ aged n l, b ≤ x.remain := by
  intro x hx
  obtain ⟨y, hy, rfl⟩ := List.mem_map.1 hx
  exact Nat.le_sub_of_add_le (h y hy)

/-- A context with other results on their way. -/
def withFlight (g : Gang) (k : Nat) (sp : Split) (l : List Flight) : Gang := { g with splits := g.splits.set k { sp with flight := l } }

section Clocks

variable {kind : CoreKind} {k : Nat}

theorem clocks_succ {g : Gang} {sp : Split} (hk : g.splits[k]? = some sp) (n : Nat) :
    g.clocks kind k (n + 1) = (((withFlight g k sp ((aged 1 sp.flight).filter (fun x => x.remain != 0))).land kind k
      ((aged 1 sp.flight).filter (fun x => x.remain == 0))).clocks kind k n) := by
  rw [Gang.clocks, hk]
  rfl

/-- In a clock in which no result is due all counts fall. -/
theorem clocks_succ_of_none_due {g : Gang} {sp : Split} (hk : g.splits[k]? = some sp) (n : Nat) (hnone : ∀ x ∈ sp.flight, 1 < x.remain) :
    g.clocks kind k (n + 1) = (withFlight g k sp (aged 1 sp.flight)).clocks kind k n := by
  have hleft : ∀ x ∈ aged 1 sp.flight, x.remain ≠ 0 := fun x hx => Nat.pos_iff_ne_zero.1 (le_aged hnone x hx)
  rw [clocks_succ hk, List.filter_eq_self.2 (by simpa using hleft), List.filter_eq_nil_iff.2 (by simpa using hleft)]
  rfl

theorem withFlight_split {g : Gang} {sp : Split} (hk : g.splits[k]? = some sp) (l : List Flight) :
    (withFlight g k sp l).splits[k]? = some { sp with flight := l } := by
  obtain ⟨hlt, _⟩ := List.getElem?_eq_some_iff.1 hk
  exact List.getElem?_set_self hlt

theorem withFlight_self {g : Gang} {sp : Split} (hk : g.splits[k]? = some sp) : withFlight g k sp sp.flight = g := by
  obtain ⟨hlt, rfl⟩ := List.getElem?_eq_some_iff.1 hk
  have hset : g.splits.set k g.splits[k] = g.splits := List.set_getElem_self hlt
  show { g with splits := g.splits.set k g.splits[k] } = g
  rw [hset]

theorem withFlight_withFlight (g : Gang) (sp : Split) (l m : List Flight) :
    withFlight (withFlight g k sp l) k { sp with flight := l } m = withFlight g k sp m := by
  simp [withFlight]

/-- Before the first result is due nothing lands. -/
theorem clocks_before_due (n : Nat) : ∀ {g : Gang} {sp : Split}, g.splits[k]? = some sp → (∀ x ∈ sp.flight, n < x.remain) →
    g.clocks kind k n = withFlight g k sp (aged n sp.flight) := by
  induction n with
  | zero =>
    intro g sp hk _
    rw [aged_zero, withFlight_self hk, Gang.clocks]
  | succ n ih =>
    intro g sp hk hbefore
    have hleft : ∀ x ∈ aged 1 sp.flight, n + 1 ≤ x.remain := le_aged hbefore
    rw [clocks_succ_of_none_due hk n (fun x hx => Nat.lt_of_le_of_lt (Nat.le_add_left 1 n) (hbefore x hx)),
      ih (sp := { sp with flight := aged 1 sp.flight }) (withFlight_split hk _) hleft, withFlight_withFlight, aged_aged, Nat.add_comm]

/-- In the clock in which the first results are due these land, and the others are on their way still. -/
theorem clocks_at_due (n : Nat) : ∀ {g : Gang} {sp : Split}, g.splits[k]? = some sp → (∀ x ∈ sp.flight, n + 1 ≤ x.remain) →
    g.clocks kind k (n + 1) = (withFlight g k sp ((aged (n + 1) sp.flight).filter (fun x => x.remain != 0))).land kind k
      ((aged (n + 1) sp.flight).filter (fun x => x.remain == 0)) := by
  induction n with
  | zero =>
    intro g sp hk _
    rw [clocks_succ hk, Gang.clocks]
  | succ n ih =>
    intro g sp hk hdue
    have hleft : ∀ x ∈ aged 1 sp.flight, n + 1 ≤ x.remain := le_aged hdue
    rw [clocks_succ_of_none_due hk (n + 1) (fun x hx => Nat.le_trans (Nat.le_add_left 2 n) (hdue x hx)),
      ih (sp := { sp with flight := aged 1 sp.flight }) (withFlight_split hk _) hleft, withFlight_withFlight, aged_aged, Nat.add_comm 1]

end Clocks

/-- Settles O53: before its clock a result is on its way still (`clocks_before_due`), at it the result lands (`clocks_at_due`). -/
theorem exposedResultsLandAtTheirLatency : Obligations.ExposedResultsLandAtTheirLatency := by
  unfold Obligations.ExposedResultsLandAtTheirLatency
  refine ⟨fun kind k L g sp f hk hflight hpos hremain => ⟨fun i hi => ?before, ?due⟩, fun v L loc e x hlat => ?emitted⟩
  case before => rw [clocks_before_due i hk (by simpa [hflight, hremain] using hi), withFlight]
  case due =>
    obtain ⟨n, rfl⟩ := Nat.exists_eq_succ_of_ne_zero hpos.ne'
    rw [clocks_at_due n hk (by simp [hflight, hremain])]
    simp [hflight, aged, hremain, Gang.land, setLoc_nregs, withFlight]
  case emitted => exact ⟨_, by simp only [View.emit, hlat]; rfl, rfl, rfl, rfl, rfl⟩

/-- The fewest clocks that a list of results has to wait. -/
theorem foldl_min_eq (l : List Flight) (b n : Nat) (hb : n ≤ b) (hall : ∀ x ∈ l, n ≤ x.remain) (hone : b = n ∨ ∃ x ∈ l, x.remain = n) :
    l.foldl (fun m x => Nat.min m x.remain) b = n := by
  induction l generalizing b with
  | nil => simpa using hone
  | cons y r ih =>
    have hy : n ≤ y.remain := hall y List.mem_cons_self
    refine ih (Nat.min b y.remain) (Nat.le_min.2 ⟨hb, hy⟩) (fun x hx => hall x (List.mem_cons_of_mem _ hx)) ?_
    obtain rfl | ⟨x, hx, hn⟩ := hone
    · exact .inl (Nat.min_eq_left hy)
    · obtain rfl | hx := List.mem_cons.1 hx
      · exact .inl (hn ▸ Nat.min_eq_right (hn ▸ hb))
      · exact .inr ⟨x, hx, hn⟩

theorem landNext_of_least {g : Gang} {kind : CoreKind} {k n : Nat} {sp : Split} (hk : g.splits[k]? = some sp)
    (hall : ∀ x ∈ sp.flight, n ≤ x.remain) (hone : ∃ x ∈ sp.flight, x.remain = n) : g.landNext kind k = g.clocks kind k n := by
  unfold Gang.landNext
  rw [hk]
  cases hflight : sp.flight with
  | nil => simp [hflight] at hone
  | cons y r =>
    simp only [hflight, List.mem_cons, forall_eq_or_imp, exists_eq_or_imp] at hall hone
    simp only [hflight]
    rw [foldl_min_eq r y.remain n hall.1 hall.2 hone]

end Sys2Proof.Proofs

/-! PROOFS. Events of contexts and teams: landings, wakes, held instructions that end (R60, R204, R220), and teams that retire, expire, overrun,
stop or are asked to move (R52, R339, R363, R364, R437, R479, R482). -/

namespace Sys2Proof.Proofs

open Sys2Proof.Machine

/-! ## Results land -/

theorem execExposedResultLand_of_unselected {s : State} {rid gang split : Nat} {t : Team} (ht : s.team? rid = some t) (hcore : t.onCore = true)
    (hfree : s.selected t gang split = false) :
    execExposedResultLand rid gang split s = .next (s.updTeam rid (fun u => u.updGang gang (fun g => g.landNext t.core.kind split))) := by
  simp only [execExposedResultLand, ht, hcore, hfree, Bool.not_false, Bool.and_self, if_true]

theorem execLoadResultArrive_of_team {s : State} {rid gang split : Nat} {t : Team} (ht : s.team? rid = some t) :
    execLoadResultArrive rid gang split s = .next (s.updTeam rid (fun u => u.updGang gang (fun g => g.landLoads t.core.kind split))) := by
  simp only [execLoadResultArrive, ht]

/-! ## Contexts wake -/

section Waking

variable {s : State} {rid gang split : Nat} {sp : Split} (hsp : s.split? rid gang split = some sp)
include hsp

theorem execNsleepWake_of_late {time : Nat} (hwait : sp.wait = .asleep time) (hlate : time ≤ s.ptp) :
    execNsleepWake rid gang split s = .next (s.updSplit rid gang split (fun q => { q with wait := .ready, stamp := s.now })) := by
  simp only [execNsleepWake, hsp, hwait]
  exact when_of_enabled (decide_eq_true hlate)

variable {t : Team} (ht : s.team? rid = some t)
include ht

theorem execWaitaWake_of_holds {spc a ty k : Nat} {x : Word} (hwait : sp.wait = .word spc a ty k x) (hholds : s.waitHolds t spc a ty k x = true) :
    execWaitaWake rid gang split s = .next (s.updSplit rid gang split (fun q => { q with wait := .ready, stamp := s.now })) := by
  simp only [execWaitaWake, ht, hsp, hwait]
  exact when_of_enabled hholds

section Codeload

variable {d : Operand} {locs : List Nat} {a : Nat} {code : List Word} (hwait : sp.wait = .codeload d locs a code)
include hwait

theorem execCodeloadDone_of_asking
    (hask : ((s.readKey (s.regionEntry t code).key).obtain (s.regionEntry t code)).asking (s.regionEntry t code).key = true) :
    execCodeloadDone rid gang split s = .next ((s.readKey (s.regionEntry t code).key).obtain (s.regionEntry t code)) := by
  simp only [execCodeloadDone, ht, hsp, hwait, hask, Bool.true_or, if_true]

theorem execCodeloadDone_of_held
    (hask : ((s.readKey (s.regionEntry t code).key).obtain (s.regionEntry t code)).asking (s.regionEntry t code).key = false)
    (hstatus : ((s.readKey (s.regionEntry t code).key).team? rid).map (fun (x : Team) => x.status) = some t.status) :
    execCodeloadDone rid gang split s = .next (((s.readKey (s.regionEntry t code).key).obtain (s.regionEntry t code)).updTeam rid (fun u =>
      ({ u with regions := u.regions ++ [{ serial := u.nextRegion, key := (s.regionEntry t code).key, base := a, code := code }]
                nextRegion := u.nextRegion + 1 } : Team).updGang gang
        (fun g => (g.putLate u.core.kind split d locs 5 sp.mask true true (fun _ => 0)).updSplit split (fun q => q.wake s.now)))) := by
  simp only [execCodeloadDone, ht, hsp, hwait, hask, hstatus, bne_self_eq_false, Bool.or_self, Bool.false_eq_true, if_false]

end Codeload

theorem execCkverDone_of_held {d : Operand} {locs : List Nat} {a n : Nat} {id : Word} (hwait : sp.wait = .ckver d locs a n id) :
    execCkverDone rid gang split s =
      let s1 := s.dropRange t.core t.asid a (4096 * n)
      .next (s1.updTeam rid (fun u =>
        let u1 := u.updGang gang (fun g =>
          (g.putLate u.core.kind split d locs 5 sp.mask true true (fun _ => BitVec.ofNat 64 (s1.ckverCount t.asid a n id))).updSplit split (fun q => q.wake s.now))
        ({ u1 with haulsUsed := u1.haulsUsed - 1 }).wakeIf s.now (fun w => match w with | .full => true | _ => false))) := by
  simp only [execCkverDone, ht, hsp]
  split
  next hheld =>
    cases hwait.symm.trans hheld
    rfl
  next hother => exact absurd hwait (hother _ _ _ _ _)

end Waking

theorem execFaceUnitOperation_of_pick {s : State} {unit : Nat} {q : FaceReq} (hpick : s.pickFace unit = some q) :
    execFaceUnitOperation unit s = .next (s.facePerform q) := by
  simp only [execFaceUnitOperation, hpick]

/-- Settles O21: the clocks up to the first due result pass at once (`landNext_of_least`, `clocks_at_due`); every other event has its effect where its
condition holds. -/
theorem resultsLandAndContextsWake : Obligations.ResultsLandAndContextsWake := by
  unfold Obligations.ResultsLandAndContextsWake
  intro s
  refine ⟨?land, ?setLoc, ?loads, ?asleep, ?word, ?codeload, ?ckver, ?face, ?line⟩
  case land =>
    intro rid gang split n t g sp ht hg hsp hcore hfree hall hone hpos
    have hland := execExposedResultLand_of_unselected ht hcore hfree
    refine ⟨hland, hland, ?_⟩
    obtain ⟨m, rfl⟩ := Nat.exists_eq_succ_of_ne_zero hpos.ne'
    exact (landNext_of_least hsp hall hone).trans (clocks_at_due m hsp hall)
  case setLoc =>
    exact fun g kind k loc lanes x => ⟨fun hlr => ⟨setLoc_nregs g kind k loc lanes x, setLoc_splits g kind k lanes x hlr⟩, setLoc_lr g kind k lanes x⟩
  case loads => exact fun _ _ _ _ ht => execLoadResultArrive_of_team ht
  case asleep => exact fun _ _ _ _ _ _ hsp _ hwait hlate => execNsleepWake_of_late hsp hwait hlate
  case word => exact fun _ _ _ _ _ ht hsp _ _ _ _ _ hwait hholds => execWaitaWake_of_holds hsp ht hwait hholds
  case codeload =>
    exact fun _ _ _ _ _ ht hsp _ _ _ _ hwait =>
      ⟨fun hask => execCodeloadDone_of_asking hsp ht hwait hask, fun hask hstatus => execCodeloadDone_of_held hsp ht hwait hask hstatus⟩
  case ckver => exact fun _ _ _ _ _ ht hsp _ _ _ _ _ hwait => execCkverDone_of_held hsp ht hwait
  case face => exact fun _ _ hpick => execFaceUnitOperation_of_pick hpick
  case line => exact fun _ _ _ hline => when_of_enabled hline

/-! ## Teams -/

section Teams

variable {s : State} {rid : Nat} {t : Team} (ht : s.team? rid = some t)
include ht

theorem execTeamRetire_of_retirable (hdone : s.retirable t = true) : execTeamRetire rid s = .next (s.retireTeam t) := by
  simp only [execTeamRetire, ht]
  exact when_of_enabled hdone

theorem execMaskWatchdogExpiry_of_expired {gang : Nat} {g : Gang} {h : Handler} (hg : t.gangs[gang]? = some g) (hhandler : g.handler = some h)
    (hlate : s.maskExpired g = true) :
    execMaskWatchdogExpiry rid gang s = .next (s.terminate rid 960 0 gang ((g.splits[h.split]?.map t.rjvpc).getD 0)) := by
  simp only [execMaskWatchdogExpiry, ht, Option.bind_some, hg, Option.map_some, hhandler, Option.getD_some]
  exact when_of_enabled hlate

theorem execWaitWatchdogExpiry_of_expired {gang split : Nat} {sp : Split} {a : Nat} (hsp : s.split? rid gang split = some sp)
    (hlate : s.waitExpired t gang split sp = some a) :
    execWaitWatchdogExpiry rid gang split s = .next (s.terminateAt rid 962 0 gang (t.rjvpc sp) a) := by
  simp only [execWaitWatchdogExpiry, ht, hsp, hlate]

section Budget

variable (hbudget : s.overBudget t = true)
include hbudget

theorem execBudgetOverrun_of_eighth (hmany : 7 ≤ t.overruns) : execBudgetOverrun rid s = .next (s.terminate rid 963 0 0 (2 ^ 64 - 1)) := by
  simp only [execBudgetOverrun, ht, hbudget, Bool.not_true, Bool.false_eq_true, if_false]
  exact if_pos (by omega)

theorem execBudgetOverrun_of_earlier (hfew : t.overruns < 7) (hstop : t.stoppable = true) :
    execBudgetOverrun rid s =
      let u := ((s.log { cause := 963, task := t.task, team := t.index }).suspendNative t).updTeam rid
        (fun (u : Team) => { u with overruns := u.overruns + 1, budgetUsed := 0 })
      .next (State.switchIn { u with hub := { u.hub with overran := u.hub.overran ++ [(t.task, t.index)] } } t.core) := by
  have hcount : ¬ 8 ≤ t.overruns + 1 := by omega
  simp only [execBudgetOverrun, ht, hbudget, hstop, Bool.not_true, Bool.false_eq_true, if_false, if_neg hcount]

end Budget

theorem execVirtualPreciseStop_of_atCommit {brks : List (Nat × Nat × Nat)} {host : Bool} (hstatus : t.status = .stopping brks host)
    (hcommit : s.atCommit t = true) :
    execVirtualPreciseStop rid s =
      let u := ((s.updTeam rid (fun (u : Team) => { u with gangs := u.gangs.map Gang.rollbackAll })).saveTeam rid .stopped true).freeCore t.core
      let b := brks.foldl (fun (z : State) x => z.event 1 x.1 x.2.1 t.task t.index (mkWord x.2.2) 0) u
      .next (if host then b.event 4 0 0 t.task t.index 0 0 else b) := by
  simp only [execVirtualPreciseStop, ht, hstatus, hcommit, if_true]

theorem execDispatcherMoveRequest_of_resident (hstatus : t.status = .resident) (hreq : t.moveReq = none) (hmoving : t.moving = false)
    (hkind : t.kern.kinds.contains (CoreKind.other t.core.kind) = true) :
    execDispatcherMoveRequest rid s = .next (s.updTeam rid (fun (u : Team) => { u with moveReq := some s.dclocks })) := by
  simp only [execDispatcherMoveRequest, ht]
  exact when_of_enabled (by rw [hstatus, hreq, hmoving, hkind]; rfl)

theorem execDispatcherMoveLapse_of_late {t0 : Nat} (hreq : t.moveReq = some t0) (hlate : t0 + 120000000 ≤ s.dclocks) :
    execDispatcherMoveLapse rid s = .next (s.dropMoveReq rid) := by
  simp only [execDispatcherMoveLapse, ht, Option.bind_some, hreq]
  exact when_of_enabled (decide_eq_true hlate)

end Teams

/-- Settles O23: each event of a team has its effect where its condition holds. -/
theorem teamsEndStopAndExpire : Obligations.TeamsEndStopAndExpire := by
  unfold Obligations.TeamsEndStopAndExpire
  intro s
  refine ⟨?retire, ?mask, ?wait, ?eighth, ?earlier, ?stop, ?request, ?lapse⟩
  case retire => exact fun _ _ ht hdone => execTeamRetire_of_retirable ht hdone
  case mask => exact fun _ _ _ _ _ ht hg hhandler hlate => execMaskWatchdogExpiry_of_expired ht hg hhandler hlate
  case wait => exact fun _ _ _ _ _ ht hsp _ hlate => execWaitWatchdogExpiry_of_expired ht hsp hlate
  case eighth => exact fun _ _ ht hbudget hmany => execBudgetOverrun_of_eighth ht hbudget hmany
  case earlier => exact fun _ _ ht hbudget hfew hstop => execBudgetOverrun_of_earlier ht hbudget hfew hstop
  case stop =>
    intro rid t brks host ht hstatus hcommit
    have hstop := execVirtualPreciseStop_of_atCommit ht hstatus hcommit
    exact ⟨fun hno => hstop.trans (by rw [hno]; rfl), fun hyes => hstop.trans (by rw [hyes]; rfl)⟩
  case request => exact fun _ _ ht hstatus hreq hmoving hkind => execDispatcherMoveRequest_of_resident ht hstatus hreq hmoving hkind
  case lapse => exact fun _ _ _ ht hreq hlate => execDispatcherMoveLapse_of_late ht hreq hlate

end Sys2Proof.Proofs

/-! PROOFS. The counterexample to the step of a JV context: a context whose held access a package's reset has released (R484, R485), about to make
that access again. -/

namespace Sys2Proof.Proofs

open Sys2Proof.Machine Sys2Proof.Safety

/-- The only context stood held by an access to package 1, and the reset of that package has woken and marked it. At its PC stands, for any
instruction that completes, a JV sub of 7 from register 0 into register 5. -/
def releasedState : State :=
  let s := (State.reset.withFetchWord 64 0x010547F005000F07).updSplit 0 0 0 (fun sp => { sp with wait := .remote 1 0x100000 })
  State.resetPeer { s with hub := { s.hub with config := { s.hub.config with packages := 2 } } } 1 0

/-- The only context, which its sequencer has still to select. -/
def releasedReady : Ready × Bool :=
  ({ rid := 0, gang := 0, split := 0, core := { kind := .dcore, num := 0 }, seq := 0, stamp := 0, slot := 0 }, false)

def releasedWords : List Word := placedWords 0x010547F005000F07

def releasedForm : JvForm :=
  { gneg := false, guard := .always, ty := 5, d := .reg 5 false, a := .reg 0 false, b := .lit 7, c := .none, off := 0, pol := 0, spc := 0, ord := 0, scp := 0
    rm := 0, sub := 0, hasMod := false }

/-- The mark of the context after a step. -/
def markAfter (r : Host.Outcome State Fault Refusal) : Option (Option Nat) :=
  match r with
  | .next t => (t.split? 0 0 0).map (fun sp => sp.refused)
  | _ => none

theorem step_clears_mark : markAfter (step releasedState) = some none := by decide +kernel

theorem released_due : releasedState.due = none := by decide +kernel

theorem released_candidate : releasedState.candidate = some releasedReady := by decide +kernel

theorem released_decodes : decodeJv releasedWords = .ok .sub releasedForm 1 := by decide +kernel

/-- The context after its selection, with its gang and team. -/
def releasedTeam : Team := ((picked releasedState releasedReady).team? 0).getD (fetchTeam (fetchKernel 1 [] false) 0 0)
def releasedGang : Gang := releasedTeam.gangs.getD 0 (newGang releasedTeam.kern false none 0 0)
def releasedSplit : Split := releasedGang.splits.getD 0 Split.unused

/-- Refutes O39: a step in which a context makes a held access again clears the mark of the reset that released it (`State.madeAgain`, R484), which the
equation leaves out of the step's own work. -/
theorem not_stepRunsTheDecodedInstruction : ¬ Obligations.StepRunsTheDecodedInstruction := by
  unfold Obligations.StepRunsTheDecodedInstruction
  rintro ⟨hjv, _⟩
  have hstep := hjv releasedState releasedReady releasedTeam releasedGang releasedSplit releasedWords .sub releasedForm 1
    rfl released_due rfl released_candidate (by decide +kernel) (by decide +kernel) (by decide +kernel) (by decide +kernel) (by decide +kernel)
    (.inl (by decide +kernel)) (by decide +kernel) (by decide +kernel) (by decide +kernel) released_decodes
  have hmark := step_clears_mark
  rw [hstep] at hmark
  exact absurd hmark (by decide +kernel)

end Sys2Proof.Proofs
/-! PROOFS. The memory stays in its canonical form. Every way in which the model changes memory (a byte, a run of bytes, a cleared range,
a moved frame, a filtered table) keeps the form by the lemmas of Laws/Memory; so each function that makes a state keeps it, one lemma per
function, in the order of the model's files, up to `step`. -/

namespace Sys2Proof.Safety

open Sys2Proof.Machine Sys2Proof.Laws

/-- The memory that an effect leaves is canonical. -/
def OutOk : Out → Prop
  | .done v | .jump v | .park v _ | .raiseAfter v _ => MemOk v.s
  | .raise _ => True
  | .state t => MemOk t

/-- So is that of the next state, where there is one. -/
def ResultOk : Result → Prop
  | .next t => MemOk t
  | .fault _ | .refused _ => True

/-- So is that of a state that may be absent. -/
def OptOk : Option State → Prop
  | some t => MemOk t
  | none => True

theorem MemOk.of_mem_eq {s t : State} (e : t.mem = s.mem) (h : MemOk s) : MemOk t := by
  unfold MemOk at *
  rw [e]
  exact h

theorem ResultOk.next {r : Result} {t : State} (h : ResultOk r) (e : r = .next t) : MemOk t := by
  subst e
  exact h

theorem ResultOk.ite {p : Prop} [Decidable p] {a b : Result} (ha : ResultOk a) (hb : ResultOk b) : ResultOk (if p then a else b) := by
  split
  · exact ha
  · exact hb

theorem OptOk.some {o : Option State} {t : State} (h : OptOk o) (e : o = some t) : MemOk t := by
  subst e
  exact h

theorem OptOk.getD {o : Option State} {s : State} (h : OptOk o) (hs : MemOk s) : MemOk (o.getD s) := by
  cases o with
  | none => exact hs
  | some t => exact h

theorem OptOk.bind {α : Type} {o : Option α} {f : α → Option State} (hf : ∀ a, o = Option.some a → OptOk (f a)) : OptOk (o.bind f) := by
  cases o with
  | none => trivial
  | some a => exact hf a rfl

theorem MemOk.fst {α : Type} {p : State × α} {t : State} {a : α} (h : MemOk p.1) (e : p = (t, a)) : MemOk t := by
  subst e
  exact h

/-- What each part of a fold keeps, the fold keeps; `p` is the state in its accumulator. -/
theorem MemOk.foldlOn {α β : Type} (p : β → State) {f : β → α → β} {l : List α} {b : β} (h : MemOk (p b))
    (hf : ∀ b a, MemOk (p b) → MemOk (p (f b a))) : MemOk (p (l.foldl f b)) :=
  List.foldlRecOn (motive := fun b => MemOk (p b)) l f h (fun b hb a _ => hf b a hb)

theorem MemOk.foldl {α : Type} {f : State → α → State} {l : List α} {s : State} (h : MemOk s) (hf : ∀ s a, MemOk s → MemOk (f s a)) :
    MemOk (l.foldl f s) := h.foldlOn id hf

theorem MemOk.foldlView {α : Type} {f : View → α → View} {l : List α} {v : View} (h : MemOk v.s) (hf : ∀ v a, MemOk v.s → MemOk (f v a).s) :
    MemOk (l.foldl f v).s := h.foldlOn View.s hf

theorem MemOk.foldlFst {α β : Type} {f : State × β → α → State × β} {l : List α} {r : State × β} (h : MemOk r.1)
    (hf : ∀ r a, MemOk r.1 → MemOk (f r a).1) : MemOk (l.foldl f r).1 := h.foldlOn Prod.fst hf

theorem MemOk.foldlViewFst {α β : Type} {f : View × β → α → View × β} {l : List α} {r : View × β} (h : MemOk r.1.s)
    (hf : ∀ r a, MemOk r.1.s → MemOk (f r a).1.s) : MemOk (l.foldl f r).1.s := h.foldlOn (fun r : View × β => r.1.s) hf

theorem MemOk.foldlViewSnd {α β : Type} {f : β × View → α → β × View} {l : List α} {r : β × View} (h : MemOk r.2.s)
    (hf : ∀ r a, MemOk r.2.s → MemOk (f r a).2.s) : MemOk (l.foldl f r).2.s := h.foldlOn (fun r : β × View => r.2.s) hf

/-- The memory of the state that a computation ends in, where it ends in one, is canonical. -/
def MemOk.OfOk : Except Raise State → Prop
  | .ok t => MemOk t
  | .error _ => True

/-! ### What `Machine/Ops.lean` keeps -/

theorem MemOk.updTeam {s : State} {rid : Nat} {f : Team → Team} (h : MemOk s) : MemOk (s.updTeam rid f) := h

theorem MemOk.updSplit {s : State} {rid gang k : Nat} {f : Split → Split} (h : MemOk s) : MemOk (s.updSplit rid gang k f) := h.updTeam

theorem MemOk.setCore {s : State} {c : CoreSt} (h : MemOk s) : MemOk (s.setCore c) := by
  dsimp only [State.setCore]
  split <;> exact h

theorem MemOk.putBytes {s : State} {flat : Nat} {bs : List Byte} (h : MemOk s) : MemOk (s.putBytes flat bs) := Memory_writeN_wf bs _ _ h

theorem MemOk.putVa {s : State} {asid va : Nat} {bs : List Byte} (h : MemOk s) : MemOk (s.putVa asid va bs) := by
  dsimp only [State.putVa]
  split
  · split
    · exact h.putBytes
    refine MemOk.foldl h ?_
    intro _ _ h1
    split
    · exact h1.putBytes
    · exact h1
  · exact h

theorem MemOk.putPkg {s : State} {asid va : Nat} {bs : List Byte} (h : MemOk s) : MemOk (s.putPkg asid va bs) := by
  dsimp only [State.putPkg]
  split
  · exact h
  · exact h.putVa

theorem MemOk.writeBackLine {s : State} {l : L1Line} (h : MemOk s) : MemOk (s.writeBackLine l) := by
  dsimp only [State.writeBackLine]
  split
  · exact h
  split
  · exact h
  exact h.foldl (fun _ _ h1 => Memory_write_wf _ _ _ h1)

theorem MemOk.countUnused {s : State} {l : L1Line} (h : MemOk s) : MemOk (s.countUnused l) := by
  dsimp only [State.countUnused]
  split
  · exact h.updTeam
  · exact h

theorem MemOk.dropLine {s : State} {c : CoreId} {asid vline : Nat} (h : MemOk s) : MemOk (s.dropLine c asid vline) := by
  dsimp only [State.dropLine]
  split
  · exact h
  · exact h.writeBackLine.countUnused.setCore

theorem MemOk.dropRange {s : State} {c : CoreId} {asid va n : Nat} (h : MemOk s) : MemOk (s.dropRange c asid va n) :=
  h.foldl (fun _ _ h1 => h1.dropLine)

theorem MemOk.writeBackAsid {s : State} {c : CoreId} {asid : Nat} (h : MemOk s) : MemOk (s.writeBackAsid c asid) := by
  dsimp only [State.writeBackAsid]
  split
  · exact h
  · exact (h.foldl (fun _ _ h1 => h1.writeBackLine)).setCore

theorem MemOk.invalidateAsid {s : State} {c : CoreId} {asid : Nat} (h : MemOk s) : MemOk (s.invalidateAsid c asid) := by
  dsimp only [State.invalidateAsid]
  split
  · exact h
  · exact (h.foldl (fun _ _ h1 => h1.writeBackLine.countUnused)).setCore

theorem MemOk.makeRoom {s : State} {c : CoreId} (h : MemOk s) : MemOk (s.makeRoom c) := by
  dsimp only [State.makeRoom]
  split
  · exact h
  split
  · exact h.dropLine
  · exact h

theorem MemOk.fillLine {s : State} {c : CoreId} {asid va : Nat} (h : MemOk s) : MemOk (s.fillLine c asid va) := by
  dsimp only [State.fillLine]
  split
  · exact h
  split
  · exact h
  split
  · exact h.setCore
  · exact h.makeRoom.setCore

theorem MemOk.useLine {s : State} {c : CoreId} {asid va : Nat} (h : MemOk s) : MemOk (s.useLine c asid va) := by
  dsimp only [State.useLine]
  split
  · split
    · exact h.setCore.updTeam
    · exact h
  · exact h

theorem MemOk.nearRead {s : State} {c : CoreId} {asid va n : Nat} (h : MemOk s) : MemOk (s.nearRead c asid va n).2 := by
  dsimp only [State.nearRead]
  split <;> exact h.fillLine.useLine

theorem MemOk.nearWrite {s : State} {c : CoreId} {asid va : Nat} {bs : List Byte} (h : MemOk s) : MemOk (s.nearWrite c asid va bs) :=
  h.fillLine.useLine.setCore

theorem MemOk.homeRead {s : State} {c : CoreId} {asid va n : Nat} (h : MemOk s) : MemOk (s.homeRead c asid va n).2 := h.dropLine

theorem MemOk.homeWrite {s : State} {c : CoreId} {asid va : Nat} {bs : List Byte} (h : MemOk s) : MemOk (s.homeWrite c asid va bs) := h.dropLine.putVa

theorem MemOk.log {s : State} {e : LogEntry} (h : MemOk s) : MemOk (s.log e) := h

theorem MemOk.logLimited {s : State} {key gap : Nat} {e : LogEntry} (h : MemOk s) : MemOk (s.logLimited key gap e) := by
  dsimp only [State.logLimited]
  split <;> exact h

theorem MemOk.raiseVector {s : State} {v : Nat} (h : MemOk s) : MemOk (s.raiseVector v) := h

theorem MemOk.flushEvents {n : Nat} {s : State} (h : MemOk s) : MemOk (State.flushEvents n s) := by
  induction n generalizing s with
  | zero => exact h
  | succ n ih =>
    unfold State.flushEvents
    split
    · exact h
    split
    · exact h
    exact ih h

theorem MemOk.event {s : State} {kind n gang task team : Nat} {jvpc value : Word} (h : MemOk s) : MemOk (s.event kind n gang task team jvpc value) :=
  MemOk.flushEvents h

theorem MemOk.endTeam {s : State} {rid cause masked gang jvpc addr : Nat} (h : MemOk s) : MemOk (s.endTeam rid cause masked gang jvpc addr) :=
  h.updTeam

theorem MemOk.dropPreloads {p : Preload → Bool} {s : State} (h : MemOk s) : MemOk (State.dropPreloads p s) := by
  dsimp only [State.dropPreloads]
  split <;> exact h

theorem MemOk.stopTeam {s : State} {rid cause masked gang jvpc addr : Nat} (h : MemOk s) : MemOk (s.stopTeam rid cause masked gang jvpc addr) := by
  unfold State.stopTeam
  split
  · exact h
  extract_lets s1 coop s2 lives
  have h1 : MemOk s1 := h.endTeam
  have h2 : MemOk s2 := by
    unfold s2
    split
    · exact h1.foldl (fun _ _ h1 => h1.endTeam)
    · exact h1
  clear_value s2
  exact MemOk.dropPreloads h2

theorem MemOk.terminateAt {s : State} {rid cause masked gang jvpc addr : Nat} (h : MemOk s) :
    MemOk (s.terminateAt rid cause masked gang jvpc addr) := by
  dsimp only [State.terminateAt]
  split
  · exact h
  split
  · exact h.stopTeam.log
  · exact h.stopTeam

theorem MemOk.terminate {s : State} {rid cause masked gang jvpc : Nat} (h : MemOk s) : MemOk (s.terminate rid cause masked gang jvpc) := h.terminateAt

theorem MemOk.dropFrame {s : State} {c : CoreId} {asid frame : Nat} (h : MemOk s) : MemOk (s.dropFrame c asid frame) :=
  h.foldl (fun _ _ h1 => h1.dropLine)

theorem MemOk.enterHandler {s : State} {t : Team} {g : Gang} {r : Raise} {fa : FaultAt} (h : MemOk s) : MemOk (s.enterHandler t g r fa) := by
  unfold State.enterHandler
  split
  · exact h
  extract_lets frame bs s0 s1 s2
  have h0 : MemOk s0 := h.dropFrame
  clear_value s0
  have h1 : MemOk s1 := by
    unfold s1
    split <;> exact h0
  exact h1.putVa.updTeam.updTeam

theorem MemOk.dropReads {s : State} {rid gang : Nat} (h : MemOk s) : MemOk (s.dropReads rid gang) := h

theorem MemOk.tryEnter {s : State} {rid gang : Nat} (h : MemOk s) : MemOk (s.tryEnter rid gang) := by
  dsimp only [State.tryEnter]
  split
  · exact h
  split
  · exact h
  split
  · exact h
  split
  · exact h
  split
  · exact h.terminate
  · split
    · exact h
    · exact h.updTeam
  · exact h.enterHandler

theorem MemOk.settleEntries {s : State} (h : MemOk s) : MemOk s.settleEntries := by
  dsimp only [State.settleEntries]
  refine MemOk.foldl h ?_
  intro _ _ h1
  split
  · refine MemOk.foldl h1 ?_
    intro _ _ h2
    split
    · exact h2.tryEnter
    · exact h2
  · exact h1

theorem MemOk.deliverH {s : State} {r : Raise} {fa : FaultAt} (h : MemOk s) : MemOk (s.deliverH r fa) := by
  dsimp only [State.deliverH]
  split
  · exact h
  split
  · exact h
  split
  · exact h.terminateAt
  split
  · exact h.terminate
  split
  · exact h
  split
  · refine MemOk.tryEnter ?_
    split
    · exact h.updTeam.dropReads
    · exact h.updTeam
  split
  · exact h.updTeam.dropReads
  · exact h.updTeam

theorem MemOk.dropSpill {s : State} {t : Team} (h : MemOk s) : MemOk (s.dropSpill t) := by
  dsimp only [State.dropSpill]
  split
  · exact h.setCore
  · exact h

theorem MemOk.dropEpoch {s : State} {t : Team} (h : MemOk s) : MemOk (s.dropEpoch t) := h

theorem MemOk.consume {s : State} {r : Raise} {fa : FaultAt} {term : Nat} {pc : Option Nat} {e : LogEntry} (h : MemOk s) :
    MemOk (s.consume r fa term pc e) := by
  dsimp only [State.consume]
  split
  · exact h
  split
  · exact h.terminate
  split
  · exact h.log.dropSpill.updTeam.dropEpoch.dropPreloads
  split
  · exact h.log.terminateAt
  · exact h.log.terminate

theorem MemOk.translationDefect {s : State} {r : Raise} {fa : FaultAt} (h : MemOk s) : MemOk (s.translationDefect r fa) := by
  dsimp only [State.translationDefect]
  split
  · exact h
  split
  · exact h.terminate
  · exact MemOk.terminate h

theorem MemOk.clearPipe {s : State} {rid : Nat} (h : MemOk s) : MemOk (s.clearPipe rid) := by
  dsimp only [State.clearPipe]
  split
  · split
    · exact h
    · exact h.setCore
  · exact h

theorem MemOk.countMis {s : State} {rid k : Nat} (h : MemOk s) : MemOk (s.countMis rid k) := h.clearPipe.updTeam

theorem MemOk.deliver {s : State} {r : Raise} {fa : FaultAt} (h : MemOk s) : MemOk (s.deliver r fa) := by
  dsimp only [State.deliver]
  split
  · exact h.consume
  split
  · exact h.countMis.consume
  split
  · exact h.consume
  split
  · exact h.translationDefect
  split
  · exact h.terminate
  · exact h.deliverH

theorem MemOk.logPark {s : State} {rid gang k addr : Nat} (h : MemOk s) : MemOk (s.logPark rid gang k addr) := by
  dsimp only [State.logPark]
  split
  · exact h
  split
  · exact h
  split
  · exact h
  · exact h.log

theorem MemOk.parkGang {s : State} {rid gang k : Nat} {w : Wait} (h : MemOk s) : MemOk (s.parkGang rid gang k w) := by
  dsimp only [State.parkGang]
  split
  · refine MemOk.of_mem_eq rfl ?_
    refine MemOk.logPark ?_
    refine MemOk.updTeam ?_
    split
    · exact h.dropReads
    · exact h
  · refine MemOk.updSplit ?_
    split
    · exact h
    · exact h.updTeam.updSplit
  · exact h.updSplit

theorem MemOk.remakeLost {s : State} {t : Team} {gang : Nat} {splits : List Split} (h : MemOk s) : MemOk (s.remakeLost t gang splits) := by
  dsimp only [State.remakeLost]
  split
  · exact h
  · split <;> exact h

theorem MemOk.leaveHandler {s : State} {rid gang : Nat} {cleared : Mask} (h : MemOk s) : MemOk (s.leaveHandler rid gang cleared) := by
  dsimp only [State.leaveHandler]
  split
  · exact h
  split
  · exact h
  split
  · exact h
  split
  · exact h.dropFrame.terminate
  · exact h.dropFrame.updSplit
  · exact h.dropFrame.updTeam.remakeLost

/-! ### What `Machine/Flags.lean` keeps -/

theorem MemOk.flag {v : View} {f : Flags} (h : MemOk v.s) : MemOk (v.flag f).s := by
  dsimp only [View.flag]
  split
  · exact h
  · split <;> exact h

/-! ### What `Machine/Operands.lean` keeps -/

theorem MemOk.close {v : View} (h : MemOk v.s) : MemOk v.close := h

theorem MemOk.onTeam {v : View} {f : Team → Team} (h : MemOk v.s) : MemOk (v.onTeam f).s := h

theorem MemOk.onState {v : View} {f : State → State} (h : MemOk v.s) (hf : ∀ s, MemOk s → MemOk (f s)) : MemOk (v.onState f).s := by
  dsimp only [View.onState]
  split <;> exact hf _ h.close

theorem MemOk.emit {v : View} {loc : Nat} {lanes : Mask} {value : Lanes} (h : MemOk v.s) : MemOk (v.emit loc lanes value).s := by
  dsimp only [View.emit]
  split <;> exact h

theorem MemOk.putLanes {v : View} {o : Operand} {ty : Nat} {e : Mask} {f : Nat → Word} (h : MemOk v.s) : MemOk (v.putLanes o ty e f).s := by
  dsimp only [View.putLanes]
  split
  · exact h
  · exact h
  split
  · exact h.emit.emit
  · exact h.emit

theorem MemOk.putUni {v : View} {o : Operand} {ty : Nat} {x : Word} (h : MemOk v.s) : MemOk (v.putUni o ty x).s := by
  dsimp only [View.putUni]
  split
  · exact h
  · exact h
  · exact h.emit
  · exact h.emit
  · exact h

theorem MemOk.put {v : View} {o : Operand} {ty : Nat} {e : Mask} {f : Nat → Word} (h : MemOk v.s) : MemOk (v.put o ty e f).s := by
  dsimp only [View.put]
  split
  · exact h.putLanes
  · exact h.putUni

theorem MemOk.putPred {v : View} {o : Operand} {e m : Mask} (h : MemOk v.s) : MemOk (v.putPred o e m).s := by
  dsimp only [View.putPred]
  split
  · exact h
  · split
    · exact h
    · exact h.emit
  · exact h

theorem MemOk.stepSig {v : View} {o : Op} {ty : Nat} (h : MemOk v.s) : MemOk (v.stepSig o ty).s := by
  dsimp only [View.stepSig]
  split <;> exact h

theorem MemOk.complete {v0 : View} (h : MemOk v0.s) : MemOk v0.complete.s := by
  dsimp only [View.complete]
  split
  · exact h
  split
  · exact h
  · exact h.onState (fun _ h1 => h1)

theorem MemOk.advance {v : View} {n : Nat} (h : MemOk v.s) : MemOk (v.advance n).s := by
  dsimp only [View.advance]
  split <;> exact h

theorem MemOk.fail {v : View} {slot : Nat} {r : Raise} (h : MemOk v.s) : MemOk (v.fail slot r) := by
  dsimp only [View.fail]
  split
  · split
    · exact h.close.parkGang
    · exact h.close
  split
  · exact MemOk.close h
  · exact MemOk.deliver (MemOk.close h)

theorem MemOk.enter {v : View} {o : Op} {f : Form} (h : MemOk v.s) : MemOk (v.enter o f).s := h

theorem MemOk.retire {v : View} {f : Form} (h : MemOk v.s) : MemOk (v.retire f) := h.complete.advance.close

theorem MemOk.openView {s : State} {v : View} (h : MemOk s) (e : View.open s = some v) : MemOk v.s := by
  simp only [View.open, Option.bind_eq_bind, Option.bind_eq_some_iff, Option.some.injEq] at e
  obtain ⟨_, _, _, _, _, _, _, _, rfl⟩ := e
  exact h

/-- An encoded instruction keeps what its own effect keeps. -/
theorem MemOk.runOp {o : Op} {f : Form} {s : State} {checks : View → Args → Mask → List Raise} {body : View → Args → Mask → Out}
    (h : MemOk s) (hbody : ∀ v a e, MemOk v.s → OutOk (body v a e)) : ResultOk (runOp o f s checks body) := by
  unfold Machine.runOp
  split
  · trivial
  next v0 hopen =>
  extract_lets +onlyGivenNames v a
  have hv : MemOk v.s := MemOk.enter (h.openView hopen)
  clear_value v
  split
  · exact hv.fail
  extract_lets +onlyGivenNames e
  have hw : MemOk (v.stepSig o a.ty).s := hv.stepSig
  split
  · split
    · exact hv.fail
    · exact hw.retire
  split
  · exact hv.fail
  have hout := hbody _ a e hw
  split
  next hb => rw [hb] at hout; exact MemOk.retire hout
  next hb => rw [hb] at hout; exact (MemOk.complete hout).close
  next hb => rw [hb] at hout; exact MemOk.parkGang hout
  next => exact hv.fail
  next hb => rw [hb] at hout; exact (MemOk.complete hout).advance.close.deliver
  next hb => rw [hb] at hout; exact hout

/-! ### What `Machine/IntArith.lean` keeps -/

theorem MemOk.valBody {f : Args → Word → Word → Word → Word} {v : View} {a : Args} {e : Mask} (h : MemOk v.s) : OutOk (valBody f v a e) := h.put

theorem MemOk.intBody {f : Args → Int → Int → Int → Word} {x1 : View} {x2 : Args} {x3 : Mask} (h : MemOk x1.s) : OutOk (intBody f x1 x2 x3) :=
  h.valBody

theorem MemOk.execAdd {f : Form} {s : State} (h : MemOk s) : ResultOk (execAdd f s) := h.runOp (fun _ _ _ h1 => h1.intBody)

theorem MemOk.execSub {f : Form} {s : State} (h : MemOk s) : ResultOk (execSub f s) := h.runOp (fun _ _ _ h1 => h1.intBody)

theorem MemOk.execMul {f : Form} {s : State} (h : MemOk s) : ResultOk (execMul f s) := h.runOp (fun _ _ _ h1 => h1.intBody)

theorem MemOk.execMulhi {f : Form} {s : State} (h : MemOk s) : ResultOk (execMulhi f s) := h.runOp (fun _ _ _ h1 => h1.intBody)

theorem MemOk.execMad {f : Form} {s : State} (h : MemOk s) : ResultOk (execMad f s) := h.runOp (fun _ _ _ h1 => h1.intBody)

theorem MemOk.execDiv {f : Form} {s : State} (h : MemOk s) : ResultOk (execDiv f s) := h.runOp (fun _ _ _ h1 => h1.intBody)

theorem MemOk.execRem {f : Form} {s : State} (h : MemOk s) : ResultOk (execRem f s) := h.runOp (fun _ _ _ h1 => h1.intBody)

theorem MemOk.execMin {f : Form} {s : State} (h : MemOk s) : ResultOk (execMin f s) := h.runOp (fun _ _ _ h1 => h1.intBody)

theorem MemOk.execMax {f : Form} {s : State} (h : MemOk s) : ResultOk (execMax f s) := h.runOp (fun _ _ _ h1 => h1.intBody)

theorem MemOk.execAbs {f : Form} {s : State} (h : MemOk s) : ResultOk (execAbs f s) := h.runOp (fun _ _ _ h1 => h1.intBody)

theorem MemOk.execNeg {f : Form} {s : State} (h : MemOk s) : ResultOk (execNeg f s) := h.runOp (fun _ _ _ h1 => h1.intBody)

theorem MemOk.execDp4 {f : Form} {s : State} (h : MemOk s) : ResultOk (execDp4 f s) := h.runOp (fun _ _ _ h1 => h1.valBody)

theorem MemOk.execLea {f : Form} {s : State} (h : MemOk s) : ResultOk (execLea f s) := h.runOp (fun _ _ _ h1 => h1.intBody)

/-! ### What `Machine/MovePred.lean` keeps -/

theorem MemOk.predBody {f : Mask → Mask → Mask → Mask} {v : View} {a : Args} {e : Mask} (h : MemOk v.s) : OutOk (predBody f v a e) := h.putPred

theorem MemOk.movBody {v : View} {a : Args} {e : Mask} (h : MemOk v.s) : OutOk (movBody v a e) := by
  dsimp only [Machine.movBody]
  split
  · exact h.predBody
  split
  · exact h
  · exact h.valBody

theorem MemOk.moviBody {v : View} {a : Args} {e : Mask} (h : MemOk v.s) : OutOk (moviBody v a e) := h.put

theorem MemOk.selBody {v : View} {a : Args} {e : Mask} (h : MemOk v.s) : OutOk (selBody v a e) := by
  dsimp only [Machine.selBody]
  split
  · exact h.putPred
  · exact h.put

theorem MemOk.setpBody {v : View} {a : Args} {e : Mask} (h : MemOk v.s) : OutOk (setpBody v a e) := h.putPred

theorem MemOk.execMov {f : Form} {s : State} (h : MemOk s) : ResultOk (execMov f s) := h.runOp (fun _ _ _ h1 => h1.movBody)

theorem MemOk.execMovi {f : Form} {s : State} (h : MemOk s) : ResultOk (execMovi f s) := h.runOp (fun _ _ _ h1 => h1.moviBody)

theorem MemOk.execSel {f : Form} {s : State} (h : MemOk s) : ResultOk (execSel f s) := h.runOp (fun _ _ _ h1 => h1.selBody)

theorem MemOk.execSetp {f : Form} {s : State} (h : MemOk s) : ResultOk (execSetp f s) := h.runOp (fun _ _ _ h1 => h1.setpBody)

theorem MemOk.execPand {f : Form} {s : State} (h : MemOk s) : ResultOk (execPand f s) := h.runOp (fun _ _ _ h1 => h1.predBody)

theorem MemOk.execPor {f : Form} {s : State} (h : MemOk s) : ResultOk (execPor f s) := h.runOp (fun _ _ _ h1 => h1.predBody)

theorem MemOk.execPxor {f : Form} {s : State} (h : MemOk s) : ResultOk (execPxor f s) := h.runOp (fun _ _ _ h1 => h1.predBody)

theorem MemOk.execPnot {f : Form} {s : State} (h : MemOk s) : ResultOk (execPnot f s) := h.runOp (fun _ _ _ h1 => h1.predBody)

/-! ### What `Machine/FloatArith.lean` keeps -/

theorem MemOk.flagBody {f : Nat → Nat × Flags} {v : View} {a : Args} {ty : Nat} {e : Mask} (h : MemOk v.s) : OutOk (flagBody f v a ty e) := h.flag.put

theorem MemOk.floatBody {fn : FloatFn} {v : View} {a : Args} {e : Mask} (h : MemOk v.s) : OutOk (floatBody fn v a e) := h.flagBody

theorem MemOk.minMaxBody {isMax : Bool} {v : View} {a : Args} {e : Mask} (h : MemOk v.s) : OutOk (minMaxBody isMax v a e) := h.flagBody

theorem MemOk.fscaleBody {v : View} {a : Args} {e : Mask} (h : MemOk v.s) : OutOk (fscaleBody v a e) := h.flagBody

theorem MemOk.fsetpBody {v : View} {a : Args} {e : Mask} (h : MemOk v.s) : OutOk (fsetpBody v a e) := h.flag.putPred

theorem MemOk.fclassBody {v : View} {a : Args} {e : Mask} (h : MemOk v.s) : OutOk (fclassBody v a e) := h.put

theorem MemOk.frndBody {v : View} {a : Args} {e : Mask} (h : MemOk v.s) : OutOk (frndBody v a e) := h.flagBody

theorem MemOk.fcvtBody {v : View} {a : Args} {e : Mask} (h : MemOk v.s) : OutOk (fcvtBody v a e) := h.flagBody

theorem MemOk.f2iBody {v : View} {a : Args} {e : Mask} (h : MemOk v.s) : OutOk (f2iBody v a e) := h.flagBody

theorem MemOk.i2fBody {v : View} {a : Args} {e : Mask} (h : MemOk v.s) : OutOk (i2fBody v a e) := h.flagBody

theorem MemOk.packedBody {fn : FloatFn} {v : View} {a : Args} {e : Mask} (h : MemOk v.s) : OutOk (packedBody fn v a e) := h.flagBody

theorem MemOk.fdot2Body {v : View} {a : Args} {e : Mask} (h : MemOk v.s) : OutOk (fdot2Body v a e) := h.flagBody

theorem MemOk.signBody {neg : Bool} {x1 : View} {x2 : Args} {x3 : Mask} (h : MemOk x1.s) : OutOk (signBody neg x1 x2 x3) := h.valBody

theorem MemOk.execFadd {f : Form} {s : State} (h : MemOk s) : ResultOk (execFadd f s) := h.runOp (fun _ _ _ h1 => h1.floatBody)

theorem MemOk.execFsub {f : Form} {s : State} (h : MemOk s) : ResultOk (execFsub f s) := h.runOp (fun _ _ _ h1 => h1.floatBody)

theorem MemOk.execFmul {f : Form} {s : State} (h : MemOk s) : ResultOk (execFmul f s) := h.runOp (fun _ _ _ h1 => h1.floatBody)

theorem MemOk.execFfma {f : Form} {s : State} (h : MemOk s) : ResultOk (execFfma f s) := h.runOp (fun _ _ _ h1 => h1.floatBody)

theorem MemOk.execFmin {f : Form} {s : State} (h : MemOk s) : ResultOk (execFmin f s) := h.runOp (fun _ _ _ h1 => h1.minMaxBody)

theorem MemOk.execFmax {f : Form} {s : State} (h : MemOk s) : ResultOk (execFmax f s) := h.runOp (fun _ _ _ h1 => h1.minMaxBody)

theorem MemOk.execFabs {f : Form} {s : State} (h : MemOk s) : ResultOk (execFabs f s) := h.runOp (fun _ _ _ h1 => h1.signBody)

theorem MemOk.execFneg {f : Form} {s : State} (h : MemOk s) : ResultOk (execFneg f s) := h.runOp (fun _ _ _ h1 => h1.signBody)

theorem MemOk.execFdiv {f : Form} {s : State} (h : MemOk s) : ResultOk (execFdiv f s) := h.runOp (fun _ _ _ h1 => h1.floatBody)

theorem MemOk.execFsqrt {f : Form} {s : State} (h : MemOk s) : ResultOk (execFsqrt f s) := h.runOp (fun _ _ _ h1 => h1.floatBody)

theorem MemOk.execFrcp {f : Form} {s : State} (h : MemOk s) : ResultOk (execFrcp f s) := h.runOp (fun _ _ _ h1 => h1.floatBody)

theorem MemOk.execFrsq {f : Form} {s : State} (h : MemOk s) : ResultOk (execFrsq f s) := h.runOp (fun _ _ _ h1 => h1.floatBody)

theorem MemOk.execFex2 {f : Form} {s : State} (h : MemOk s) : ResultOk (execFex2 f s) := h.runOp (fun _ _ _ h1 => h1.floatBody)

theorem MemOk.execFlg2 {f : Form} {s : State} (h : MemOk s) : ResultOk (execFlg2 f s) := h.runOp (fun _ _ _ h1 => h1.floatBody)

theorem MemOk.execFscale {f : Form} {s : State} (h : MemOk s) : ResultOk (execFscale f s) := h.runOp (fun _ _ _ h1 => h1.fscaleBody)

theorem MemOk.execFsetp {f : Form} {s : State} (h : MemOk s) : ResultOk (execFsetp f s) := h.runOp (fun _ _ _ h1 => h1.fsetpBody)

theorem MemOk.execFclass {f : Form} {s : State} (h : MemOk s) : ResultOk (execFclass f s) := h.runOp (fun _ _ _ h1 => h1.fclassBody)

theorem MemOk.execFrnd {f : Form} {s : State} (h : MemOk s) : ResultOk (execFrnd f s) := h.runOp (fun _ _ _ h1 => h1.frndBody)

theorem MemOk.execFcvt {f : Form} {s : State} (h : MemOk s) : ResultOk (execFcvt f s) := h.runOp (fun _ _ _ h1 => h1.fcvtBody)

theorem MemOk.execF2i {f : Form} {s : State} (h : MemOk s) : ResultOk (execF2i f s) := h.runOp (fun _ _ _ h1 => h1.f2iBody)

theorem MemOk.execI2f {f : Form} {s : State} (h : MemOk s) : ResultOk (execI2f f s) := h.runOp (fun _ _ _ h1 => h1.i2fBody)

theorem MemOk.execFadd2 {f : Form} {s : State} (h : MemOk s) : ResultOk (execFadd2 f s) := h.runOp (fun _ _ _ h1 => h1.packedBody)

theorem MemOk.execFmul2 {f : Form} {s : State} (h : MemOk s) : ResultOk (execFmul2 f s) := h.runOp (fun _ _ _ h1 => h1.packedBody)

theorem MemOk.execFfma2 {f : Form} {s : State} (h : MemOk s) : ResultOk (execFfma2 f s) := h.runOp (fun _ _ _ h1 => h1.packedBody)

theorem MemOk.execFdot2 {f : Form} {s : State} (h : MemOk s) : ResultOk (execFdot2 f s) := h.runOp (fun _ _ _ h1 => h1.fdot2Body)

/-! ### What `Machine/LaneOps.lean` keeps -/

theorem MemOk.rdsrBody {v : View} {a : Args} {e : Mask} (h : MemOk v.s) : OutOk (rdsrBody v a e) := by
  dsimp only [Machine.rdsrBody]
  split
  · exact h.put
  · exact h

theorem MemOk.electBody {v : View} {a : Args} {e : Mask} (h : MemOk v.s) : OutOk (electBody v a e) := h.putPred

theorem MemOk.voteBody {v : View} {a : Args} {e : Mask} (h : MemOk v.s) : OutOk (voteBody v a e) := by
  dsimp only [Machine.voteBody]
  split
  · exact h.put
  · exact h.put
  · exact h.put
  · exact h.putPred
  · exact h.putPred
  · exact h.putPred

theorem MemOk.matchBody {v : View} {a : Args} {e : Mask} (h : MemOk v.s) : OutOk (matchBody v a e) := h.put

theorem MemOk.shflBody {v : View} {a : Args} {e : Mask} (h : MemOk v.s) : OutOk (shflBody v a e) := h.put

theorem MemOk.reduxBody {v : View} {a : Args} {e : Mask} (h : MemOk v.s) : OutOk (reduxBody v a e) := h.flag.put

theorem MemOk.scanBody {v : View} {a : Args} {e : Mask} (h : MemOk v.s) : OutOk (scanBody v a e) := h.flagBody

theorem MemOk.setfmtBody {v : View} {a : Args} {x2 : Mask} (h : MemOk v.s) : OutOk (setfmtBody v a x2) := h

theorem MemOk.getfmtBody {v : View} {a : Args} {e : Mask} (h : MemOk v.s) : OutOk (getfmtBody v a e) := h.put

theorem MemOk.execRdsr {f : Form} {s : State} (h : MemOk s) : ResultOk (execRdsr f s) := h.runOp (fun _ _ _ h1 => h1.rdsrBody)

theorem MemOk.execElect {f : Form} {s : State} (h : MemOk s) : ResultOk (execElect f s) := h.runOp (fun _ _ _ h1 => h1.electBody)

theorem MemOk.execVote {f : Form} {s : State} (h : MemOk s) : ResultOk (execVote f s) := h.runOp (fun _ _ _ h1 => h1.voteBody)

theorem MemOk.execMatchLanes {f : Form} {s : State} (h : MemOk s) : ResultOk (execMatchLanes f s) := h.runOp (fun _ _ _ h1 => h1.matchBody)

theorem MemOk.execShfl {f : Form} {s : State} (h : MemOk s) : ResultOk (execShfl f s) := h.runOp (fun _ _ _ h1 => h1.shflBody)

theorem MemOk.execRedux {f : Form} {s : State} (h : MemOk s) : ResultOk (execRedux f s) := h.runOp (fun _ _ _ h1 => h1.reduxBody)

theorem MemOk.execScan {f : Form} {s : State} (h : MemOk s) : ResultOk (execScan f s) := h.runOp (fun _ _ _ h1 => h1.scanBody)

theorem MemOk.execSetfmt {f : Form} {s : State} (h : MemOk s) : ResultOk (execSetfmt f s) := h.runOp (fun _ _ _ h1 => h1.setfmtBody)

theorem MemOk.execGetfmt {f : Form} {s : State} (h : MemOk s) : ResultOk (execGetfmt f s) := h.runOp (fun _ _ _ h1 => h1.getfmtBody)

/-! ### What `Machine/Logic.lean` keeps -/

theorem MemOk.bitBody {f : Nat → Args → Nat → Nat → Nat → Nat} {x1 : View} {x2 : Args} {x3 : Mask} (h : MemOk x1.s) : OutOk (bitBody f x1 x2 x3) :=
  h.valBody

theorem MemOk.execAnd {f : Form} {s : State} (h : MemOk s) : ResultOk (execAnd f s) := h.runOp (fun _ _ _ h1 => h1.bitBody)

theorem MemOk.execOr {f : Form} {s : State} (h : MemOk s) : ResultOk (execOr f s) := h.runOp (fun _ _ _ h1 => h1.bitBody)

theorem MemOk.execXor {f : Form} {s : State} (h : MemOk s) : ResultOk (execXor f s) := h.runOp (fun _ _ _ h1 => h1.bitBody)

theorem MemOk.execNot {f : Form} {s : State} (h : MemOk s) : ResultOk (execNot f s) := h.runOp (fun _ _ _ h1 => h1.bitBody)

theorem MemOk.execShl {f : Form} {s : State} (h : MemOk s) : ResultOk (execShl f s) := h.runOp (fun _ _ _ h1 => h1.bitBody)

theorem MemOk.execShr {f : Form} {s : State} (h : MemOk s) : ResultOk (execShr f s) := h.runOp (fun _ _ _ h1 => h1.bitBody)

theorem MemOk.execSar {f : Form} {s : State} (h : MemOk s) : ResultOk (execSar f s) := h.runOp (fun _ _ _ h1 => h1.valBody)

theorem MemOk.execRotl {f : Form} {s : State} (h : MemOk s) : ResultOk (execRotl f s) := h.runOp (fun _ _ _ h1 => h1.bitBody)

theorem MemOk.execPopc {f : Form} {s : State} (h : MemOk s) : ResultOk (execPopc f s) := h.runOp (fun _ _ _ h1 => h1.bitBody)

theorem MemOk.execClz {f : Form} {s : State} (h : MemOk s) : ResultOk (execClz f s) := h.runOp (fun _ _ _ h1 => h1.bitBody)

theorem MemOk.execBrev {f : Form} {s : State} (h : MemOk s) : ResultOk (execBrev f s) := h.runOp (fun _ _ _ h1 => h1.bitBody)

theorem MemOk.execBfx {f : Form} {s : State} (h : MemOk s) : ResultOk (execBfx f s) := h.runOp (fun _ _ _ h1 => h1.bitBody)

theorem MemOk.execBfi {f : Form} {s : State} (h : MemOk s) : ResultOk (execBfi f s) := h.runOp (fun _ _ _ h1 => h1.bitBody)

/-! ### What `Machine/Control.lean` keeps -/

theorem MemOk.diverge {v : View} {n : Mask} {rpc fall fallRegion : Nat} (h : MemOk v.s) : MemOk (v.diverge n rpc fall fallRegion).s := by
  dsimp only [View.diverge]
  split <;> exact h

theorem MemOk.onGang {v : View} {g : Gang} (h : MemOk v.s) : MemOk (v.onGang g).s := h

theorem MemOk.endHandler {s : State} {rid gang : Nat} (h : MemOk s) : MemOk (s.endHandler rid gang) := by
  dsimp only [State.endHandler]
  split
  · exact h.leaveHandler
  split
  · exact h.leaveHandler
  split
  · exact h.leaveHandler
  split
  · exact h.leaveHandler.updTeam.updTeam
  · exact h.leaveHandler.updTeam

theorem MemOk.afterSettle {v0 v : View} {r : Gang × Bool} (h : MemOk v0.s) (h1 : MemOk v.s) : OutOk (v0.afterSettle v r) := by
  dsimp only [View.afterSettle]
  split
  · exact h1.onGang
  split
  · split
    · exact h
    · exact h1.onGang.complete.close.endHandler
  · exact h1.onGang.complete.onTeam.close

theorem MemOk.goto {v : View} {pc : Nat} (h : MemOk v.s) : MemOk (v.goto pc).s := h

theorem MemOk.braBody {f : Form} {v : View} {a : Args} {e : Mask} (h : MemOk v.s) : OutOk (braBody f v a e) := by
  dsimp only [Machine.braBody]
  split
  · exact h.goto
  split
  · trivial
  · exact h.diverge.goto

theorem MemOk.brxBody {f : Form} {v : View} {a : Args} {e : Mask} (h : MemOk v.s) : OutOk (brxBody f v a e) := by
  dsimp only [Machine.brxBody]
  split <;> exact h.foldlView (fun _ _ h1 => h1.diverge)

theorem MemOk.callBody {f : Form} {target : View → Args → Nat} {v : View} {a : Args} {x4 : Mask} (h : MemOk v.s) : OutOk (callBody f target v a x4) :=
  MemOk.goto h

theorem MemOk.retBody {v : View} {x1 : Args} {x2 : Mask} (h : MemOk v.s) : OutOk (retBody v x1 x2) := by
  dsimp only [Machine.retBody]
  split <;> exact h

theorem MemOk.joinBody {f : Form} {v : View} {x2 : Args} {x3 : Mask} (h : MemOk v.s) : OutOk (joinBody f v x2 x3) := by
  dsimp only [Machine.joinBody]
  split
  · trivial
  · exact h.afterSettle h

/-- Said of the effect by a name of its own, which keeps `Gang.settle`'s fuel from being unfolded with the statement. -/
theorem MemOk.exitBody {f : Form} {v : View} {a : Args} {e : Mask} {o : Out} (h : MemOk v.s) (ho : Machine.exitBody f v a e = o) : OutOk o := by
  rw [← ho]
  unfold Machine.exitBody
  dsimp only
  generalize Gang.settle 1100 _ _ _ _ = r
  exact MemOk.afterSettle h h.onGang.onTeam

theorem MemOk.execBra {f : Form} {s : State} (h : MemOk s) : ResultOk (execBra f s) := h.runOp (fun _ _ _ h1 => h1.braBody)

theorem MemOk.execBrx {f : Form} {s : State} (h : MemOk s) : ResultOk (execBrx f s) := h.runOp (fun _ _ _ h1 => h1.brxBody)

theorem MemOk.execCall {f : Form} {s : State} (h : MemOk s) : ResultOk (execCall f s) := h.runOp (fun _ _ _ h1 => h1.callBody)

theorem MemOk.execCallx {f : Form} {s : State} (h : MemOk s) : ResultOk (execCallx f s) := h.runOp (fun _ _ _ h1 => h1.callBody)

theorem MemOk.execRet {f : Form} {s : State} (h : MemOk s) : ResultOk (execRet f s) := h.runOp (fun _ _ _ h1 => h1.retBody)

theorem MemOk.execJoin {f : Form} {s : State} (h : MemOk s) : ResultOk (execJoin f s) := h.runOp (fun _ _ _ h1 => h1.joinBody)

theorem MemOk.execExit {f : Form} {s : State} (h : MemOk s) : ResultOk (execExit f s) := by
  unfold Machine.execExit
  refine MemOk.runOp h ?_
  intro v a e h1
  generalize ho : Machine.exitBody f v a e = o
  exact h1.exitBody ho

/-! ### What `Machine/Memory.lean` keeps -/

theorem MemOk.readDm {s : State} {c : CoreId} {asid pol : Nat} {home : Bool} {va n : Nat} (h : MemOk s) :
    MemOk (s.readDm c asid pol home va n).2 := by
  dsimp only [State.readDm]
  split
  · exact h.homeRead
  split
  · exact h.homeRead.fillLine.setCore
  · exact h.nearRead

theorem MemOk.writeDm {s : State} {c : CoreId} {asid pol : Nat} {home : Bool} {va : Nat} {bs : List Byte} (h : MemOk s) :
    MemOk (s.writeDm c asid pol home va bs) := by
  dsimp only [State.writeDm]
  split
  · exact h.homeWrite
  · exact h.nearWrite

theorem MemOk.nearStore {v : View} {spc x : Nat} {bs : List Byte} (h : MemOk v.s) : MemOk (v.nearStore spc x bs).s := by
  dsimp only [View.nearStore]
  split
  · exact h
  · split <;> exact h

theorem MemOk.bringSpill {s : State} {c : CoreId} {tag vline : Nat} (h : MemOk s) : MemOk (s.bringSpill c tag vline) := h.makeRoom.setCore

theorem MemOk.touchSpill {v : View} {x : Nat} (h : MemOk v.s) : MemOk (v.touchSpill x).s := by
  dsimp only [View.touchSpill]
  split
  · exact h
  · exact h.onState (fun _ h1 => h1.bringSpill)

theorem MemOk.storeView {v : View} {spc pol : Nat} {home : Bool} {x : Nat} {bs : List Byte} (h : MemOk v.s) :
    MemOk (v.store spc pol home x bs).s := by
  dsimp only [View.store]
  split
  · exact h.onState (fun _ h1 => h1.writeDm)
  split
  · exact h.touchSpill.nearStore
  · exact h.nearStore

theorem MemOk.acquire {v : View} {wide : Bool} (h : MemOk v.s) : MemOk (v.acquire wide).s := by
  dsimp only [View.acquire]
  split
  · exact h.onState (fun _ h1 => h1.invalidateAsid)
  · exact h

theorem MemOk.release {v : View} {wide : Bool} (h : MemOk v.s) : MemOk (v.release wide).s := by
  dsimp only [View.release]
  split
  · exact h.onState (fun _ h1 => h1.writeBackAsid)
  · exact h

theorem MemOk.loadAll {v : View} {a : Args} {lanes : List Nat} {n : Nat} {home : Bool} (h : MemOk v.s) : MemOk (v.loadAll a lanes n home).1.s := by
  refine MemOk.foldlViewFst h (fun r l h1 => ?_)
  dsimp only
  split
  · exact h1.onState (fun _ _ => h1.close.readDm)
  · exact h1

theorem MemOk.record {v : View} {a : Args} {lanes : List Nat} {n : Nat} (h : MemOk v.s) : MemOk (v.record a lanes n).s := by
  dsimp only [View.record]
  split <;> exact h

theorem MemOk.takeMiss {s : State} {c : CoreId} {lat : Nat} (h : MemOk s) : MemOk (s.takeMiss c lat).2 := by
  dsimp only [State.takeMiss]
  split <;> exact h.setCore

theorem MemOk.loadTime {v : View} {a : Args} {home : Bool} {x : Nat} (h : MemOk v.s) : MemOk (v.loadTime a home x).2.s := by
  dsimp only [View.loadTime]
  split
  · split
    · exact h
    · exact h.touchSpill.takeMiss
  · split
    · split
      · exact h
      split
      · exact h
      · exact h.takeMiss
    · exact h
  · exact h

theorem MemOk.loadTimes {v : View} {a : Args} {home : Bool} {lanes : List Nat} (h : MemOk v.s) : MemOk (v.loadTimes a home lanes).2.s :=
  h.foldlViewSnd (fun _ _ h1 => h1.loadTime)

theorem MemOk.holdUntil {v : View} {time : Nat} (h : MemOk v.s) : MemOk (v.holdUntil time).s := by
  dsimp only [View.holdUntil]
  split
  · exact h
  · split <;> exact h

theorem MemOk.loadBody {once : Bool} {v : View} {a : Args} {e : Mask} (h : MemOk v.s) : OutOk (loadBody once v a e) := by
  dsimp only [Machine.loadBody]
  split
  · exact h
  split
  · trivial
  refine MemOk.holdUntil ?_
  refine MemOk.put ?_
  split
  · exact h.loadTimes.acquire.loadAll.record
  · exact h.loadTimes.acquire.loadAll

theorem MemOk.perform {v : View} {e : Gated} {pos : Nat} (h : MemOk v.s) : MemOk (v.perform e pos).s := h.foldlView (fun _ _ h1 => h1.storeView)

theorem MemOk.flush {v : View} (h : MemOk v.s) : MemOk v.flush.s := h.foldlView (fun _ _ h1 => h1.foldlView (fun _ _ h2 => h2.perform))

theorem MemOk.storeBody {v : View} {a : Args} {e : Mask} (h : MemOk v.s) : OutOk (storeBody v a e) := by
  dsimp only [Machine.storeBody]
  split
  · trivial
  split
  · split
    · trivial
    · split <;> exact h
  split
  · exact h
  · exact MemOk.holdUntil (h.release.foldlView (fun _ _ h1 => h1.storeView))

theorem MemOk.toFaceUnits {v : View} {o : Op} {a : Args} {lanes : List Nat} {addr : Nat → Nat} (h : MemOk v.s) :
    MemOk (v.toFaceUnits o a lanes addr).s :=
  MemOk.of_mem_eq rfl h.flag.release

theorem MemOk.atBank {v : View} {o : Op} {a : Args} {lanes : List Nat} (h : MemOk v.s) : MemOk (v.atBank o a lanes).1.s := by
  refine MemOk.foldlViewFst h (fun r l h1 => ?_)
  dsimp only
  split
  · exact h1.flag.nearStore
  · exact h1.flag

theorem MemOk.atomBody {o : Op} {v : View} {a : Args} {e : Mask} (h : MemOk v.s) : OutOk (atomBody o v a e) := by
  dsimp only [Machine.atomBody]
  split
  · exact h
  split
  · trivial
  split
  · exact h.toFaceUnits
  · exact h.release.atBank.acquire.put

theorem MemOk.fgathBody {v : View} {a : Args} {e : Mask} (h : MemOk v.s) : OutOk (fgathBody v a e) := by
  dsimp only [Machine.fgathBody]
  split
  · exact h
  split
  · trivial
  · exact h.toFaceUnits

theorem MemOk.fenceBody {v : View} {a : Args} {x2 : Mask} (h : MemOk v.s) : OutOk (fenceBody v a x2) := by
  dsimp only [Machine.fenceBody]
  refine MemOk.acquire ?_
  refine MemOk.release ?_
  split <;> exact h

theorem MemOk.prefetch {s : State} {c : CoreId} {asid owner pol va : Nat} (h : MemOk s) : MemOk (s.prefetch c asid owner pol va) := by
  dsimp only [State.prefetch]
  split
  · exact h
  split
  · exact h
  split
  · split
    · exact h
    · exact h.fillLine.takeMiss.setCore
  · exact h

theorem MemOk.prefBody {v : View} {a : Args} {e : Mask} (h : MemOk v.s) : OutOk (prefBody v a e) := by
  dsimp only [Machine.prefBody]
  refine MemOk.onState h ?_
  intro _ h1
  refine MemOk.foldl h1 ?_
  intro _ _ h2
  split
  · exact h2.prefetch
  · exact h2

theorem MemOk.codeloadBody {v : View} {a : Args} {x2 : Mask} (h : MemOk v.s) : OutOk (codeloadBody v a x2) := by
  dsimp only [Machine.codeloadBody]
  split
  · exact h
  split
  · trivial
  split
  · trivial
  · exact h.onState (fun _ h1 => h1.dropRange)

theorem MemOk.execLd {f : Form} {s : State} (h : MemOk s) : ResultOk (execLd f s) := h.runOp (fun _ _ _ h1 => h1.loadBody)

theorem MemOk.execSt {f : Form} {s : State} (h : MemOk s) : ResultOk (execSt f s) := h.runOp (fun _ _ _ h1 => h1.storeBody)

theorem MemOk.execLdu {f : Form} {s : State} (h : MemOk s) : ResultOk (execLdu f s) := h.runOp (fun _ _ _ h1 => h1.loadBody)

theorem MemOk.execAtom {f : Form} {s : State} (h : MemOk s) : ResultOk (execAtom f s) := h.runOp (fun _ _ _ h1 => h1.atomBody)

theorem MemOk.execCas {f : Form} {s : State} (h : MemOk s) : ResultOk (execCas f s) := h.runOp (fun _ _ _ h1 => h1.atomBody)

theorem MemOk.execAqadd {f : Form} {s : State} (h : MemOk s) : ResultOk (execAqadd f s) := h.runOp (fun _ _ _ h1 => h1.atomBody)

theorem MemOk.execFence {f : Form} {s : State} (h : MemOk s) : ResultOk (execFence f s) := h.runOp (fun _ _ _ h1 => h1.fenceBody)

theorem MemOk.execPref {f : Form} {s : State} (h : MemOk s) : ResultOk (execPref f s) := h.runOp (fun _ _ _ h1 => h1.prefBody)

theorem MemOk.execFgath {f : Form} {s : State} (h : MemOk s) : ResultOk (execFgath f s) := h.runOp (fun _ _ _ h1 => h1.fgathBody)

theorem MemOk.execCodeload {f : Form} {s : State} (h : MemOk s) : ResultOk (execCodeload f s) := h.runOp (fun _ _ _ h1 => h1.codeloadBody)

/-! ### What `Machine/Waits.lean` keeps -/

theorem MemOk.yieldBody {v : View} {x1 : Args} {x2 : Mask} (h : MemOk v.s) : OutOk (yieldBody v x1 x2) := h

theorem MemOk.nsleepBody {v : View} {a : Args} {x2 : Mask} (h : MemOk v.s) : OutOk (nsleepBody v a x2) := h

theorem MemOk.watched {v : View} {spc x n : Nat} (h : MemOk v.s) : MemOk (v.watched spc x n).2.s := by
  dsimp only [View.watched]
  split
  · exact h.onState (fun _ _ => h.close.homeRead)
  · exact h

theorem MemOk.waitaBody {v : View} {a : Args} {e : Mask} (h : MemOk v.s) : OutOk (waitaBody v a e) := by
  dsimp only [Machine.waitaBody]
  split
  · exact h
  split
  · trivial
  split
  · exact MemOk.holdUntil (MemOk.put h.watched.acquire)
  · exact h.watched

theorem MemOk.arriveBody {f : Form} {waits : Bool} {v : View} {a : Args} {e : Mask} (h : MemOk v.s) : OutOk (arriveBody f waits v a e) := by
  dsimp only [Machine.arriveBody]
  refine MemOk.close ?_
  refine MemOk.onTeam ?_
  split <;> exact h.complete.advance

theorem MemOk.barwtBody {v : View} {a : Args} {x2 : Mask} (h : MemOk v.s) : OutOk (barwtBody v a x2) := by
  dsimp only [Machine.barwtBody]
  split <;> exact h

theorem MemOk.execYield {f : Form} {s : State} (h : MemOk s) : ResultOk (execYield f s) := h.runOp (fun _ _ _ h1 => h1.yieldBody)

theorem MemOk.execNsleep {f : Form} {s : State} (h : MemOk s) : ResultOk (execNsleep f s) := h.runOp (fun _ _ _ h1 => h1.nsleepBody)

theorem MemOk.execWaita {f : Form} {s : State} (h : MemOk s) : ResultOk (execWaita f s) := h.runOp (fun _ _ _ h1 => h1.waitaBody)

theorem MemOk.execBar {f : Form} {s : State} (h : MemOk s) : ResultOk (execBar f s) := h.runOp (fun _ _ _ h1 => h1.arriveBody)

theorem MemOk.execBarar {f : Form} {s : State} (h : MemOk s) : ResultOk (execBarar f s) := h.runOp (fun _ _ _ h1 => h1.arriveBody)

theorem MemOk.execBarwt {f : Form} {s : State} (h : MemOk s) : ResultOk (execBarwt f s) := h.runOp (fun _ _ _ h1 => h1.barwtBody)

/-! ### What `Machine/Matrix.lean` keeps -/

theorem MemOk.setTile {v : View} {k : Nat} {x : Tile} (h : MemOk v.s) : MemOk (v.setTile k x).s := h

theorem MemOk.setTol {v : View} {k : Nat} {x : BitVec 32} (h : MemOk v.s) : MemOk (v.setTol k x).s := h.setTile

theorem MemOk.mmaBody {ra : Bool} {v : View} {a : Args} {e : Mask} (h : MemOk v.s) : OutOk (mmaBody ra v a e) := by
  unfold Machine.mmaBody
  extract_lets +onlyGivenNames k t f db
  split
  · exact h
  split
  · trivial
  extract_lets +onlyGivenNames core steps r
  split
  · trivial
  · trivial
  extract_lets +onlyGivenNames v0 v1
  have h0 : MemOk v0.s := by
    unfold v0
    split
    · exact h
    · exact h.setCore
  have h1 : MemOk v1.s := h0.flag.setTile
  clear_value v1
  split <;> exact h1

theorem MemOk.acczBody {v : View} {a : Args} {x2 : Mask} (h : MemOk v.s) : OutOk (acczBody v a x2) := h.setTile

theorem MemOk.readBlock {v : View} {a : Args} {x n : Nat} (h : MemOk v.s) : MemOk (v.readBlock a x n).2.s := by
  dsimp only [View.readBlock]
  split
  · exact h.foldlViewSnd (fun _ _ h1 => h1.onState (fun _ _ => h1.close.readDm))
  · exact h

theorem MemOk.blockTime {v : View} {a : Args} {x n : Nat} (h : MemOk v.s) : MemOk (v.blockTime a x n).2.s :=
  h.foldlViewSnd (fun _ _ h1 => h1.loadTime)

theorem MemOk.accldBody {v : View} {a : Args} {e : Mask} (h : MemOk v.s) : OutOk (accldBody v a e) := by
  dsimp only [Machine.accldBody]
  split
  · exact h
  split
  · trivial
  · exact h.blockTime.acquire.readBlock.flag.setTile.holdUntil

theorem MemOk.logTile {v : View} {k : Nat} (h : MemOk v.s) : MemOk (v.logTile k).s := h

theorem MemOk.accstBody {v : View} {a : Args} {e : Mask} (h : MemOk v.s) : OutOk (accstBody v a e) := by
  dsimp only [Machine.accstBody]
  split
  · exact h.logTile
  split
  · trivial
  split
  · trivial
  split
  · trivial
  refine MemOk.holdUntil ?_
  refine MemOk.foldlView ?_ (fun _ _ h1 => h1.storeView)
  split
  · exact h.logTile.flag.release.setTile
  · exact h.logTile.flag.release

theorem OutOk.readTile {o : Operand} {k : Nat} {t : Tile} {go : Out} (h : OutOk go) : OutOk (readTile o k t go) := by
  unfold Machine.readTile
  split
  · trivial
  split
  · trivial
  exact h

theorem MemOk.accmaxBody {v : View} {a : Args} {e : Mask} (h : MemOk v.s) : OutOk (accmaxBody v a e) := OutOk.readTile h.logTile.put

theorem MemOk.accancBody {v : View} {a : Args} {e : Mask} (h : MemOk v.s) : OutOk (accancBody v a e) := OutOk.readTile h.flag.setTile

theorem MemOk.triBody {v : View} {a : Args} {e : Mask} (h : MemOk v.s) : OutOk (triBody v a e) := h.nearStore

theorem MemOk.xcutBody {v : View} {a : Args} {e : Mask} (h : MemOk v.s) : OutOk (xcutBody v a e) := h.foldlView (fun _ _ h1 => h1.putLanes)

theorem MemOk.asstStBody {v : View} {a : Args} {e : Mask} (h : MemOk v.s) : OutOk (asstStBody v a e) := by
  dsimp only [Machine.asstStBody]
  split
  · trivial
  · exact h.logTile.put

theorem MemOk.asstTolBody {v : View} {a : Args} {x2 : Mask} (h : MemOk v.s) : OutOk (asstTolBody v a x2) := h.setTol

theorem MemOk.asstClrBody {v : View} {a : Args} {x2 : Mask} (h : MemOk v.s) : OutOk (asstClrBody v a x2) := h.setTile

theorem MemOk.execMma {f : Form} {s : State} (h : MemOk s) : ResultOk (execMma f s) := h.runOp (fun _ _ _ h1 => h1.mmaBody)

theorem MemOk.execMmaRa {f : Form} {s : State} (h : MemOk s) : ResultOk (execMmaRa f s) := h.runOp (fun _ _ _ h1 => h1.mmaBody)

theorem MemOk.execAccz {f : Form} {s : State} (h : MemOk s) : ResultOk (execAccz f s) := h.runOp (fun _ _ _ h1 => h1.acczBody)

theorem MemOk.execAccld {f : Form} {s : State} (h : MemOk s) : ResultOk (execAccld f s) := h.runOp (fun _ _ _ h1 => h1.accldBody)

theorem MemOk.execAccst {f : Form} {s : State} (h : MemOk s) : ResultOk (execAccst f s) := h.runOp (fun _ _ _ h1 => h1.accstBody)

theorem MemOk.execAccmax {f : Form} {s : State} (h : MemOk s) : ResultOk (execAccmax f s) := h.runOp (fun _ _ _ h1 => h1.accmaxBody)

theorem MemOk.execAccanc {f : Form} {s : State} (h : MemOk s) : ResultOk (execAccanc f s) := h.runOp (fun _ _ _ h1 => h1.accancBody)

theorem MemOk.execTri {f : Form} {s : State} (h : MemOk s) : ResultOk (execTri f s) := h.runOp (fun _ _ _ h1 => h1.triBody)

theorem MemOk.execXcut {f : Form} {s : State} (h : MemOk s) : ResultOk (execXcut f s) := h.runOp (fun _ _ _ h1 => h1.xcutBody)

theorem MemOk.execAsstSt {f : Form} {s : State} (h : MemOk s) : ResultOk (execAsstSt f s) := h.runOp (fun _ _ _ h1 => h1.asstStBody)

theorem MemOk.execAsstTol {f : Form} {s : State} (h : MemOk s) : ResultOk (execAsstTol f s) := h.runOp (fun _ _ _ h1 => h1.asstTolBody)

theorem MemOk.execAsstClr {f : Form} {s : State} (h : MemOk s) : ResultOk (execAsstClr f s) := h.runOp (fun _ _ _ h1 => h1.asstClrBody)

/-! ### What `Machine/Haul.lean` keeps -/

theorem MemOk.scratchWrite {s : State} {rid : Nat} {w : HeldWrite} (h : MemOk s) : MemOk (s.scratchWrite rid w) := h.updTeam

theorem MemOk.sideWrite {s : State} {part : Option (Nat × Nat)} {x : Side} {off : Nat} {bs : List Byte} {bad : List Nat} (h : MemOk s) :
    MemOk (s.sideWrite part x off bs bad) := by
  dsimp only [State.sideWrite]
  split
  · split
    · exact h.putVa
    · exact MemOk.of_mem_eq rfl h.putVa
  split
  · exact h.scratchWrite
  · exact h

theorem MemOk.sideNibble {s : State} {part : Option (Nat × Nat)} {x : Side} {off nib code : Nat} {bad : Bool} (h : MemOk s) :
    MemOk (s.sideNibble part x off nib code bad) := by
  dsimp only [State.sideNibble]
  split
  · exact h.sideWrite
  split
  · exact h.scratchWrite
  · exact h

theorem MemOk.logJob {s : State} {j : Job} {cause unit addr chunk : Nat} (h : MemOk s) : MemOk (s.logJob j cause unit addr chunk) := by
  dsimp only [State.logJob]
  split
  · exact h
  · exact h.log

theorem MemOk.updJob {s : State} {id : Nat} {f : Job → Job} (h : MemOk s) : MemOk (s.updJob id f) := h

theorem MemOk.completeJob {s : State} {j : Job} (h : MemOk s) : MemOk (s.completeJob j) := by
  unfold State.completeJob
  extract_lets +onlyGivenNames value r
  have hr : OptOk r := by
    unfold r
    split
    · exact h
    split
    · trivial
    · exact h.logJob
    split
    · trivial
    · exact h.sideWrite
  clear_value r
  split
  · exact h
  next s1 => exact MemOk.updTeam (s := { s1 with jobs := _ }) hr

theorem MemOk.issueJob {v : View} {f : Form} {kind : JobKind} {src dst : Side} {n tok scope : Nat} {notify : Option (Side × Word)}
    {lost : Bool} {taintAll : Bool} {taint : List Nat} (h : MemOk v.s) :
    OutOk (v.issueJob f kind src dst n tok scope notify lost taintAll taint) := by
  dsimp only [View.issueJob]
  split
  · exact h
  split
  · exact MemOk.onState h (fun _ h1 => h1.completeJob)
  · exact h

theorem MemOk.hcopyBody {f : Form} {kind : JobKind} {v : View} {a : Args} {x4 : Mask} (h : MemOk v.s) : OutOk (hcopyBody f kind v a x4) := h.issueJob

theorem MemOk.hfillBody {f : Form} {v : View} {a : Args} {x3 : Mask} (h : MemOk v.s) : OutOk (hfillBody f v a x3) := h.issueJob

theorem MemOk.bringPage {s : State} {asid va : Nat} (h : MemOk s) : MemOk (s.bringPage asid va) := h

theorem MemOk.hmcastBody {f : Form} {v : View} {a : Args} {x3 : Mask} (h : MemOk v.s) : OutOk (hmcastBody f v a x3) := by
  dsimp only [Machine.hmcastBody]
  split
  · exact h
  · exact h.issueJob

theorem MemOk.htensBody {f : Form} {store : Bool} {v : View} {a : Args} {x4 : Mask} (h : MemOk v.s) : OutOk (htensBody f store v a x4) := by
  dsimp only [Machine.htensBody]
  split
  · exact h
  · exact h.issueJob

theorem MemOk.rowsBody {f : Form} {store : Bool} {v : View} {a : Args} {x4 : Mask} (h : MemOk v.s) : OutOk (rowsBody f store v a x4) := by
  dsimp only [Machine.rowsBody]
  split
  · exact h
  · exact h.issueJob

theorem MemOk.hwaitBody {v : View} {a : Args} {x2 : Mask} (h : MemOk v.s) : OutOk (hwaitBody v a x2) := by
  dsimp only [Machine.hwaitBody]
  split
  · exact h.acquire
  · exact h

theorem MemOk.htestBody {v : View} {a : Args} {x2 : Mask} (h : MemOk v.s) : OutOk (htestBody v a x2) := h.acquire.putUni

theorem MemOk.ckpackBody {f : Form} {unpk : Bool} {v : View} {a : Args} {x4 : Mask} (h : MemOk v.s) : OutOk (ckpackBody f unpk v a x4) := by
  dsimp only [Machine.ckpackBody]
  split <;> exact h.issueJob

theorem MemOk.ckverBody {v : View} {a : Args} {x2 : Mask} (h : MemOk v.s) : OutOk (ckverBody v a x2) := by
  dsimp only [Machine.ckverBody]
  split
  · exact h
  · split <;> exact h

theorem MemOk.ckinfoBody {v : View} {a : Args} {x2 : Mask} (h : MemOk v.s) : OutOk (ckinfoBody v a x2) := by
  dsimp only [Machine.ckinfoBody]
  split
  · exact h
  split
  · trivial
  · exact MemOk.holdUntil (MemOk.putUni (h.onState (fun _ h1 => h.close.homeRead)))

theorem MemOk.execHcopy {f : Form} {s : State} (h : MemOk s) : ResultOk (execHcopy f s) := h.runOp (fun _ _ _ h1 => h1.hcopyBody)

theorem MemOk.execHcopyCk {f : Form} {s : State} (h : MemOk s) : ResultOk (execHcopyCk f s) := h.runOp (fun _ _ _ h1 => h1.hcopyBody)

theorem MemOk.execHtens {f : Form} {s : State} (h : MemOk s) : ResultOk (execHtens f s) := h.runOp (fun _ _ _ h1 => h1.htensBody)

theorem MemOk.execHtensSt {f : Form} {s : State} (h : MemOk s) : ResultOk (execHtensSt f s) := h.runOp (fun _ _ _ h1 => h1.htensBody)

theorem MemOk.execHgath {f : Form} {s : State} (h : MemOk s) : ResultOk (execHgath f s) := h.runOp (fun _ _ _ h1 => h1.rowsBody)

theorem MemOk.execHscat {f : Form} {s : State} (h : MemOk s) : ResultOk (execHscat f s) := h.runOp (fun _ _ _ h1 => h1.rowsBody)

theorem MemOk.execHred {f : Form} {s : State} (h : MemOk s) : ResultOk (execHred f s) := h.runOp (fun _ _ _ h1 => h1.hcopyBody)

theorem MemOk.execHmcast {f : Form} {s : State} (h : MemOk s) : ResultOk (execHmcast f s) := h.runOp (fun _ _ _ h1 => h1.hmcastBody)

theorem MemOk.execHfill {f : Form} {s : State} (h : MemOk s) : ResultOk (execHfill f s) := h.runOp (fun _ _ _ h1 => h1.hfillBody)

theorem MemOk.execHwait {f : Form} {s : State} (h : MemOk s) : ResultOk (execHwait f s) := h.runOp (fun _ _ _ h1 => h1.hwaitBody)

theorem MemOk.execHtest {f : Form} {s : State} (h : MemOk s) : ResultOk (execHtest f s) := h.runOp (fun _ _ _ h1 => h1.htestBody)

theorem MemOk.execCkpack {f : Form} {s : State} (h : MemOk s) : ResultOk (execCkpack f s) := h.runOp (fun _ _ _ h1 => h1.ckpackBody)

theorem MemOk.execCkpackUnpk {f : Form} {s : State} (h : MemOk s) : ResultOk (execCkpackUnpk f s) := h.runOp (fun _ _ _ h1 => h1.ckpackBody)

theorem MemOk.execCkver {f : Form} {s : State} (h : MemOk s) : ResultOk (execCkver f s) := h.runOp (fun _ _ _ h1 => h1.ckverBody)

theorem MemOk.execCkinfo {f : Form} {s : State} (h : MemOk s) : ResultOk (execCkinfo f s) := h.runOp (fun _ _ _ h1 => h1.ckinfoBody)

/-! ### What `Machine/Chunk.lean` keeps -/

theorem MemOk.chunkDone {s : State} {j : Job} (h : MemOk s) : MemOk (s.chunkDone j) := h.updJob

theorem MemOk.chunkEnd {s : State} {j : Job} {c : Nat} (h : MemOk s) : MemOk (s.chunkEnd j c) := by
  dsimp only [State.chunkEnd]
  split
  · exact h
  · exact h.chunkDone

theorem MemOk.degrade {s : State} {j : Job} {cause unit addr chunk : Nat} (h : MemOk s) : MemOk (s.degrade j cause unit addr chunk) := h.logJob.updJob

theorem MemOk.degradeOnce {s : State} {j : Job} {t : Transit} {cause unit addr : Nat} (h : MemOk s) : MemOk (s.degradeOnce j t cause unit addr) := by
  dsimp only [State.degradeOnce]
  split
  · exact h.updJob
  · exact h.degrade

theorem MemOk.setMis {s : State} {part : Option (Nat × Nat)} {x : Side} (h : MemOk s) : MemOk (s.setMis part x) := by
  dsimp only [State.setMis]
  split
  · exact h.sideWrite
  split
  · exact h.scratchWrite
  · exact h

theorem MemOk.refuse {s : State} {j : Job} {cause stage unit suspect chunk : Nat} {dst : Side} {tid idx trail : Nat} (h : MemOk s) :
    MemOk (s.refuse j cause stage unit suspect chunk dst tid idx trail) := by
  dsimp only [State.refuse]
  refine MemOk.chunkEnd ?_
  refine MemOk.updJob ?_
  split
  · split
    all_goals
      split
      · exact h.setMis
      · exact h
  refine MemOk.log ?_
  split
  all_goals
    split
    · exact h.setMis
    · exact h

theorem MemOk.dropTransit {s : State} {id : Nat} (h : MemOk s) : MemOk (s.dropTransit id) := h

theorem MemOk.refuseTransit {s : State} {j : Job} {t : Transit} {cause unit : Nat} (h : MemOk s) : MemOk (s.refuseTransit j t cause unit) := by
  dsimp only [State.refuseTransit]
  split
  · exact h.dropTransit.degradeOnce.chunkDone
  · exact h.dropTransit.refuse

theorem MemOk.landTransit {s : State} {j : Job} {t : Transit} (h : MemOk s) : MemOk (s.landTransit j t) := by
  dsimp only [State.landTransit]
  split
  · exact h
  · exact h.dropTransit.degradeOnce.chunkDone
  split
  · exact h.refuseTransit
  split
  all_goals
    split
    all_goals
      split
      · exact MemOk.of_mem_eq rfl h.sideWrite
      · exact h.sideWrite.dropTransit.chunkEnd

theorem MemOk.setInjector {s : State} {i : PeerInj} (h : MemOk s) : MemOk (s.setInjector i) := by
  dsimp only [State.setInjector]
  split <;> exact h

theorem MemOk.injArrive {s : State} {pkg : Nat} {t : Transit} {l : Nat} (h : MemOk s) : MemOk (s.injArrive pkg t l).1 := by
  dsimp only [State.injArrive]
  split
  · split
    · exact h.setInjector
    · exact h
  · exact h

theorem MemOk.injFire {s : State} {pkg : Nat} {t : Transit} (h : MemOk s) : MemOk (s.injFire pkg t).1 := by
  dsimp only [State.injFire]
  split
  · exact h.setInjector
  · exact h

theorem MemOk.chunkHop {s : State} {j : Job} {t : Transit} {hh : Hop} {rest : List Hop} (h : MemOk s) : MemOk (s.chunkHop j t hh rest) := by
  dsimp only [State.chunkHop]
  split
  · refine MemOk.refuseTransit ?_
    split
    · exact h.injArrive
    · exact h
  refine MemOk.of_mem_eq rfl ?_
  split
  · refine MemOk.injFire ?_
    split
    · exact h.injArrive
    · exact h
  split
  · exact h.injArrive
  · exact h

theorem MemOk.reduce {s : State} {j : Job} {t : Transit} (h : MemOk s) : MemOk (s.reduce j t) := by
  dsimp only [State.reduce]
  split
  · exact h
  · exact h.dropTransit.degradeOnce.chunkDone
  split
  · exact h.refuseTransit
  · exact h.dropTransit.chunkDone
  split
  · exact h.dropTransit.degradeOnce.chunkDone
  split
  · exact h.dropTransit.refuse
  split
  · exact h.dropTransit.refuse
  split
  · exact h.dropTransit.degradeOnce.chunkDone
  split
  · exact h.dropTransit.degradeOnce.chunkDone
  split
  · exact h.dropTransit.degradeOnce.chunkDone
  split
  · exact h.dropTransit.refuse
  · exact h.dropTransit.sideWrite.chunkDone

theorem MemOk.writeElem {s : State} {part : Option (Nat × Nat)} {x : Side} {off nib bits code : Nat} {bad : Bool} (h : MemOk s) :
    MemOk (s.writeElem part x off nib bits code bad) := by
  dsimp only [State.writeElem]
  split
  · exact h.sideNibble
  · exact h.sideWrite

theorem MemOk.writeScales {s : State} {part : Option (Nat × Nat)} {df : Nat} {l : List (Nat × (Side × Nat) × Nat × Bool)} (h : MemOk s) :
    MemOk (s.writeScales part df l) := by
  dsimp only [State.writeScales]
  split
  · exact h
  refine MemOk.foldlFst h ?_
  intro _ _ h1
  split
  · exact h1
  · exact h1.sideWrite

theorem MemOk.tensMove {s : State} {j : Job} {m : TMap} {store : Bool} {rows : Option (List Nat)} {es : List TensElem} (h : MemOk s) :
    MemOk (s.tensMove j m store rows es).1 :=
  (h.foldl (fun _ _ h1 => h1.writeElem)).writeScales

theorem MemOk.startChunk {s : State} {j : Job} {die agent : Nat} (h : MemOk s) : MemOk (s.startChunk j die agent) := h

theorem MemOk.sendChunk {s : State} {j : Job} {t : Transit} {got : Nat} (h : MemOk s) : MemOk (s.sendChunk j t got) := by
  unfold State.sendChunk
  extract_lets +onlyGivenNames q id s0
  have h0 : MemOk s0 := h.dropTransit
  clear_value s0
  split
  · exact h
  · exact h0.degrade.chunkDone
  extract_lets +onlyGivenNames raw tainted bad
  split
  · exact h0.refuse
  · exact h0.degrade.chunkDone
  extract_lets +onlyGivenNames s1
  have h1 : MemOk s1 := by
    unfold s1
    split
    · exact h0
    · exact h0.degrade
  clear_value s1
  split
  · exact h1.chunkDone
  · exact h1

theorem MemOk.sendAway {s : State} {j : Job} {die agent : Nat} {payload : List Byte} {path : List Hop} (h : MemOk s) :
    MemOk (s.sendAway j die agent payload path) :=
  h

theorem MemOk.doChunk {s : State} {j : Job} {die agent : Nat} (h : MemOk s) : MemOk (s.doChunk j die agent) := by
  dsimp only [State.doChunk]
  split
  · exact h.sendAway
  · exact h.sendAway
  · exact h.sendAway
  · exact h.startChunk

theorem MemOk.landTens {s : State} {j : Job} {t : Transit} {map : List Word} {store : Bool} {origin : List Int}
    {rows : Option (List Nat)} (h : MemOk s) :
    MemOk (s.landTens j t map store origin rows) := by
  dsimp only [State.landTens]
  split
  · exact h
  · exact h.dropTransit.degradeOnce.chunkDone
  split
  all_goals
    split
    · refine MemOk.of_mem_eq rfl ?_
      split
      · exact h.tensMove.degradeOnce
      split
      · exact h.tensMove.degradeOnce
      · exact h.tensMove
    refine MemOk.chunkEnd ?_
    refine MemOk.dropTransit ?_
    split
    · exact h.tensMove.degradeOnce
    split
    · exact h.tensMove.degradeOnce
    · exact h.tensMove

theorem MemOk.land {s : State} {j : Job} {t : Transit} (h : MemOk s) : MemOk (s.land j t) := by
  dsimp only [State.land]
  split
  · exact h.landTens
  · exact h.landTens
  · exact h.landTransit

theorem MemOk.takeChunk {s : State} {j : Job} {die agent : Nat} (h : MemOk s) : MemOk (s.takeChunk j die agent) := by
  dsimp only [State.takeChunk]
  split
  · exact h.bringPage
  split
  · exact h
  · exact MemOk.chunkDone (MemOk.degrade h)
  · exact MemOk.doChunk h

theorem MemOk.execHaulChunk {die agent : Nat} {s : State} (h : MemOk s) : ResultOk (execHaulChunk die agent s) := by
  dsimp only [Machine.execHaulChunk]
  split
  · exact h
  split
  · exact h.takeChunk
  · exact h

theorem MemOk.execChunkHop {flight : Nat} {s : State} (h : MemOk s) : ResultOk (execChunkHop flight s) := by
  dsimp only [Machine.execChunkHop]
  split
  · exact h
  split
  · exact h.sendChunk
  · split
    · exact h.chunkHop
    · exact h
    · exact h
    · exact h.dropTransit.degradeOnce.chunkDone
  · split
    · exact h
    · exact h.land
  · exact h.dropTransit

theorem MemOk.execChunkReduction {flight : Nat} {s : State} (h : MemOk s) : ResultOk (execChunkReduction flight s) := by
  dsimp only [Machine.execChunkReduction]
  split
  · exact h
  split
  · split
    · exact h.reduce
    · exact h
  · exact h

theorem MemOk.execHaulJobComplete {id : Nat} {s : State} (h : MemOk s) : ResultOk (execHaulJobComplete id s) := by
  dsimp only [Machine.execHaulJobComplete]
  split
  · split
    · exact h.completeJob
    · exact h
  · exact h

theorem MemOk.releaseHeld {s : State} {t : Team} (h : MemOk s) : MemOk (s.releaseHeld t) := by
  dsimp only [State.releaseHeld]
  refine MemOk.foldl h.updTeam ?_
  intro _ _ h1
  split
  · exact h1.chunkEnd
  · exact h1

theorem MemOk.execHeldWriteRelease {rid : Nat} {s : State} (h : MemOk s) : ResultOk (execHeldWriteRelease rid s) := by
  dsimp only [Machine.execHeldWriteRelease]
  split
  · split
    · exact h.releaseHeld
    · exact h
  · exact h

theorem MemOk.execPcieCompletionTimeout {id chunk : Nat} {s : State} (h : MemOk s) : ResultOk (execPcieCompletionTimeout id chunk s) := by
  dsimp only [Machine.execPcieCompletionTimeout]
  split
  · split
    · exact h.updJob.degrade.chunkDone
    split
    · split
      · exact h.dropTransit.degrade.chunkDone
      · exact h
    · exact h
  · exact h

theorem MemOk.execCkverDone {rid gang split : Nat} {s : State} (h : MemOk s) : ResultOk (execCkverDone rid gang split s) := by
  dsimp only [Machine.execCkverDone]
  split
  · split
    · exact h.dropRange.updTeam
    · exact h
  · exact h

/-! ### What `Machine/Place.lean` keeps -/

theorem MemOk.takeBank {s : State} {c : CoreId} {rid bank start : Nat} (h : MemOk s) : MemOk (s.takeBank c rid bank start) := by
  dsimp only [State.takeBank]
  refine MemOk.updTeam ?_
  split
  · exact h.setCore
  · exact h

theorem MemOk.settleBank {s : State} {c : CoreId} {rid n : Nat} (h : MemOk s) : MemOk (s.settleBank c rid n) := by
  dsimp only [State.settleBank]
  split
  · exact h.takeBank
  · exact h

theorem MemOk.placeTeam {s : State} {task : Machine.Task} {index : Nat} {c : CoreId} (h : MemOk s) : OptOk (s.placeTeam task index c) := by
  dsimp only [State.placeTeam]
  split
  · trivial
  · exact MemOk.takeBank (MemOk.of_mem_eq rfl (MemOk.invalidateAsid h))

theorem MemOk.deselect {s : State} {t : Team} (h : MemOk s) : MemOk (s.deselect t) := by
  dsimp only [State.deselect]
  split
  · exact h.setCore
  · exact h

theorem MemOk.saveTeam {s : State} {rid : Nat} {st : TeamStatus} {atCommit : Bool} (h : MemOk s) : MemOk (s.saveTeam rid st atCommit) := by
  dsimp only [State.saveTeam]
  split
  · exact h
  · exact h.deselect.writeBackAsid.updTeam

theorem MemOk.resumeTeam {s : State} {rid : Nat} {c : CoreId} (h : MemOk s) : MemOk (s.resumeTeam rid c) := by
  dsimp only [State.resumeTeam]
  split
  · exact h
  · exact (h.invalidateAsid.settleBank.updTeam.foldl (fun _ _ h1 => h1.updSplit.deliver)).settleEntries

theorem MemOk.moveTeam {s : State} {rid : Nat} (h : MemOk s) : OptOk (s.moveTeam rid) := by
  unfold State.moveTeam
  refine OptOk.bind (fun t _ => OptOk.bind (fun c _ => ?_))
  split
  · refine OptOk.bind (fun t1 _ => ?_)
    have h1 : MemOk (((s.deselect t).invalidateAsid t.core t.asid).invalidateAsid c t.asid) := h.deselect.invalidateAsid.invalidateAsid
    exact MemOk.updTeam (MemOk.settleBank h1)
  · trivial

theorem MemOk.failMig {s : State} {t : Team} (h : MemOk s) : MemOk (s.failMig t) := h.updTeam.foldl (fun _ _ h1 => h1.deliver)

theorem MemOk.settleMig {s : State} {rid : Nat} (h : MemOk s) : MemOk (s.settleMig rid) := by
  dsimp only [State.settleMig]
  split
  · exact h
  split
  · exact h
  split
  · exact h.failMig
  split
  · exact h.updTeam
  · split <;> exact h.updTeam

theorem MemOk.endMigMove {s : State} {rid : Nat} {t : Team} (h : MemOk s) : MemOk (s.endMigMove rid t) := by
  dsimp only [State.endMigMove]
  split
  next _ _ heq => split <;> exact ((h.updTeam.moveTeam.some heq).updTeam).updTeam
  · exact h.releaseHeld.updTeam

theorem MemOk.endAskedMove {s : State} {rid : Nat} (h : MemOk s) : MemOk (s.endAskedMove rid) := by
  dsimp only [State.endAskedMove]
  split
  next _ _ heq => exact (h.moveTeam.some heq).updTeam
  split
  · exact h.releaseHeld.updTeam
  · exact h

theorem MemOk.finishMove {s : State} {rid : Nat} (h : MemOk s) : MemOk (s.finishMove rid) := by
  dsimp only [State.finishMove]
  split
  · split
    · exact h
    split
    · exact h.endMigMove
    · exact h.endAskedMove
  · exact h

theorem MemOk.dropMove {s : State} {t : Team} (h : MemOk s) : MemOk (s.dropMove t) := by
  dsimp only [State.dropMove]
  split
  · exact h
  · exact h.releaseHeld.updTeam

/-! ### What `Machine/System.lean` keeps -/

theorem MemOk.trapBody {v : View} {a : Args} {x2 : Mask} (h : MemOk v.s) : OutOk (trapBody v a x2) := h

theorem MemOk.tvecBody {v : View} {a : Args} {x2 : Mask} (h : MemOk v.s) : OutOk (tvecBody v a x2) := h

theorem MemOk.tretBody {v : View} {x1 : Args} {x2 : Mask} (h : MemOk v.s) : OutOk (tretBody v x1 x2) := by
  dsimp only [Machine.tretBody]
  split
  · exact h
  · exact h.complete.close.endHandler

theorem MemOk.brkptBody {f : Form} {v : View} {a : Args} {x3 : Mask} (h : MemOk v.s) : OutOk (brkptBody f v a x3) := by
  dsimp only [Machine.brkptBody]
  split <;> exact h

theorem MemOk.sigsetBody {v : View} {a : Args} {x2 : Mask} (h : MemOk v.s) : OutOk (sigsetBody v a x2) := h

theorem MemOk.migBody {v : View} {a : Args} {x2 : Mask} (h : MemOk v.s) : OutOk (migBody v a x2) := MemOk.settleMig (MemOk.close h.complete)

theorem MemOk.queryBody {v : View} {a : Args} {x2 : Mask} (h : MemOk v.s) : OutOk (queryBody v a x2) := h.putUni

theorem MemOk.qkindBody {v : View} {a : Args} {x2 : Mask} (h : MemOk v.s) : OutOk (qkindBody v a x2) := h.putUni

theorem MemOk.putNow {v : View} {a : Args} {x : Word} (h : MemOk v.s) : MemOk (v.putNow a x).s := h.onGang

theorem MemOk.launchBody {v : View} {a : Args} {e : Mask} (h : MemOk v.s) : OutOk (launchBody v a e) := by
  unfold Machine.launchBody
  extract_lets +onlyGivenNames p
  split
  · exact h
  · exact h
  split
  · trivial
  extract_lets +onlyGivenNames v1 r v2
  have h1 : MemOk v1.s := h.release
  have h2 : MemOk v2.s := (h1.onState (fun _ _ => h1.close.homeRead)).holdUntil
  clear_value v2
  split
  · exact h2.putNow
  extract_lets +onlyGivenNames v3
  have h3 : MemOk v3.s := h2.onState (fun s h => by
    extract_lets s1
    have h1 : MemOk s1 := h.putPkg
    exact h1)
  exact h3.putNow

theorem MemOk.ptimeBody {v : View} {a : Args} {x2 : Mask} (h : MemOk v.s) : OutOk (ptimeBody v a x2) := h.putUni

theorem MemOk.prfrdBody {v : View} {a : Args} {x2 : Mask} (h : MemOk v.s) : OutOk (prfrdBody v a x2) := by
  dsimp only [Machine.prfrdBody]
  split
  · exact MemOk.putUni h
  · exact h.putUni

theorem MemOk.execTrap {f : Form} {s : State} (h : MemOk s) : ResultOk (execTrap f s) := h.runOp (fun _ _ _ h1 => h1.trapBody)

theorem MemOk.execTvec {f : Form} {s : State} (h : MemOk s) : ResultOk (execTvec f s) := h.runOp (fun _ _ _ h1 => h1.tvecBody)

theorem MemOk.execTret {f : Form} {s : State} (h : MemOk s) : ResultOk (execTret f s) := h.runOp (fun _ _ _ h1 => h1.tretBody)

theorem MemOk.execMig {f : Form} {s : State} (h : MemOk s) : ResultOk (execMig f s) := h.runOp (fun _ _ _ h1 => h1.migBody)

theorem MemOk.execQuery {f : Form} {s : State} (h : MemOk s) : ResultOk (execQuery f s) := h.runOp (fun _ _ _ h1 => h1.queryBody)

theorem MemOk.execQkind {f : Form} {s : State} (h : MemOk s) : ResultOk (execQkind f s) := h.runOp (fun _ _ _ h1 => h1.qkindBody)

theorem MemOk.execChksig {f : Form} {s : State} (h : MemOk s) : ResultOk (execChksig f s) := h.runOp (fun _ _ _ h1 => h1)

theorem MemOk.execSigset {f : Form} {s : State} (h : MemOk s) : ResultOk (execSigset f s) := h.runOp (fun _ _ _ h1 => h1.sigsetBody)

theorem MemOk.execLaunch {f : Form} {s : State} (h : MemOk s) : ResultOk (execLaunch f s) := h.runOp (fun _ _ _ h1 => h1.launchBody)

theorem MemOk.execPtime {f : Form} {s : State} (h : MemOk s) : ResultOk (execPtime f s) := h.runOp (fun _ _ _ h1 => h1.ptimeBody)

theorem MemOk.execPrfrd {f : Form} {s : State} (h : MemOk s) : ResultOk (execPrfrd f s) := h.runOp (fun _ _ _ h1 => h1.prfrdBody)

theorem MemOk.execBrkpt {f : Form} {s : State} (h : MemOk s) : ResultOk (execBrkpt f s) := h.runOp (fun _ _ _ h1 => h1.brkptBody)

/-! ### What `Machine/Native.lean` keeps -/

theorem MemOk.tickCore {s : State} {c : CoreId} {q n : Nat} {held : Option Cur} (h : MemOk s) : MemOk (s.tickCore c q n held) := h

theorem MemOk.execExposedResultLand {rid gang split : Nat} {s : State} (h : MemOk s) : ResultOk (execExposedResultLand rid gang split s) := by
  dsimp only [Machine.execExposedResultLand]
  split
  · split
    · exact h.updTeam
    · exact h
  · exact h

theorem MemOk.execLoadResultArrive {rid gang split : Nat} {s : State} (h : MemOk s) : ResultOk (execLoadResultArrive rid gang split s) := by
  dsimp only [Machine.execLoadResultArrive]
  split
  · exact h.updTeam
  · exact h

theorem MemOk.execTailingLand {rid gang split : Nat} {s : State} (h : MemOk s) : ResultOk (execTailingLand rid gang split s) :=
  h.execExposedResultLand

theorem MemOk.commit {v : View} {pc : Nat} {r : Option Record} {again : Option Stage} (h : MemOk v.s) : MemOk (v.commit pc r again).s := by
  dsimp only [View.commit]
  exact h.onGang.flush

theorem MemOk.endInterval {v : View} {r : Record} (h : MemOk v.s) : MemOk (v.endInterval r).s := by
  dsimp only [View.endInterval]
  split <;> exact h

theorem MemOk.commitBody {equiv : Bool} {v : View} {a : Args} {x3 : Mask} (h : MemOk v.s) : OutOk (commitBody equiv v a x3) := by
  dsimp only [Machine.commitBody]
  split
  · trivial
  split
  · trivial
  split
  · trivial
  · exact h
  · exact h.commit.endInterval

theorem MemOk.loopBody {v : View} {a : Args} {x2 : Mask} (h : MemOk v.s) : OutOk (loopBody v a x2) := by
  dsimp only [Machine.loopBody]
  split
  · exact MemOk.goto h
  · exact h

theorem MemOk.rrbsetBody {v : View} {a : Args} {x2 : Mask} (h : MemOk v.s) : OutOk (rrbsetBody v a x2) := h

theorem MemOk.movxBody {v : View} {a : Args} {e : Mask} (h : MemOk v.s) : OutOk (movxBody v a e) := h.putLanes

theorem MemOk.sigadvBody {v : View} {a : Args} {x2 : Mask} (h : MemOk v.s) : OutOk (sigadvBody v a x2) := h

theorem MemOk.execLoop {f : Form} {s : State} (h : MemOk s) : ResultOk (execLoop f s) := h.runOp (fun _ _ _ h1 => h1.loopBody)

theorem MemOk.execRrbset {f : Form} {s : State} (h : MemOk s) : ResultOk (execRrbset f s) := h.runOp (fun _ _ _ h1 => h1.rrbsetBody)

theorem MemOk.execCmt {f : Form} {s : State} (h : MemOk s) : ResultOk (execCmt f s) := h.runOp (fun _ _ _ h1 => h1.commitBody)

theorem MemOk.execEqp {f : Form} {s : State} (h : MemOk s) : ResultOk (execEqp f s) := h.runOp (fun _ _ _ h1 => h1.commitBody)

theorem MemOk.execMovx {f : Form} {s : State} (h : MemOk s) : ResultOk (execMovx f s) := h.runOp (fun _ _ _ h1 => h1.movxBody)

theorem MemOk.execSigadv {f : Form} {s : State} (h : MemOk s) : ResultOk (execSigadv f s) := h.runOp (fun _ _ _ h1 => h1.sigadvBody)

theorem MemOk.execNop {f : Form} {s : State} (h : MemOk s) : ResultOk (execNop f s) := h.runOp (fun _ _ _ h1 => h1)

/-! ### What `Machine/Lode.lean` keeps -/

theorem MemOk.rewriteCopy {s : State} {slot stack : Nat} (h : MemOk s) : MemOk (s.rewriteCopy slot stack) := by
  dsimp only [State.rewriteCopy]
  split <;> exact h

theorem MemOk.lodeAdd {s : State} {e : LodeEntry} (h : MemOk s) : MemOk (s.lodeAdd e) := by
  dsimp only [State.lodeAdd]
  split
  · exact MemOk.rewriteCopy (MemOk.rewriteCopy h)
  · exact h

theorem MemOk.dropAsk {s : State} {key : BitVec 256} (h : MemOk s) : MemOk (s.dropAsk key) := h

theorem MemOk.onHub {s : State} {f : Hub → Hub} (h : MemOk s) : MemOk (s.onHub f) := h

theorem MemOk.nextFree {s : State} (h : MemOk s) : MemOk s.nextFree := h

theorem MemOk.obtain {s : State} {e : LodeEntry} (h : MemOk s) : MemOk (s.obtain e) := by
  dsimp only [State.obtain]
  split
  · exact h
  split
  · split
    · exact h.dropAsk.lodeAdd.nextFree
    · exact h
  split
  · exact h.lodeAdd.nextFree
  · exact h

theorem MemOk.countAt {s : State} {key : BitVec 256} {n : Nat} {c : Counters} (h : MemOk s) : MemOk (s.countAt key n c) := h

/-! ### What `Machine/Engines.lean` keeps -/

theorem MemOk.when {s : State} {p : Bool} {t : State} (h : MemOk s) (h1 : MemOk t) : ResultOk (when s p t) := by
  dsimp only [Machine.when]
  split
  · exact h1
  · exact h

theorem MemOk.dropFace {s : State} {q : FaceReq} (h : MemOk s) : MemOk (s.dropFace q) := h

theorem MemOk.facePerform {s : State} {q : FaceReq} (h : MemOk s) : MemOk (s.facePerform q) := by
  dsimp only [State.facePerform]
  split
  · exact h.dropFace
  refine MemOk.settleEntries ?_
  split
  · refine MemOk.invalidateAsid ?_
    refine MemOk.updTeam ?_
    refine MemOk.foldlFst h.dropFace ?_
    intro _ _ h1
    split
    · exact h1.dropLine.putVa
    · exact h1.dropLine
  refine MemOk.updTeam ?_
  refine MemOk.foldlFst h.dropFace ?_
  intro _ _ h1
  split
  · exact h1.dropLine.putVa
  · exact h1.dropLine

theorem MemOk.execFaceUnitOperation {unit : Nat} {s : State} (h : MemOk s) : ResultOk (execFaceUnitOperation unit s) := by
  dsimp only [Machine.execFaceUnitOperation]
  split
  · exact h.facePerform
  · exact h

theorem MemOk.execNsleepWake {rid gang split : Nat} {s : State} (h : MemOk s) : ResultOk (execNsleepWake rid gang split s) := by
  dsimp only [Machine.execNsleepWake]
  split
  · split
    · exact h.when h.updSplit
    · exact h
  · exact h

theorem MemOk.execWaitaWake {rid gang split : Nat} {s : State} (h : MemOk s) : ResultOk (execWaitaWake rid gang split s) := by
  dsimp only [Machine.execWaitaWake]
  split
  · split
    · exact h.when h.updSplit
    · exact h
  · exact h

theorem MemOk.execL1Eviction {core : CoreId} {asid line : Nat} {s : State} (h : MemOk s) : ResultOk (execL1Eviction core asid line s) :=
  h.when h.dropLine

theorem MemOk.movePage {s : State} {p : Page} {dest : Place} (h : MemOk s) : MemOk (s.movePage p dest) := Memory_moveRange_wf _ _ _ _ h

theorem MemOk.execPageMoveToHbm {asid vbase stack : Nat} {s : State} (h : MemOk s) : ResultOk (execPageMoveToHbm asid vbase stack s) := by
  dsimp only [Machine.execPageMoveToHbm]
  split
  · split
    · split
      · exact h.when h.movePage
      · exact h
    · exact h
  · exact h

theorem MemOk.wakePage {s : State} {asid vbase : Nat} (h : MemOk s) : MemOk (s.wakePage asid vbase) := MemOk.settleEntries h

theorem MemOk.execPageMigrationComplete {asid vbase : Nat} {s : State} (h : MemOk s) : ResultOk (execPageMigrationComplete asid vbase s) := by
  dsimp only [Machine.execPageMigrationComplete]
  split
  · split
    · exact h.when h.movePage.wakePage
    · exact h
  · exact h

theorem MemOk.failPage {s : State} {p : Page} {cause : Nat} (h : MemOk s) : MemOk (s.failPage p cause) := by
  dsimp only [State.failPage]
  refine MemOk.foldl h ?_
  intro _ _ h1
  split
  · exact h1
  · exact h1
  · exact h1.terminateAt

theorem MemOk.execMigrationTimeout {asid vbase : Nat} {s : State} (h : MemOk s) : ResultOk (execMigrationTimeout asid vbase s) := by
  dsimp only [Machine.execMigrationTimeout]
  split
  · split
    · exact h.when (MemOk.of_mem_eq rfl h.failPage)
    · exact h
  · exact h

theorem MemOk.transferFault {s : State} {t : Team} {x : MoveSource} (h : MemOk s) : MemOk (s.transferFault t x) := by
  dsimp only [State.transferFault]
  split
  · exact h.terminate
  · exact h.log.deselect.releaseHeld.updTeam

theorem MemOk.poisonSite {s : State} {site : EccSite} (h : MemOk s) : MemOk (s.poisonSite site) := by
  dsimp only [State.poisonSite]
  split
  · exact h
  · exact h.updTeam
  · exact h.updTeam
  · split
    · exact h.setCore
    · exact h
  · exact h.updTeam
  · exact h.updSplit
  · exact h.updTeam
  · exact h.setCore
  · exact h.setCore
  · exact h.updTeam

theorem MemOk.execEccError {site : EccSite} {corrected : Bool} {s : State} (h : MemOk s) : ResultOk (execEccError site corrected s) := by
  dsimp only [Machine.execEccError]
  split
  · split
    · exact h
    · exact h.logLimited
  split
  · split
    · exact h.transferFault
    · exact h.poisonSite
  · exact h.poisonSite

theorem MemOk.wantPage {s : State} {p : Page} (h : MemOk s) : MemOk (s.wantPage p) := h

theorem OptOk.map {α : Type} {o : Option α} {f : α → State} (hf : ∀ a, MemOk (f a)) : OptOk (o.map f) := by
  cases o with
  | none => trivial
  | some a => exact hf a

theorem MemOk.bring {s : State} {asid va : Nat} (h : MemOk s) : OptOk (s.bring asid va) := by
  dsimp only [State.bring]
  split
  · split
    · split
      · exact OptOk.map (fun _ => h.movePage.wakePage)
      · trivial
    · exact h
  · exact h

theorem MemOk.queueIrq {s : State} {queue : Nat} (h : MemOk s) : MemOk (s.queueIrq queue) := by
  dsimp only [State.queueIrq]
  split
  · exact h.raiseVector
  · exact h

theorem MemOk.dropCpWrite {s : State} {w : CpWrite} (h : MemOk s) : MemOk (s.dropCpWrite w) := by
  dsimp only [State.dropCpWrite]
  split <;> exact h

theorem MemOk.endCpWrite {s : State} {w : CpWrite} (h : MemOk s) : MemOk (s.endCpWrite w) := by
  dsimp only [State.endCpWrite]
  split
  · exact h.queueIrq
  · exact h

theorem MemOk.holdCpWrite {s : State} {w : CpWrite} (h : MemOk s) : MemOk (s.holdCpWrite w) := h

theorem MemOk.cpWriteFrom {s : State} {w : CpWrite} (h : MemOk s) : MemOk (s.cpWriteFrom w) := by
  dsimp only [State.cpWriteFrom]
  split
  · exact h.holdCpWrite
  split
  · split
    next _ _ heq => exact ((h.bring.some heq).putVa).endCpWrite
    split
    · exact h.dropCpWrite.endCpWrite
    · exact h.wantPage.holdCpWrite
  · exact h.dropCpWrite.endCpWrite

theorem MemOk.cpWrite {s : State} {queue asid va : Nat} {bs : List Byte} {irq signal : Bool} (h : MemOk s) :
    MemOk (s.cpWrite queue asid va bs irq signal) :=
  h.cpWriteFrom

theorem MemOk.cpRetry {s : State} (h : MemOk s) : MemOk s.cpRetry := MemOk.foldl h (fun _ _ h1 => h1.cpWriteFrom)

theorem MemOk.writeBackEverywhere {s : State} {asid : Nat} (h : MemOk s) : MemOk (s.writeBackEverywhere asid) :=
  h.foldl (fun _ _ h1 => h1.writeBackAsid)

theorem clearPlaces_wf (l : List Page) {m : Memory} (h : m.wf = true) :
    (l.foldl (fun (m : Memory) p => m.clearRange p.place.flat p.size) m).wf = true :=
  List.foldlRecOn (motive := fun m : Memory => m.wf = true) l _ h (fun _ hm _ _ => Memory_clearRange_wf _ _ _ hm)

theorem MemOk.completeTask {s : State} {k : Machine.Task} {value : Word} (h : MemOk s) : MemOk (s.completeTask k value) := by
  dsimp only [State.completeTask]
  refine MemOk.dropPreloads (clearPlaces_wf _ ?_)
  split
  · split
    · exact h.writeBackEverywhere.queueIrq
    · exact h.writeBackEverywhere
  · exact h.writeBackEverywhere.cpWrite

theorem MemOk.retireTeam {s : State} {t : Team} (h : MemOk s) : MemOk (s.retireTeam t) := by
  dsimp only [State.retireTeam]
  split
  · split
    all_goals
      split
      · refine MemOk.completeTask ?_
        split
        · exact MemOk.event (MemOk.of_mem_eq rfl h.deselect.writeBackAsid)
        · exact MemOk.of_mem_eq rfl h.deselect.writeBackAsid
      split
      · exact MemOk.event (MemOk.of_mem_eq rfl h.deselect.writeBackAsid)
      · exact MemOk.of_mem_eq rfl h.deselect.writeBackAsid
  split
  · exact MemOk.event (MemOk.of_mem_eq rfl h.deselect.writeBackAsid)
  · exact MemOk.of_mem_eq rfl h.deselect.writeBackAsid

theorem MemOk.execTeamRetire {rid : Nat} {s : State} (h : MemOk s) : ResultOk (execTeamRetire rid s) := by
  dsimp only [Machine.execTeamRetire]
  split
  · exact h.when h.retireTeam
  · exact h

theorem MemOk.endTask {s : State} {k : Machine.Task} (h : MemOk s) : MemOk (s.endTask k) := by
  dsimp only [State.endTask]
  split
  · exact MemOk.completeTask (MemOk.foldl h (fun _ _ h1 => h1.terminate))
  · exact MemOk.foldl h (fun _ _ h1 => h1.terminate)

theorem MemOk.readEntry {s : State} {e : LodeEntry} (h : MemOk s) : MemOk (s.readEntry e) := by
  dsimp only [State.readEntry]
  split
  · exact h
  · exact h.log.rewriteCopy
  · exact h.log.rewriteCopy
  · exact MemOk.foldl h (fun _ _ h1 => h1.endTask)

theorem MemOk.readKey {s : State} {key : BitVec 256} (h : MemOk s) : MemOk (s.readKey key) := by
  dsimp only [State.readKey]
  split
  · exact h.readEntry
  · exact h

theorem MemOk.readHeld {s : State} {k : Machine.Task} {kind : CoreKind} (h : MemOk s) : MemOk (s.readHeld k kind) := by
  dsimp only [State.readHeld]
  split
  · exact h.readKey
  · exact h

theorem MemOk.execCodeloadDone {rid gang split : Nat} {s : State} (h : MemOk s) : ResultOk (execCodeloadDone rid gang split s) := by
  dsimp only [Machine.execCodeloadDone]
  split
  · split
    · split
      · exact h.readKey.obtain
      · exact h.readKey.obtain.updTeam
    · exact h
  · exact h

theorem MemOk.execMaskWatchdogExpiry {rid gang : Nat} {s : State} (h : MemOk s) : ResultOk (execMaskWatchdogExpiry rid gang s) := by
  dsimp only [Machine.execMaskWatchdogExpiry]
  split
  · exact h.when h.terminate
  · exact h

theorem MemOk.execWaitWatchdogExpiry {rid gang split : Nat} {s : State} (h : MemOk s) : ResultOk (execWaitWatchdogExpiry rid gang split s) := by
  dsimp only [Machine.execWaitWatchdogExpiry]
  split
  · split
    · exact h.terminateAt
    · exact h
  · exact h

theorem MemOk.freeCore {s : State} {c : CoreId} (h : MemOk s) : MemOk (s.freeCore c) := by
  dsimp only [State.freeCore]
  split <;> exact h

theorem MemOk.suspendOne {s : State} {rid : Nat} (h : MemOk s) : MemOk (s.suspendOne rid) := by
  dsimp only [State.suspendOne]
  split
  · exact h
  refine MemOk.freeCore ?_
  refine MemOk.updTeam ?_
  split
  · exact h.dropMove.deselect.updTeam
  · exact h.dropMove.saveTeam

theorem MemOk.suspendNative {s : State} {t : Team} (h : MemOk s) : MemOk (s.suspendNative t) := h.foldl (fun _ _ h1 => h1.suspendOne)

theorem MemOk.unkeep {s : State} {c : CoreId} (h : MemOk s) : MemOk (s.unkeep c) := by
  dsimp only [State.unkeep]
  split <;> exact h

theorem MemOk.settleFreed {s : State} (h : MemOk s) : MemOk s.settleFreed := by
  dsimp only [State.settleFreed]
  split <;> exact h

theorem MemOk.startTeam {s : State} {k : Machine.Task} {index : Nat} {c : CoreId} {brought : Bool} (h : MemOk s) :
    OptOk (s.startTeam k index c brought) := by
  dsimp only [State.startTeam]
  split
  · split
    · exact h.unkeep.placeTeam
    · exact h.unkeep
  split
  · exact h.unkeep.readHeld.placeTeam
  · exact h.unkeep.readHeld

theorem MemOk.execTeamPlace {die : Nat} {s : State} (h : MemOk s) : ResultOk (execTeamPlace die s) := by
  dsimp only [Machine.execTeamPlace]
  split
  · split
    next _ _ heq => exact (h.startTeam.some heq)
    · exact h
  · exact h

theorem MemOk.readRegions {s : State} {t : Team} (h : MemOk s) : MemOk (s.readRegions t) := h.foldl (fun _ _ h1 => h1.readKey)

theorem MemOk.readTeam {s : State} {t : Team} {kind : CoreKind} (h : MemOk s) : MemOk (s.readTeam t kind) := by
  dsimp only [State.readTeam]
  refine MemOk.readRegions ?_
  split
  · exact h.readHeld
  · exact h

theorem MemOk.placeBack {s : State} {t : Team} {c : CoreId} (h : MemOk s) : MemOk (s.placeBack t c) := by
  dsimp only [State.placeBack]
  split
  · refine MemOk.deliver ?_
    refine MemOk.of_mem_eq rfl ?_
    refine MemOk.resumeTeam ?_
    refine MemOk.updTeam ?_
    split
    · exact h
    · split <;> exact h
  refine MemOk.of_mem_eq rfl ?_
  refine MemOk.resumeTeam ?_
  refine MemOk.updTeam ?_
  split
  · exact h
  · split <;> exact h

theorem MemOk.resumeBrought {s : State} {rid : Nat} {c : CoreId} {code scratch : Bool} (h : MemOk s) :
    MemOk (s.resumeBrought rid c code scratch) := by
  dsimp only [State.resumeBrought]
  split
  · exact h
  split
  · split
    · split
      · split
        · exact h.unkeep.updTeam.readRegions.placeBack
        · exact h.unkeep.updTeam.readRegions
      split
      · exact h.unkeep.readRegions.placeBack
      · exact h.unkeep.readRegions
    split
    · split
      · exact h.unkeep.updTeam.readTeam.placeBack
      · exact h.unkeep.updTeam.readTeam
    split
    · exact h.unkeep.readTeam.placeBack
    · exact h.unkeep.readTeam
  split
  · refine MemOk.readRegions ?_
    split
    · exact h.unkeep.updTeam
    · exact h.unkeep
  refine MemOk.readTeam ?_
  split
  · exact h.unkeep.updTeam
  · exact h.unkeep

theorem MemOk.resumeFull {s : State} {rid : Nat} {c : CoreId} (h : MemOk s) : MemOk (s.resumeFull rid c) := h.resumeBrought

theorem MemOk.execTeamResume {rid : Nat} {s : State} (h : MemOk s) : ResultOk (execTeamResume rid s) := by
  dsimp only [Machine.execTeamResume]
  split
  · exact h.resumeFull
  · exact h

theorem MemOk.execPreload {core : CoreId} {s : State} (h : MemOk s) : ResultOk (execPreload core s) := by
  dsimp only [Machine.execPreload]
  split
  · split
    · split
      · exact h.readHeld.setCore
      · exact h.readHeld
    split
    · exact h.setCore
    · exact h
  · exact h

theorem MemOk.switchIn {s : State} {core : CoreId} (h : MemOk s) : MemOk (s.switchIn core) := by
  dsimp only [State.switchIn]
  split
  · exact h
  split
  · split
    · split
      · split
        · exact h.setCore.resumeBrought.updTeam
        · exact h.setCore.resumeBrought
      split
      · exact h
      · exact h.setCore
    · exact h.setCore
  · split
    · exact h.setCore
    split
    · exact h.setCore.startTeam.getD h
    · exact h
  · exact h.setCore

theorem MemOk.execPreloadSwitch {core : CoreId} {s : State} (h : MemOk s) : ResultOk (execPreloadSwitch core s) := h.switchIn

theorem MemOk.finishSuspend {s : State} {t : Team} (h : MemOk s) : MemOk (s.finishSuspend t) := by
  dsimp only [State.finishSuspend]
  split
  · exact h.saveTeam.freeCore.updTeam.switchIn
  · exact h.saveTeam.freeCore

theorem MemOk.execBudgetOverrun {rid : Nat} {s : State} (h : MemOk s) : ResultOk (execBudgetOverrun rid s) := by
  dsimp only [Machine.execBudgetOverrun]
  split
  · split
    · exact h
    split
    · exact h.terminate
    split
    · exact h
    · exact MemOk.switchIn (MemOk.of_mem_eq rfl h.log.suspendNative)
  · exact h

theorem MemOk.execPreloadDropped {core : CoreId} {s : State} (h : MemOk s) : ResultOk (execPreloadDropped core s) := h.when h.setCore

theorem MemOk.preempt {s : State} {x : CoreId × List Nat} (h : MemOk s) : MemOk (s.preempt x) := by
  dsimp only [State.preempt]
  refine MemOk.freeCore ?_
  refine MemOk.foldl h ?_
  intro _ _ h1
  split
  · split
    · exact h1.suspendNative
    · exact h1
  · exact h1

theorem MemOk.execNativeSuspend {rid : Nat} {s : State} (h : MemOk s) : ResultOk (execNativeSuspend rid s) := by
  dsimp only [Machine.execNativeSuspend]
  split
  · exact h
  split
  · exact h.when h.finishSuspend
  split
  · exact h.when h.preempt
  · exact h

theorem MemOk.execVirtualPreciseStop {rid : Nat} {s : State} (h : MemOk s) : ResultOk (execVirtualPreciseStop rid s) := by
  dsimp only [Machine.execVirtualPreciseStop]
  split
  · split
    · split
      · split
        · exact (h.updTeam.saveTeam.freeCore.foldl (fun _ _ h1 => h1.event)).event
        · exact h.updTeam.saveTeam.freeCore.foldl (fun _ _ h1 => h1.event)
      · exact h
    · exact h
  · exact h

theorem MemOk.execDispatcherMoveRequest {rid : Nat} {s : State} (h : MemOk s) : ResultOk (execDispatcherMoveRequest rid s) := by
  dsimp only [Machine.execDispatcherMoveRequest]
  split
  · exact h.when h.updTeam
  · exact h

theorem MemOk.dropMoveReq {s : State} {rid : Nat} (h : MemOk s) : MemOk (s.dropMoveReq rid) := h.updTeam

theorem MemOk.execDispatcherMoveLapse {rid : Nat} {s : State} (h : MemOk s) : ResultOk (execDispatcherMoveLapse rid s) := by
  dsimp only [Machine.execDispatcherMoveLapse]
  split
  · exact h.when h.dropMoveReq
  · exact h

theorem MemOk.settleMove {s : State} {rid : Nat} (h : MemOk s) : MemOk (s.settleMove rid) := by
  dsimp only [State.settleMove]
  split
  · exact h
  split
  · exact h.updTeam
  · exact h

/-! ### What `Machine/Queues.lean` keeps -/

theorem MemOk.updQueue {s : State} {n : Nat} {f : Queue → Queue} (h : MemOk s) : MemOk (s.updQueue n f) := h

theorem MemOk.consumeHead {s : State} {n : Nat} (h : MemOk s) : MemOk (s.consumeHead n) := by
  dsimp only [State.consumeHead]
  split
  · exact h
  split
  · exact h
  split
  · exact h.updQueue.onHub.cpWrite
  · exact h.updQueue

theorem MemOk.placeAll {s : State} {k : Machine.Task} {n : Nat} (h : MemOk s) : OptOk (s.placeAll k n) := by
  induction n with
  | zero => exact h
  | succ n ih =>
    unfold State.placeAll
    exact OptOk.bind (fun _ e => OptOk.bind (fun _ _ => (ih.some e).placeTeam))

theorem MemOk.refuseLaunch {s : State} {q : Queue} {ws : List Word} {reason : Nat} (h : MemOk s) : MemOk (s.refuseLaunch q ws reason) := by
  dsimp only [State.refuseLaunch]
  refine MemOk.consumeHead ?_
  split
  · split
    · exact h.log.raiseVector
    · exact h.log
  · exact h.log.cpWrite

theorem MemOk.admitTask {s : State} {q : Queue} {x : Ahead} {k : Kernel} {ws : List Word} (h : MemOk s) : MemOk (s.admitTask q x k ws) := by
  unfold State.admitTask
  extract_lets +onlyGivenNames dbg s0 held
  have h0 : MemOk s0 := h.foldl (fun _ _ h => h.readEntry)
  clear_value s0
  split
  · exact h0
  extract_lets +onlyGivenNames id t0 t args s1 hub s2
  have h1 : MemOk s1 := by
    unfold s1
    split
    · split
      · exact h0
      · exact Memory_writeN_wf _ _ _ (Memory_clearRange_wf _ _ _ h0)
    · exact h0
  clear_value s1
  exact MemOk.consumeHead (s := s2) h1

theorem MemOk.visited {s : State} {q : Queue} {credit : Nat} (h : MemOk s) : MemOk (s.visited q credit) := h

theorem MemOk.endVisits {s : State} (h : MemOk s) : MemOk s.endVisits := by
  dsimp only [State.endVisits]
  refine MemOk.foldl h ?_
  intro _ _ h1
  split
  · exact h1
  · exact h1.updQueue.onHub

theorem MemOk.issue {s : State} {n type : Nat} {go : Queue → List Word → State → Option State} (h : MemOk s)
    (hgo : ∀ q ws s, MemOk s → OptOk (go q ws s)) : ResultOk (s.issue n type go) := by
  dsimp only [State.issue]
  split
  · exact h
  split
  · exact h
  split
  · split
    · split
      next heq => exact (hgo _ _ _ h.visited).some heq
      · exact h
    · exact h
  · exact h

theorem MemOk.execNoopPacket {queue : Nat} {s : State} (h : MemOk s) : ResultOk (execNoopPacket queue s) := h.issue (fun _ _ _ h1 => h1.consumeHead)

theorem MemOk.execCallPacket {queue : Nat} {s : State} (h : MemOk s) : ResultOk (execCallPacket queue s) := h.issue (fun _ _ _ h1 => h1.consumeHead)

theorem MemOk.execJoinPacket {queue : Nat} {s : State} (h : MemOk s) : ResultOk (execJoinPacket queue s) := h.issue (fun _ _ _ h1 => h1.consumeHead)

theorem MemOk.execSignalPacket {queue : Nat} {s : State} (h : MemOk s) : ResultOk (execSignalPacket queue s) :=
  h.issue (fun _ _ _ h1 => h1.writeBackEverywhere.cpWrite.consumeHead)

theorem MemOk.execTaskAdmit {queue : Nat} {s : State} (h : MemOk s) : ResultOk (execTaskAdmit queue s) := by
  dsimp only [Machine.execTaskAdmit]
  refine MemOk.issue h ?_
  intro _ _ _ h1
  split
  · exact h1.admitTask
  · trivial

theorem MemOk.execUnassignedPacket {queue : Nat} {s : State} (h : MemOk s) : ResultOk (execUnassignedPacket queue s) := by
  dsimp only [Machine.execUnassignedPacket]
  split
  · exact h
  split
  · exact h.when h.updQueue.log
  · exact h

theorem MemOk.argsWait {s : State} {asid : Nat} {ws : List Word} (h : MemOk s) : MemOk (s.argsWait asid ws) := by
  dsimp only [State.argsWait]
  split
  · exact h.wantPage
  · exact h

theorem MemOk.pass {s : State} {n : Nat} {x : Ahead} (h : MemOk s) : MemOk (s.pass n x) := h.updQueue

theorem MemOk.lookOne {s : State} {q : Queue} (h : MemOk s) : MemOk (s.lookOne q) := by
  dsimp only [State.lookOne]
  split
  · exact h
  split
  · exact h
  · exact h.wantPage
  · exact h.pass
  split
  · exact h.pass
  split
  · exact h.pass
  split
  · exact h.pass
  · exact h.argsWait

theorem MemOk.lookQueue {n fuel : Nat} {s : State} (h : MemOk s) : MemOk (State.lookQueue n fuel s) := by
  induction fuel generalizing s with
  | zero => exact h
  | succ fuel ih =>
    unfold State.lookQueue
    split
    · split
      · dsimp only
        split
        · exact h.lookOne
        · exact ih h.lookOne
      · exact h
    · exact h

theorem MemOk.lookAhead {s : State} (h : MemOk s) : MemOk s.lookAhead := by
  dsimp only [State.lookAhead]
  split
  · exact (h.foldl (fun _ _ h1 => h1.lookQueue)).endVisits
  · exact h

theorem MemOk.reread {s : State} {q : Queue} {x : Ahead} {ws : List Word} (h : MemOk s) : MemOk (s.reread q x ws) := by
  dsimp only [State.reread]
  split
  · exact h.wantPage
  · exact h
  · exact h.updQueue
  · exact h.updQueue

theorem MemOk.execLaunchPacket {queue : Nat} {s : State} (h : MemOk s) : ResultOk (execLaunchPacket queue s) := by
  dsimp only [Machine.execLaunchPacket]
  split
  · exact h
  split
  · split
    · split
      · exact h.reread
      split
      · exact h.refuseLaunch
      · exact h.updQueue
    · exact h
  · exact h

theorem MemOk.execTiarloTranslate {handle : Nat} {kind : CoreKind} {s : State} (h : MemOk s) : ResultOk (execTiarloTranslate handle kind s) := by
  dsimp only [Machine.execTiarloTranslate]
  split
  · exact h.when h.obtain
  · exact h

theorem MemOk.execLodePeerQuery {package : Nat} {key : BitVec 256} {s : State} (h : MemOk s) : ResultOk (execLodePeerQuery package key s) :=
  h.when h.readKey

theorem MemOk.execLodePeerReply {package : Nat} {key : BitVec 256} {digestOk : Bool} {s : State} (h : MemOk s) :
    ResultOk (execLodePeerReply package key digestOk s) := by
  dsimp only [Machine.execLodePeerReply]
  split
  · exact h.when h.dropAsk.lodeAdd
  · exact h

theorem MemOk.execLodePeerTimeout {key : BitVec 256} {s : State} (h : MemOk s) : ResultOk (execLodePeerTimeout key s) := by
  dsimp only [Machine.execLodePeerTimeout]
  split
  · exact h.when h.onHub
  · exact h

theorem MemOk.execReoptimise {key : BitVec 256} {s : State} (h : MemOk s) : ResultOk (execReoptimise key s) := by
  dsimp only [Machine.execReoptimise]
  split
  · exact h.when h.lodeAdd.nextFree
  · exact h

/-! ### What `Machine/Ports.lean` keeps -/

theorem MemOk.hostRecord {s : State} {reason offset : Nat} (h : MemOk s) : MemOk (s.hostRecord reason offset) := h.logLimited

theorem MemOk.ring {s0 : State} {offset : Nat} {value : BitVec 32} (h : MemOk s0) : MemOk (s0.ring offset value) := by
  dsimp only [State.ring]
  split
  · split
    · exact h.hostRecord
    split
    · split
      · exact h
      · exact MemOk.log (MemOk.updQueue h)
    · exact MemOk.updQueue h
  · exact h.hostRecord

theorem MemOk.releaseBells {s : State} (h : MemOk s) : MemOk s.releaseBells := MemOk.foldl h (fun _ _ h1 => h1.ring)

theorem MemOk.bell {s : State} {offset : Nat} {value : BitVec 32} (h : MemOk s) : MemOk (s.bell offset value) := by
  dsimp only [State.bell]
  split
  · exact h.ring
  · exact h

theorem MemOk.execDoorbell {offset : Nat} {value : BitVec 32} {s : State} (h : MemOk s) : ResultOk (execDoorbell offset value s) := by
  dsimp only [Machine.execDoorbell]
  split
  · exact h.bell
  · exact h

theorem MemOk.hostBring {s : State} {asid va : Nat} (h : MemOk s) : OptOk (s.hostBring asid va) := by
  dsimp only [State.hostBring]
  split
  · trivial
  split
  · exact OptOk.map (fun _ => h.movePage.wakePage)
  · exact h

/-- Pages that are brought in one behind the other, as far as that goes. -/
theorem MemOk.hostBringAll {s : State} {asid : Nat} {l : List Nat} (h : MemOk s) :
    OptOk (l.foldl (fun (r : Option State) a => r.bind (fun s => s.hostBring asid a)) (some s)) :=
  List.foldlRecOn (motive := OptOk) l _ h (fun _ hr _ _ => OptOk.bind (fun _ e => (hr.some e).hostBring))

theorem MemOk.hostWant {s : State} {asid va n : Nat} (h : MemOk s) : MemOk (s.hostWant asid va n) := by
  dsimp only [State.hostWant]
  refine MemOk.foldl h ?_
  intro _ _ h1
  split
  · split
    · exact h1.wantPage
    · exact h1
  · exact h1

theorem MemOk.hostReach {s : State} {offset n : Nat} {write late : Bool} (h : MemOk s) : MemOk (s.hostReach offset n write late).2 := by
  dsimp only [State.hostReach]
  split
  · exact h
  split
  · exact h
  split
  next s1 heq => exact h.hostBringAll.some heq
  split
  · exact h
  · exact h.hostWant

theorem MemOk.hostLoad {s : State} {offset n : Nat} {late : Bool} (h : MemOk s) : MemOk (s.hostLoad offset n late).1 := by
  dsimp only [State.hostLoad]
  split
  · exact h.hostReach
  · exact MemOk.of_mem_eq rfl h.hostReach
  · exact MemOk.of_mem_eq rfl h.hostRecord

theorem MemOk.hostStore {s : State} {offset : Nat} {bytes : List Byte} {late : Bool} (h : MemOk s) : MemOk (s.hostStore offset bytes late).1 := by
  dsimp only [State.hostStore]
  split
  · exact h.hostReach
  · exact h.hostReach.putVa
  · exact h.hostRecord

theorem MemOk.hostDo {s : State} {o : HostOp} {late : Bool} (h : MemOk s) : MemOk (s.hostDo o late).1 := by
  dsimp only [State.hostDo]
  split
  · exact h.hostLoad
  · exact h.hostStore
  · exact h.bell

theorem MemOk.hostAsk {s : State} {o : HostOp} (h : MemOk s) : MemOk (s.hostAsk o) := by
  dsimp only [State.hostAsk]
  split
  · split
    · exact h.hostDo
    · exact MemOk.of_mem_eq rfl h.hostDo
  · exact h

theorem MemOk.execBar2Read {offset bytes : Nat} {s : State} (h : MemOk s) : ResultOk (execBar2Read offset bytes s) := h.hostAsk

theorem MemOk.execBar2Write {offset : Nat} {bytes : List Byte} {s : State} (h : MemOk s) : ResultOk (execBar2Write offset bytes s) := h.hostAsk

theorem MemOk.hostRetry {fuel : Nat} {s : State} (h : MemOk s) : MemOk (State.hostRetry fuel s) := by
  induction fuel generalizing s with
  | zero => exact h
  | succ fuel ih =>
    unfold State.hostRetry
    split
    · exact h
    dsimp only
    split
    · exact ih h.hostDo
    · exact h.hostDo

theorem MemOk.hostMemory {fuel : Nat} {s : State} (h : MemOk s) : MemOk (State.hostMemory fuel s) := by
  induction fuel generalizing s with
  | zero => exact h
  | succ fuel ih =>
    unfold State.hostMemory
    split
    · split
      · exact ih (Memory_writeN_wf _ _ _ h)
      · exact h
    · exact h

theorem MemOk.peerArrive {s : State} {j : Job} {xs : List Transit} (h : MemOk s) : MemOk (s.peerArrive j xs) := h

theorem MemOk.peerTurn {fuel : Nat} {s : State} (h : MemOk s) : MemOk (State.peerTurn fuel s) := by
  induction fuel generalizing s with
  | zero => exact h
  | succ fuel ih =>
    unfold State.peerTurn
    split
    · split
      · exact ih (MemOk.peerArrive h)
      · exact h
    · exact h

theorem MemOk.peerAct {s : State} {asid va : Nat} {x : PeerAct} (h : MemOk s) : OptOk (s.peerAct asid va x) := by
  dsimp only [State.peerAct]
  split
  · exact h
  split
  · exact h
  · split
    · trivial
    · exact h
  split
  · exact h
  split
  · exact h.putVa
  split
  · exact h.putVa
  · exact h

theorem MemOk.peerActTurn {fuel : Nat} {s : State} (h : MemOk s) : MemOk (State.peerActTurn fuel s) := by
  induction fuel generalizing s with
  | zero => exact h
  | succ fuel ih =>
    unfold State.peerActTurn
    split
    · split
      · exact h
      split
      next s1 heq =>
        have h1 : MemOk s1 := h.peerAct.some heq
        exact ih (s := { s1 with peerActs := _ }) h1
      · exact (OptOk.map (fun _ => h.wantPage)).getD h
    · exact h

theorem MemOk.hostTurn {s : State} (h : MemOk s) : MemOk s.hostTurn := by
  dsimp only [State.hostTurn]
  split
  · split
    · exact h.hostMemory.peerTurn.peerActTurn
    · exact h.hostMemory.peerTurn.peerActTurn.hostRetry
  split
  · exact h.hostMemory.peerTurn.peerActTurn.cpRetry
  · exact h.hostMemory.peerTurn.peerActTurn.cpRetry.hostRetry

theorem MemOk.execPtpsec {s : State} (h : MemOk s) : ResultOk (execPtpsec s) := h

theorem MemOk.execEvhead {value : Word} {s : State} (h : MemOk s) : ResultOk (execEvhead value s) := MemOk.flushEvents h

theorem MemOk.execInjctl {value : Word} {s : State} (h : MemOk s) : ResultOk (execInjctl value s) := by
  dsimp only [Machine.execInjctl]
  split
  · exact h.hostRecord
  · exact h

theorem MemOk.execBar4RegisterWrite {offset : Nat} {value : Word} {s : State} (h : MemOk s) : ResultOk (execBar4RegisterWrite offset value s) := by
  unfold Machine.execBar4RegisterWrite
  extract_lets hub drop keep
  have hdrop : ResultOk drop := h.hostRecord
  have hkeep (x : Hub) : ResultOk (keep x) := h
  clear_value drop keep
  exact .ite (.ite (hkeep _) h) <| .ite h.execEvhead <| .ite (hkeep _) <| .ite (hkeep _) <| .ite h.execInjctl <|
    .ite (.ite (hkeep _) hdrop) <| .ite (.ite (hkeep _) hdrop) <| .ite (.ite hdrop (hkeep _)) <| .ite hdrop h

/-! ### What `Machine/Commands.lean` keeps -/

theorem MemOk.cmdDone {s : State} {st res : Nat} (h : MemOk s) : MemOk (s.cmdDone st res) := h

theorem MemOk.command {s : State} {code : Nat} {checks : List (Nat × Bool)} {go : Result} (h : MemOk s) (hgo : ResultOk go) :
    ResultOk (s.command code checks go) := by
  unfold State.command
  split
  · exact h
  split
  · exact h.cmdDone
  · exact hgo

theorem MemOk.execQcreate {s : State} (h : MemOk s) : ResultOk (execQcreate s) := by
  dsimp only [Machine.execQcreate]
  refine MemOk.command h ?_
  split
  · exact h.cmdDone
  · exact MemOk.cmdDone h

theorem MemOk.execQdestroy {s : State} (h : MemOk s) : ResultOk (execQdestroy s) := by
  dsimp only [Machine.execQdestroy]
  refine MemOk.command h ?_
  split
  · exact h.cmdDone
  split
  · exact h.cmdDone
  · exact MemOk.cmdDone h

theorem MemOk.mapPagesFrom {m : MapCmd} {n k : Nat} {s : State} (h : MemOk s) : MemOk (State.mapPagesFrom m n k s).1 := by
  induction n generalizing k s with
  | zero => exact h
  | succ n ih =>
    unfold State.mapPagesFrom
    dsimp only
    split
    · exact ih h
    split
    · exact ih (Memory_clearRange_wf _ _ _ h)
    · exact h

theorem MemOk.execMapPages {s : State} (h : MemOk s) : ResultOk (execMapPages s) := by
  dsimp only [Machine.execMapPages]
  refine MemOk.command h ?_
  split
  · exact h.cmdDone
  split
  · exact h
  split
  · exact h.mapPagesFrom.cmdDone
  · exact h.cmdDone

theorem MemOk.execMapWaitTimeout {s : State} (h : MemOk s) : ResultOk (execMapWaitTimeout s) := by
  dsimp only [Machine.execMapWaitTimeout]
  split
  · exact h.cmdDone
  · exact h

theorem MemOk.execUnmap {s : State} (h : MemOk s) : ResultOk (execUnmap s) := by
  unfold Machine.execUnmap
  extract_lets +onlyGivenNames asid lo n
  refine MemOk.command h ?_
  extract_lets +onlyGivenNames hit whole
  split
  · exact h.cmdDone
  split
  · exact h
  extract_lets +onlyGivenNames s1 isHost s2
  have h1 : MemOk s1 := h.foldl (fun _ _ h1 => h1.failPage)
  clear_value s1
  have h2 : MemOk s2 := by
    refine List.foldlRecOn (motive := fun m : Memory => m.wf = true) _ _ h1 (fun m hm p _ => ?_)
    split
    · exact hm
    · exact Memory_clearRange_wf _ _ _ hm
  exact h2.cmdDone

theorem MemOk.execCoload {s : State} (h : MemOk s) : ResultOk (execCoload s) := by
  dsimp only [Machine.execCoload]
  refine MemOk.command h ?_
  split
  · exact h.cmdDone
  split
  · exact h.cmdDone
  · exact MemOk.cmdDone (MemOk.of_mem_eq rfl (h.foldl (fun _ _ h1 => h1.putVa)))

theorem MemOk.execCounload {s : State} (h : MemOk s) : ResultOk (execCounload s) := by
  dsimp only [Machine.execCounload]
  refine MemOk.command h ?_
  split
  · exact h.cmdDone
  · exact MemOk.cmdDone h

theorem MemOk.execTresume {s : State} (h : MemOk s) : ResultOk (execTresume s) := by
  dsimp only [Machine.execTresume]
  refine MemOk.command h ?_
  split
  · split
    · exact h.updTeam.cmdDone
    · exact h.cmdDone
  · exact h.cmdDone

theorem MemOk.execTstop {s : State} (h : MemOk s) : ResultOk (execTstop s) := by
  dsimp only [Machine.execTstop]
  refine MemOk.command h ?_
  split
  · split
    · exact h.dropMove.updTeam.cmdDone
    · exact h.dropMove.updTeam.cmdDone
    · exact h.updTeam.cmdDone
    · exact h.updTeam.event.cmdDone
    · exact h.cmdDone
  · exact h.cmdDone

theorem MemOk.execResync {s : State} (h : MemOk s) : ResultOk (execResync s) := by
  dsimp only [Machine.execResync]
  refine MemOk.command h ?_
  split
  · exact h.putVa.cmdDone
  refine MemOk.cmdDone ?_
  split
  · exact MemOk.of_mem_eq rfl h.putVa
  · exact h.putVa

theorem MemOk.setReady {s : State} {bit : Nat} {on : Bool} (h : MemOk s) : MemOk (s.setReady bit on) := by
  dsimp only [State.setReady]
  split
  all_goals
    split
    · exact h
    · exact MemOk.event h

theorem MemOk.setComplex {s : State} {active : Bool} {c : Machine.Complex} (h : MemOk s) : MemOk (s.setComplex active c) := by
  dsimp only [State.setComplex]
  split <;> exact h

theorem MemOk.execFwupdate {s : State} (h : MemOk s) : ResultOk (execFwupdate s) := by
  dsimp only [Machine.execFwupdate]
  refine MemOk.command h ?_
  split
  · exact h.cmdDone
  split
  · exact h.cmdDone
  split
  · exact h.log.cmdDone
  split
  · exact h.log.setReady.cmdDone
  · exact MemOk.cmdDone (MemOk.setReady (MemOk.of_mem_eq rfl h.setComplex.setComplex))

theorem MemOk.pinRange {s : State} {asid lo n : Nat} {on : Bool} (h : MemOk s) : MemOk (s.pinRange asid lo n on) := h

theorem MemOk.bringRange {s : State} {asid lo n : Nat} (h : MemOk s) : OptOk (s.bringRange asid lo n) := h.hostBringAll

theorem MemOk.dropArea {s : State} {n : Nat} (h : MemOk s) : MemOk (s.dropArea n) := by
  dsimp only [State.dropArea]
  split
  · exact MemOk.of_mem_eq rfl (h.pinRange.foldl (fun _ _ h1 => h1.pinRange))
  · exact h

theorem MemOk.execIngset {s : State} (h : MemOk s) : ResultOk (execIngset s) := by
  unfold Machine.execIngset
  extract_lets +onlyGivenNames g
  refine MemOk.command h ?_
  extract_lets +onlyGivenNames s1
  have h1 : MemOk s1 := h.dropArea
  clear_value s1
  split
  · exact h1.cmdDone
  split
  next s2 heq =>
    have h2 : MemOk s2 := h1.bringRange.some heq
    extract_lets +onlyGivenNames s3
    have h3 : MemOk s3 := h2.pinRange
    clear_value s3
    exact MemOk.cmdDone h3
  · exact h.cmdDone

theorem MemOk.execUnassignedCommand {s : State} (h : MemOk s) : ResultOk (execUnassignedCommand s) := h.when h.cmdDone

/-! ### What `Machine/Outside.lean` keeps -/

theorem MemOk.bump {s : State} {asid va : Nat} (h : MemOk s) : MemOk (s.bump asid va) := h.putPkg

theorem MemOk.post {s : State} {g : Ingress} {stamp slotVa fno : Nat} (h : MemOk s) : MemOk (s.post g stamp slotVa fno) := by
  dsimp only [State.post]
  split
  · exact h
  split
  · exact h.bump
  split
  · exact h.bump
  · exact MemOk.of_mem_eq rfl h.putPkg

theorem MemOk.store {s : State} {g : Ingress} {port stamp : Nat} {frame : List Byte} (h : MemOk s) : MemOk (s.store g port stamp frame) := by
  dsimp only [State.store]
  split
  · exact h.bump
  split
  · refine MemOk.post ?_
    refine MemOk.of_mem_eq rfl ?_
    refine MemOk.putPkg ?_
    split
    all_goals
      split
      · exact h.putPkg.bump
      · exact h.putPkg
  refine MemOk.of_mem_eq rfl ?_
  refine MemOk.putPkg ?_
  split
  all_goals
    split
    · exact h.putPkg.bump
    · exact h.putPkg

theorem MemOk.execFrameReceive {port stamp : Nat} {frame : List Byte} {s : State} (h : MemOk s) : ResultOk (execFrameReceive port stamp frame s) := by
  dsimp only [Machine.execFrameReceive]
  split
  · exact h
  split
  · exact h.store
  · exact h

theorem MemOk.execPtpMessage {action : PtpAction} {s : State} (h : MemOk s) : ResultOk (execPtpMessage action s) := by
  dsimp only [Machine.execPtpMessage]
  split
  · exact h
  · exact h.when (MemOk.setReady h)
  · exact h.when h

theorem MemOk.restartPages {s : State} {pkg since : Nat} (h : MemOk s) : MemOk (s.restartPages pkg since) := h

theorem MemOk.mapSplits {s : State} {f : Team → Nat → Nat → Split → Split} (h : MemOk s) : MemOk (s.mapSplits f) := h

theorem MemOk.releasePeer {s : State} {pkg since : Nat} (h : MemOk s) : MemOk (s.releasePeer pkg since) := h.restartPages.mapSplits.settleEntries

theorem MemOk.execLinkReady {link peerPackage peerLink : Nat} {s : State} (h : MemOk s) : ResultOk (execLinkReady link peerPackage peerLink s) := by
  dsimp only [Machine.execLinkReady]
  split
  · split
    · split
      all_goals
        split
        · exact MemOk.setReady (MemOk.setReady (MemOk.releasePeer h))
        · exact MemOk.setReady (MemOk.releasePeer h)
    split
    all_goals
      split
      · exact MemOk.setReady (MemOk.setReady h)
      · exact MemOk.setReady h
  · exact h

theorem MemOk.execLinkDown {link : Nat} {s : State} (h : MemOk s) : ResultOk (execLinkDown link s) := by
  dsimp only [Machine.execLinkDown]
  split
  · exact MemOk.setReady (MemOk.setReady h)
  · exact h

theorem MemOk.deliverOrHold {s : State} {r : Raise} {fa : FaultAt} (h : MemOk s) : MemOk (s.deliverOrHold r fa) := by
  dsimp only [State.deliverOrHold]
  split
  · exact h
  split
  all_goals
    split
    · exact h.deliver
    split
    · exact h
    · exact h.updSplit

theorem MemOk.loseRequest {s : State} {q : FaceReq} (h : MemOk s) : MemOk (s.loseRequest q) := by
  dsimp only [State.loseRequest]
  split
  · exact h.dropFace
  refine MemOk.deliverOrHold ?_
  split
  · exact h
  · exact MemOk.updTeam h

theorem MemOk.resetPeer {s : State} {pkg since : Nat} (h : MemOk s) : MemOk (s.resetPeer pkg since) := by
  dsimp only [State.resetPeer]
  refine MemOk.settleEntries ?_
  refine MemOk.foldl (MemOk.mapSplits h) ?_
  intro _ _ h1
  split
  · exact h1.loseRequest
  · exact h1

theorem MemOk.execPeerSilentTimeout {package : Nat} {s : State} (h : MemOk s) : ResultOk (execPeerSilentTimeout package s) := by
  dsimp only [Machine.execPeerSilentTimeout]
  split
  · exact h.when h.resetPeer
  · exact h

theorem MemOk.execRecoveryNotice {package : Nat} {s : State} (h : MemOk s) : ResultOk (execRecoveryNotice package s) := h.when h

theorem MemOk.execDoneNotice {package : Nat} {kept : Bool} {s : State} (h : MemOk s) : ResultOk (execDoneNotice package kept s) := by
  dsimp only [Machine.execDoneNotice]
  split
  · split
    · exact MemOk.releasePeer h
    · exact h.resetPeer
  · exact h

theorem MemOk.execDoneNoticeTimeout {package : Nat} {s : State} (h : MemOk s) : ResultOk (execDoneNoticeTimeout package s) := by
  dsimp only [Machine.execDoneNoticeTimeout]
  split
  · exact h.when h.resetPeer
  · exact h

theorem MemOk.setClock {s : State} {mhz : Nat} (h : MemOk s) : MemOk (s.setClock mhz) := h

theorem MemOk.execPowerClockDown {milliwatts : Nat} {s : State} (h : MemOk s) : ResultOk (execPowerClockDown milliwatts s) := h.when h.setClock

theorem MemOk.execPowerClockUp {milliwatts : Nat} {s : State} (h : MemOk s) : ResultOk (execPowerClockUp milliwatts s) := h.when h.setClock

theorem MemOk.packageReset {s : State} (h : MemOk s) : MemOk s.packageReset := Tab_filter_wfFrom unlisted _ _ 0 h

theorem MemOk.execPackageReset {s : State} (h : MemOk s) : ResultOk (execPackageReset s) := h.packageReset

theorem MemOk.execUnitReady {bit : Nat} {s : State} (h : MemOk s) : ResultOk (execUnitReady bit s) := by
  dsimp only [Machine.execUnitReady]
  split
  · exact h
  split
  · split
    · exact MemOk.setReady (MemOk.of_mem_eq rfl h.setReady.setComplex)
    · exact MemOk.of_mem_eq rfl h.setReady.setComplex
  · exact MemOk.releaseBells (MemOk.of_mem_eq rfl h.setReady)
  · split
    · exact MemOk.event (MemOk.of_mem_eq rfl h.setReady.setComplex)
    · exact h.setReady.setComplex
  · exact h.setReady

theorem MemOk.execReadyDeadline {bit : Nat} {s : State} (h : MemOk s) : ResultOk (execReadyDeadline bit s) := h.when h

theorem MemOk.takeover {s : State} (h : MemOk s) : MemOk s.takeover := by
  dsimp only [State.takeover]
  split
  · exact h.packageReset
  split
  all_goals
    split
    · exact MemOk.cmdDone (MemOk.event (MemOk.log (MemOk.of_mem_eq rfl h.setComplex.setReady)))
    · exact MemOk.event (MemOk.log (MemOk.of_mem_eq rfl h.setComplex.setReady))

theorem MemOk.execHeartbeatLoss {s : State} (h : MemOk s) : ResultOk (execHeartbeatLoss s) := h.when h.takeover

theorem MemOk.execActiveFailureReport {s : State} (h : MemOk s) : ResultOk (execActiveFailureReport s) := h.when h.takeover

theorem MemOk.execStandbyReboot {s : State} (h : MemOk s) : ResultOk (execStandbyReboot s) := h.when h.setComplex.setReady

theorem MemOk.execStandbyComplexFailure {s : State} (h : MemOk s) : ResultOk (execStandbyComplexFailure s) := h.when h.setComplex.setReady

/-! ### What `Machine/Dispatch.lean` keeps -/

theorem MemOk.exec {i : Instr} {s : State} (h : MemOk s) : ResultOk (exec i s) := by
  dsimp only [Machine.exec]
  split
  · exact h.execAdd
  · exact h.execSub
  · exact h.execMul
  · exact h.execMulhi
  · exact h.execMad
  · exact h.execDiv
  · exact h.execRem
  · exact h.execMin
  · exact h.execMax
  · exact h.execAbs
  · exact h.execNeg
  · exact h.execDp4
  · exact h.execLea
  · exact h.execAnd
  · exact h.execOr
  · exact h.execXor
  · exact h.execNot
  · exact h.execShl
  · exact h.execShr
  · exact h.execSar
  · exact h.execRotl
  · exact h.execPopc
  · exact h.execClz
  · exact h.execBrev
  · exact h.execBfx
  · exact h.execBfi
  · exact h.execMov
  · exact h.execMovi
  · exact h.execSel
  · exact h.execSetp
  · exact h.execPand
  · exact h.execPor
  · exact h.execPxor
  · exact h.execPnot
  · exact h.execFadd
  · exact h.execFsub
  · exact h.execFmul
  · exact h.execFfma
  · exact h.execFmin
  · exact h.execFmax
  · exact h.execFabs
  · exact h.execFneg
  · exact h.execFdiv
  · exact h.execFsqrt
  · exact h.execFrcp
  · exact h.execFrsq
  · exact h.execFex2
  · exact h.execFlg2
  · exact h.execFscale
  · exact h.execFsetp
  · exact h.execFclass
  · exact h.execFrnd
  · exact h.execFcvt
  · exact h.execF2i
  · exact h.execI2f
  · exact h.execFadd2
  · exact h.execFmul2
  · exact h.execFfma2
  · exact h.execFdot2
  · exact h.execRdsr
  · exact h.execElect
  · exact h.execVote
  · exact h.execMatchLanes
  · exact h.execShfl
  · exact h.execRedux
  · exact h.execScan
  · exact h.execBra
  · exact h.execBrx
  · exact h.execCall
  · exact h.execCallx
  · exact h.execRet
  · exact h.execJoin
  · exact h.execExit
  · exact h.execYield
  · exact h.execNsleep
  · exact h.execWaita
  · exact h.execBar
  · exact h.execBarar
  · exact h.execBarwt
  · exact h.execSetfmt
  · exact h.execGetfmt
  · exact h.execLd
  · exact h.execSt
  · exact h.execLdu
  · exact h.execAtom
  · exact h.execCas
  · exact h.execAqadd
  · exact h.execFence
  · exact h.execPref
  · exact h.execFgath
  · exact h.execCodeload
  · exact h.execHcopy
  · exact h.execHcopyCk
  · exact h.execHtens
  · exact h.execHtensSt
  · exact h.execHgath
  · exact h.execHscat
  · exact h.execHred
  · exact h.execHmcast
  · exact h.execHfill
  · exact h.execHwait
  · exact h.execHtest
  · exact h.execCkpack
  · exact h.execCkpackUnpk
  · exact h.execCkver
  · exact h.execCkinfo
  · exact h.execMma
  · exact h.execMmaRa
  · exact h.execAccz
  · exact h.execAccld
  · exact h.execAccst
  · exact h.execAccmax
  · exact h.execAccanc
  · exact h.execTri
  · exact h.execXcut
  · exact h.execAsstSt
  · exact h.execAsstTol
  · exact h.execAsstClr
  · exact h.execTrap
  · exact h.execTvec
  · exact h.execTret
  · exact h.execMig
  · exact h.execQuery
  · exact h.execQkind
  · exact h.execChksig
  · exact h.execSigset
  · exact h.execLaunch
  · exact h.execPtime
  · exact h.execPrfrd
  · exact h.execBrkpt
  · exact h.execLoop
  · exact h.execRrbset
  · exact h.execCmt
  · exact h.execEqp
  · exact h.execMovx
  · exact h.execSigadv
  · exact h.execNop
  · exact h.execExposedResultLand
  · exact h.execLoadResultArrive
  · exact h.execTailingLand
  · exact h.execNsleepWake
  · exact h.execWaitaWake
  · exact h.execCodeloadDone
  · exact h.execCkverDone
  · exact h.execHaulChunk
  · exact h.execChunkHop
  · exact h.execChunkReduction
  · exact h.execHeldWriteRelease
  · exact h.execHaulJobComplete
  · exact h.execFaceUnitOperation
  · exact h.execL1Eviction
  · exact h.execPageMoveToHbm
  · exact h.execPageMigrationComplete
  · exact h.execMigrationTimeout
  · exact h.execEccError
  · exact h.execTeamRetire
  · exact h.execMaskWatchdogExpiry
  · exact h.execWaitWatchdogExpiry
  · exact h.execBudgetOverrun
  · exact h.execNoopPacket
  · exact h.execLaunchPacket
  · exact h.execCallPacket
  · exact h.execJoinPacket
  · exact h.execSignalPacket
  · exact h.execUnassignedPacket
  · exact h.execTaskAdmit
  · exact h.execTiarloTranslate
  · exact h.execLodePeerQuery
  · exact h.execLodePeerReply
  · exact h.execLodePeerTimeout
  · exact h.execReoptimise
  · exact h.execTeamPlace
  · exact h.execPreload
  · exact h.execPreloadSwitch
  · exact h.execNativeSuspend
  · exact h.execVirtualPreciseStop
  · exact h.execTeamResume
  · exact h.execDispatcherMoveRequest
  · exact h.execDispatcherMoveLapse
  · exact h.execDoorbell
  · exact h.execBar2Read
  · exact h.execBar2Write
  · exact h.execPtpsec
  · exact h.execEvhead
  · exact h.execInjctl
  · exact h.execBar4RegisterWrite
  · exact h.execQcreate
  · exact h.execQdestroy
  · exact h.execMapPages
  · exact h.execUnmap
  · exact h.execCoload
  · exact h.execCounload
  · exact h.execTresume
  · exact h.execTstop
  · exact h.execResync
  · exact h.execFwupdate
  · exact h.execIngset
  · exact h.execUnassignedCommand
  · exact h.execFrameReceive
  · exact h.execPtpMessage
  · exact h.execLinkReady
  · exact h.execLinkDown
  · exact h.execPeerSilentTimeout
  · exact h.execRecoveryNotice
  · exact h.execDoneNotice
  · exact h.execDoneNoticeTimeout
  · exact h.execPowerClockDown
  · exact h.execPowerClockUp
  · exact h.execPackageReset
  · exact h.execUnitReady
  · exact h.execReadyDeadline
  · exact h.execHeartbeatLoss
  · exact h.execActiveFailureReport
  · exact h.execStandbyReboot
  · exact h.execMapWaitTimeout
  · exact h.execPcieCompletionTimeout
  · exact h.execStandbyComplexFailure
  · exact h.execPreloadDropped

/-! ### What `Machine/TileOrder.lean` keeps -/

theorem MemOk.meetTiles {o : Op} {f : Form} {s : State} (h : MemOk s) : MemOk (State.meetTiles o f s) := by
  dsimp only [State.meetTiles]
  split
  · exact h
  split
  · exact h
  split
  · exact h.updTeam
  · split <;> exact h

theorem MemOk.leaveTiles {o : Op} {f : Form} {s u : State} (h1 : MemOk u) : MemOk (State.leaveTiles o f s u) := by
  dsimp only [State.leaveTiles]
  split
  · split
    · split
      · exact h1
      · split <;> exact h1
    · exact h1
  · exact h1

/-! ### What `Machine/Issue.lean` keeps -/

theorem MemOk.ordered {o : Op} {f : Form} {s : State} (h : MemOk s) : ResultOk (State.ordered o f s) := by
  dsimp only [State.ordered]
  split
  next _ _ heq => exact (h.meetTiles.exec.next heq).leaveTiles
  · trivial
  · trivial

theorem MemOk.standClocks {s : State} {d : Nat} (h : MemOk s) : MemOk (s.standClocks d) := by
  dsimp only [State.standClocks]
  split
  · exact h.mapSplits
  · exact h

theorem MemOk.tickTime {s : State} (h : MemOk s) : MemOk s.tickTime := MemOk.of_mem_eq rfl h.standClocks

theorem MemOk.setSel {s : State} {c : CoreId} {q : Nat} {x : Option (Nat × Nat × Nat)} (h : MemOk s) : MemOk (s.setSel c q x) := h.setCore

theorem MemOk.raiseJv {s : State} {t : Team} {gang k : Nat} {sp : Split} {r : Raise} (h : MemOk s) : MemOk (s.raiseJv t gang k sp r) := h.deliver

theorem MemOk.runWords {s : State} {t : Team} {gang k : Nat} {sp : Split} {ws : List Word} (h : MemOk s) : ResultOk (s.runWords t gang k sp ws) := by
  dsimp only [State.runWords]
  split
  · exact MemOk.ordered h
  · exact h.raiseJv

theorem MemOk.sigCheck {s : State} {t : Team} {gang k : Nat} {sp : Split} (h : MemOk s) : OptOk (s.sigCheck t gang k sp) := by
  dsimp only [State.sigCheck]
  split
  · exact MemOk.raiseJv h
  · trivial

theorem MemOk.runJv {s : State} {t : Team} {gang k : Nat} {sp : Split} (h : MemOk s) : ResultOk (s.runJv t gang k sp) := by
  dsimp only [State.runJv]
  split
  next _ _ heq => exact (h.sigCheck.some heq)
  split
  · refine MemOk.runWords ?_
    split <;> exact h
  refine MemOk.raiseJv ?_
  split <;> exact h

theorem MemOk.unlatch {s : State} {c : Cur} (h : MemOk s) : MemOk (s.unlatch c) := by
  dsimp only [State.unlatch]
  split
  · exact h.updSplit
  · exact h

theorem MemOk.runSlot {s : State} {c : Cur} {o : Op} {f : NatForm} (h : MemOk s) : MemOk (s.runSlot c o f) := by
  unfold State.runSlot
  split
  next heq => exact (MemOk.ordered (s := { s with cur := some c }) h).next heq
  · exact h

theorem MemOk.flushGated {s : State} {c : Cur} (h : MemOk s) : MemOk (s.flushGated c) := by
  unfold State.flushGated
  split
  next heq => exact (MemOk.openView (s := { s with cur := some c }) h heq).flush.close
  · exact h

theorem MemOk.runSlots {c : Cur} {l : List SlotOp} {s : State} (h : MemOk s) : MemOk (State.runSlots c l s).1 := by
  induction l generalizing s with
  | nil => exact h
  | cons x l ih =>
    unfold State.runSlots
    split
    · exact h
    · exact ih h
    dsimp only
    split
    · exact h.runSlot
    split
    · exact ih h.runSlot.updSplit
    · exact ih h.runSlot

theorem MemOk.runS {s : State} {c : Cur} {held : BitVec 6} {n1 : Nat} {o : Op} {f : NatForm} (h : MemOk s) : MemOk (s.runS c held n1 o f) := by
  dsimp only [State.runS]
  split
  · split
    · exact h.runSlot
    · exact h.updSplit.runSlot.updSplit
  refine MemOk.updSplit ?_
  split
  · exact h.runSlot
  · exact h.updSplit.runSlot.updSplit

theorem MemOk.aliasConflict {s : State} {c : Cur} {safe : Nat} (h : MemOk s) : MemOk (s.aliasConflict c safe) := h.updTeam

theorem MemOk.bundleRaise {s : State} {c : Cur} {sp : Split} {r : Raise} {slot : Nat} {record : Option Record} (h : MemOk s) :
    MemOk (s.bundleRaise c sp r slot record) := by
  dsimp only [State.bundleRaise]
  split
  · exact h.aliasConflict
  · exact h.deliver

theorem MemOk.keepTiles {s s1 : State} {c : Cur} (h : MemOk s) : MemOk (s.keepTiles s1 c) := by
  dsimp only [State.keepTiles]
  split
  · split
    · exact h
    · exact h.updSplit
  · exact h

theorem MemOk.tryBundle {s : State} {c : Cur} {o : Op} {f : NatForm} {rest : List SlotOp} {pc fall : Nat} (h : MemOk s) :
    MemOk (s.tryBundle c o f rest pc fall).1 := by
  dsimp only [State.tryBundle]
  split
  · split
    · exact h
    split
    · exact h.keepTiles
    · exact h.runSlots.runSlots
  split
  · exact h.keepTiles
  split
  · exact h.keepTiles
  split
  all_goals
    refine MemOk.runS ?_
    split
    · exact h
    · exact h.runSlots

theorem MemOk.awaitLoads {s : State} {c : Cur} (h : MemOk s) : MemOk (s.awaitLoads c) := by
  dsimp only [State.awaitLoads]
  split
  · split
    · exact h
    · exact h.tickCore.updTeam
  · exact h

theorem MemOk.stageAt {s : State} {c : Cur} {i : Nat} (h : MemOk s) : MemOk (s.stageAt c i) := h.updSplit

theorem MemOk.performLate {c : Cur} {bundle : Nat} {l : List SlotOp} {s : State} (h : MemOk s) : MemOk (State.performLate c bundle l s) := by
  induction l generalizing s with
  | nil => exact h
  | cons x l ih =>
    unfold State.performLate
    split
    · split
      · exact ih h
      split
      · exact h
      dsimp only
      split
      · exact h.runSlot.updSplit.stageAt.bundleRaise
      · exact h.runSlot.stageAt
      split
      · exact h.runSlot.stageAt
      · exact ih h.runSlot.unlatch.flushGated.stageAt
    · exact ih h

theorem MemOk.commitStage {s : State} {c : Cur} {o : Op} {st : Stage} (h : MemOk s) : MemOk (s.commitStage c o st) := by
  unfold State.commitStage
  split
  · exact h
  next v heq =>
  have hv : MemOk v.s := MemOk.openView (s := { s with cur := some c }) h heq
  extract_lets only w0 w
  refine MemOk.close (v := { w with sp := _ }) ?_
  show MemOk w.s
  unfold w
  split
  · exact hv.commit.endInterval
  · exact hv.commit

theorem MemOk.snapMoved {s0 s1 t : State} {c : Cur} (h : MemOk s1) (e : State.snapMoved s0 s1 c = .ok t) : MemOk t := by
  have hs : MemOk.OfOk (State.snapMoved s0 s1 c) := by
    unfold State.snapMoved
    split
    · split
      · refine iteInduction (fun _ => h) (fun _ => ?_)
        refine List.foldlRecOn (motive := MemOk.OfOk) _ _ h (fun r hr k _ => ?_)
        split
        · trivial
        · refine iteInduction (fun _ => ?_) (fun _ => hr)
          split
          · trivial
          · exact MemOk.updSplit hr
      · exact h
    · exact h
  rw [e] at hs
  exact hs

theorem MemOk.endCommit {s : State} {c : Cur} {o : Op} {f : NatForm} {st : Stage} (h : MemOk s) : MemOk (s.endCommit c o f st) := by
  unfold State.endCommit
  split
  · exact h.runSlot.updSplit
  extract_lets s1 s2
  have h1 : MemOk s1 := by
    unfold s1
    split
    · exact h
    · exact h.commitStage
  split
  · exact h1.updSplit.runSlot
  split
  next s3 heq => exact (h1.runSlot.snapMoved heq).updSplit
  · exact (h1.runSlot (c := c) (o := o) (f := f)).updSplit.bundleRaise

theorem MemOk.stepCommit {s : State} {c : Cur} {o : Op} {f : NatForm} {rest : List SlotOp} (h : MemOk s) : MemOk (s.stepCommit c o f rest) := by
  dsimp only [State.stepCommit]
  split
  · exact h
  split
  · exact h.endCommit
  split
  · exact h
  split
  · refine MemOk.performLate ?_
    split
    · exact h.awaitLoads.flushGated.updSplit
    · exact h
  split
  · split
    · exact h.awaitLoads.flushGated.updSplit.performLate
    · exact h.awaitLoads.flushGated.updSplit.performLate.endCommit
  split
  · exact h.performLate
  · exact h.performLate.endCommit

theorem MemOk.passSlot {c : Cur} {first : Bool} {late : List Nat} {start : Nat} {p : Pass} {x : SlotOp} (h : MemOk p.s) :
    MemOk (Pass.slot c first late start p x).s := by
  unfold Pass.slot
  split
  · exact h
  split
  · exact h
  split
  · split
    · exact h
    split
    · exact h
    dsimp only
    split
    · exact h
    · exact h.runSlot
    split
    · exact h.runSlot
    · exact h.runSlot.unlatch
  split
  · exact h.runSlot
  · exact h

theorem MemOk.stepBundle {s : State} {c : Cur} {o : Op} {f : NatForm} {rest : List SlotOp} {p : Pass} {bundle : Nat} (h : MemOk p.s) :
    MemOk (s.stepBundle c o f rest p bundle) := by
  dsimp only [State.stepBundle]
  split
  · exact h.bundleRaise
  split
  · exact h.stageAt
  split
  · exact h.updSplit.stepCommit
  · exact h.updSplit

theorem MemOk.passSlots {s : State} {c : Cur} {o : Op} {f : NatForm} {rest : List SlotOp} {first : Bool} {start : Nat} (h : MemOk s) :
    MemOk (s.passSlots c o f rest first start).s := by
  unfold State.passSlots
  extract_lets imp commits sp early late p
  have hp : MemOk p.s := MemOk.foldlOn Pass.s h (fun _ _ h1 => h1.passSlot)
  split
  · exact hp.runS
  · exact hp

theorem MemOk.holdIssue {s : State} {c : Cur} {w : Wait} {st : Stage} (h : MemOk s) : MemOk (s.holdIssue c w st) := by
  dsimp only [State.holdIssue]
  split
  · exact h
  · exact h.updSplit

theorem MemOk.runBundle {s : State} {t : Team} {gang k : Nat} {sp : Split} (h : MemOk s) : MemOk (s.runBundle t gang k sp) := by
  unfold State.runBundle
  extract_lets +onlyGivenNames c fall q
  split
  · exact h.bundleRaise
  split
  · exact h
  · exact h.bundleRaise
  extract_lets +onlyGivenNames a regs st0 s0 count
  have h0 : MemOk s0 := h.updSplit
  have hcount (x : State) (hx : MemOk x) : MemOk (count x) := hx.updSplit.tickCore
  clear_value s0 count
  split
  next => exact h.keepTiles.bundleRaise
  next => exact h.keepTiles.parkGang.holdIssue.tickCore
  extract_lets +onlyGivenNames next
  generalize (if implicitCommit _ _ || explicitCommit _ then _ else _ : Except Raise (Option Record)) = record
  split
  · exact h.bundleRaise
  extract_lets +onlyGivenNames p s2
  have h2 : MemOk s2 := hcount _ h0.updSplit.passSlots
  clear_value s2
  split
  · split
    · exact h.bundleRaise
    · exact MemOk.stepBundle h2
  · exact h2

theorem MemOk.resumeCommit {s : State} {t : Team} {gang k : Nat} {st : Stage} (h : MemOk s) : MemOk (s.resumeCommit t gang k st) := by
  dsimp only [State.resumeCommit]
  split
  · split
    · exact h.stepCommit
    · exact MemOk.stepBundle h.passSlots
  · exact h

theorem MemOk.issueNative {s : State} {t : Team} {r : Ready} {g : Gang} {sp : Split} (h : MemOk s) : MemOk (s.issueNative t r g sp) := by
  dsimp only [State.issueNative]
  split
  · split
    · exact h.tickCore
    split
    · exact h.tickCore
    · exact h.resumeCommit
  split
  · exact h.tickCore
  split
  · exact h.tickCore
  split
  · refine MemOk.runBundle ?_
    refine MemOk.updTeam ?_
    split
    · exact h
    · exact h.tickCore
  refine MemOk.updTeam ?_
  split
  · exact h
  · exact h.tickCore

theorem MemOk.madeAgain {s : State} {r : Ready} {was : Split} (h : MemOk s) : MemOk (s.madeAgain r was) := by
  dsimp only [State.madeAgain]
  split
  · exact h.updSplit
  · exact h

theorem MemOk.issueCtx {s : State} {r : Ready} (h : MemOk s) : ResultOk (s.issueCtx r) := by
  dsimp only [State.issueCtx]
  split
  · exact h
  split
  · exact h
  split
  · exact h
  split
  · refine MemOk.madeAgain ?_
    refine MemOk.issueNative ?_
    split
    · refine MemOk.updTeam ?_
      split
      · exact h
      · exact h.updSplit
    split
    · exact h
    · exact h.updSplit
  split
  · split
    · split
      · exact h.updTeam.tickCore
      split
      · exact h.updTeam.updSplit
      split
      next _ _ heq => exact (h.updTeam.tickCore.runJv.next heq).madeAgain
      · trivial
      · trivial
    split
    · exact h.updSplit.updTeam.tickCore
    split
    · exact h.updSplit.updTeam.updSplit
    split
    next _ _ heq => exact (h.updSplit.updTeam.tickCore.runJv.next heq).madeAgain
    · trivial
    · trivial
  split
  · split
    · exact h.tickCore
    split
    · exact h.updSplit
    split
    next _ _ heq => exact (h.tickCore.runJv.next heq).madeAgain
    · trivial
    · trivial
  split
  · exact h.updSplit.tickCore
  split
  · exact h.updSplit.updSplit
  split
  next _ _ heq => exact (h.updSplit.tickCore.runJv.next heq).madeAgain
  · trivial
  · trivial

theorem MemOk.parkEqp {s : State} {r : Ready} {op : Option Op} (h : MemOk s) : MemOk (s.parkEqp r op) := by
  dsimp only [State.parkEqp]
  split
  · split
    · exact h.updSplit
    · exact h
  · exact h

theorem MemOk.switch {s : State} {r : Ready} {native : Bool} {x : Issued} (h : MemOk s) : MemOk (s.switch r native x) := by
  dsimp only [State.switch]
  split
  · split
    · exact h.setSel.updSplit
    split
    · exact h.setSel.updSplit
    · exact h
  · exact h.setSel

theorem MemOk.select {s : State} {r : Ready} (h : MemOk s) : MemOk (s.select r) := h.tickCore.setSel.updSplit

theorem MemOk.afterIssue {s : State} {r : Ready} {native : Bool} {x : Issued} (h : MemOk s) : MemOk (s.afterIssue r native x) :=
  MemOk.tickTime (MemOk.switch (MemOk.settleEntries (MemOk.settleMove (MemOk.settleMig (MemOk.parkEqp h)))))

theorem MemOk.runCtx {s : State} {r : Ready} {selected : Bool} (h : MemOk s) : ResultOk (s.runCtx r selected) := by
  unfold State.runCtx
  extract_lets s0 native op
  have h0 : MemOk s0 := by
    unfold s0
    split
    · exact h
    · exact h.select
  split
  next s1 heq => exact (h0.issueCtx.next heq).afterIssue
  · trivial
  · trivial

theorem MemOk.feedLode {r : Ready} {old new : State} (h1 : MemOk new) : MemOk (State.feedLode r old new) := by
  dsimp only [State.feedLode]
  split
  · split
    · split
      · exact h1
      · exact h1.updTeam
    split
    · split
      · exact h1
      · exact (h1.foldl (fun _ _ h1 => h1.countAt)).updTeam
    split
    · exact h1
    split
    · exact h1.nextFree
    · exact h1.countAt.nextFree.updTeam.updSplit
  · exact h1

theorem MemOk.happen {s : State} {i : Instr} (h : MemOk s) : ResultOk (s.happen i) := by
  dsimp only [State.happen]
  split
  next _ _ heq => exact ((h.exec.next heq).settleEntries).tickTime
  · trivial
  · trivial

theorem MemOk.issueOne {s : State} {x : Ready × Bool} (h : MemOk s) : ResultOk (s.issueOne x) := by
  dsimp only [State.issueOne]
  split
  next _ _ heq => exact (h.runCtx.next heq).feedLode
  · trivial
  · trivial

theorem MemOk.advanceOnce {s : State} (h : MemOk s) : ResultOk s.advanceOnce := by
  dsimp only [State.advanceOnce]
  split
  · split
    · exact MemOk.issueOne h
    split
    · exact MemOk.happen h
    · exact MemOk.tickTime h
  split
  · exact MemOk.happen h
  split
  · exact MemOk.issueOne h
  · exact MemOk.tickTime h

theorem MemOk.chooseStep {s : State} (h : MemOk s) : ResultOk s.chooseStep := by
  unfold State.chooseStep
  split
  next i r _ =>
    have hx : ResultOk (Machine.exec i { s with agenda := r, cur := none }) := MemOk.exec h
    split
    next heq => exact (hx.next heq).settleEntries
    · trivial
    · trivial
  · split
    · exact h.happen
    · exact h.advanceOnce

theorem MemOk.stampReady {s : State} (h : MemOk s) : MemOk s.stampReady := by
  dsimp only [State.stampReady]
  refine MemOk.foldl h ?_
  intro _ _ h1
  split
  · exact h1
  refine MemOk.foldl h1 ?_
  intro _ _ h2
  refine MemOk.foldl h2 ?_
  intro _ _ h3
  split
  · exact h3
  split
  · exact h3
  · exact h3.updSplit

theorem MemOk.finishMoves {old new : State} (h1 : MemOk new) : MemOk (old.finishMoves new) :=
  h1.foldl (fun _ _ h1 => h1.readTeam.finishMove)

theorem MemOk.stepOnce {s : State} (h : MemOk s) : ResultOk s.stepOnce := by
  dsimp only [State.stepOnce]
  split
  next _ _ heq => exact (h.chooseStep.next heq).finishMoves.settleFreed.hostTurn.lookAhead.stampReady
  · trivial
  · trivial

/-! ### What `Machine/Step.lean` keeps -/

theorem MemOk.step {s : State} (h : MemOk s) : ResultOk (step s) := by
  dsimp only [Machine.step]
  exact h.stepOnce

end Sys2Proof.Safety

namespace Sys2Proof.Proofs

open Sys2Proof.Machine Sys2Proof.Safety Sys2Proof.Laws

/-- Settles O34: a step keeps the memory's form, since every function that it runs does. -/
theorem memoryStaysCanonical : Obligations.MemoryStaysCanonical := by
  unfold Obligations.MemoryStaysCanonical
  intro s t h hstep
  exact h.step.next hstep

/-- Settles O35: the memory of the reset state lists no byte. -/
theorem memoryIsCanonicalAtReset : Obligations.MemoryIsCanonicalAtReset := rfl

end Sys2Proof.Proofs

/-! PROOFS. Stores of bytes: what a store within a page, within a line that the L1 holds and at the home slice leaves (R80, R82, R85, R260, R261). -/

namespace Sys2Proof.Proofs

open Sys2Proof.Machine Sys2Proof.Safety Sys2Proof.Laws

/-! ## A store within one page -/

section PageStore

variable {s : State} {asid va : Nat} {bs : List Byte} {p : Page}

theorem putVa_within_page (hp : s.page? asid va = some p) (hfit : va + bs.length ≤ p.vbase + p.size) :
    s.putVa asid va bs = s.putBytes (p.flat va) bs := by
  rw [State.putVa, hp]
  exact if_pos hfit

theorem vaBytes_within_page {n : Nat} (hp : s.page? asid va = some p) (hfit : va + n ≤ p.vbase + p.size) :
    s.vaBytes asid va n = s.mem.readN (p.flat va) n := by
  rw [State.vaBytes, hp]
  exact if_pos hfit

theorem page?_congr {t : State} (h : t.pages = s.pages) (asid va : Nat) : t.page? asid va = s.page? asid va := by
  rw [State.page?, State.page?, h]

theorem readN_writeN_same {m : Memory} (a : Nat) (hm : m.wf = true) : (m.writeN a bs).readN a bs.length = bs := by
  refine List.ext_getElem (by simp [Memory.readN]) (fun i h1 h2 => ?_)
  simp only [Memory.readN, List.getElem_map, List.getElem_range]
  exact Memory_read_writeN_same bs m a i hm h2

/-- Settles O36: within a page `putVa` is one run of bytes at the page's frame, which reads back. -/
theorem storedBytesReadBack : Obligations.StoredBytesReadBack := by
  unfold Obligations.StoredBytesReadBack
  intro s asid va bs p hm hp hfit
  have hp' : (s.putBytes (p.flat va) bs).page? asid va = some p := by rw [page?_congr (putBytes_pages ..), hp]
  rw [putVa_within_page hp hfit, vaBytes_within_page hp' hfit]
  exact ⟨readN_writeN_same _ hm, fun x hx => Memory_read_writeN_other bs _ _ x hm hx⟩

end PageStore

/-! ## The cores' table and the lines of one core -/

theorem find?_updFirst_same {α : Type} {p : α → Bool} {f : α → α} {l : List α} (hf : ∀ x, p x = true → p (f x) = true) :
    (updFirst p f l).find? p = (l.find? p).map f := by
  induction l with
  | nil => rfl
  | cons x r ih =>
    rw [updFirst]
    cases hx : p x with
    | true => simp [hf x hx, hx]
    | false => simp [hx, ih]

theorem find?_updFirst_other {α : Type} {p q : α → Bool} {f : α → α} {l : List α} (h : ∀ x, p x = true → q x = false ∧ q (f x) = false) :
    (updFirst p f l).find? q = l.find? q := by
  induction l with
  | nil => rfl
  | cons x r ih =>
    rw [updFirst]
    cases hx : p x with
    | true => simp [h x hx]
    | false => simp [List.find?_cons, ih]

/-- A core that the table of cores holds carries its own name. -/
theorem coreOf_id (s : State) (c : CoreId) : (s.coreOf c).id = c := by
  rw [State.coreOf]
  cases h : s.cores.find? (fun x => x.id == c) with
  | none => rfl
  | some x => simpa using List.find?_some h

theorem coreOf_setCore_same {s : State} {x : CoreSt} {c : CoreId} (hid : x.id = c) : (s.setCore x).coreOf c = x := by
  subst hid
  rw [State.setCore]
  split
  next h =>
    have hsome : (s.cores.find? (fun y => y.id == x.id)).isSome = true := by simpa [List.find?_isSome] using h
    obtain ⟨y, hy⟩ := Option.isSome_iff_exists.mp hsome
    simp [State.coreOf, find?_updFirst_same, hy]
  next h =>
    have hnone : s.cores.find? (fun y => y.id == x.id) = none := by simpa [List.find?_eq_none] using h
    simp [State.coreOf, List.find?_append, hnone]

theorem coreOf_setCore_other {s : State} {x : CoreSt} {d : CoreId} (h : d ≠ x.id) : (s.setCore x).coreOf d = s.coreOf d := by
  rw [State.setCore]
  split
  · simp only [State.coreOf]
    rw [find?_updFirst_other]
    intro y hy
    have hid : y.id = x.id := by simpa using hy
    simp [hid, h.symm]
  · simp [State.coreOf, List.find?_append, h.symm]

/-! ## A store at the L1 -/

section LineStore

variable {s : State} {c : CoreId} {x : CoreSt} {asid va : Nat} {bs : List Byte} {l : L1Line}

/-- The line after a store of bytes from an offset in it on. -/
def storedLine (off : Nat) (bs : List Byte) (l : L1Line) : L1Line :=
  { l with poison := l.poison.filter (fun g => !((List.range 8).all (fun i => decide (off ≤ 8 * g + i) && decide (8 * g + i < off + bs.length))))
           data := l.data.take off ++ bs ++ l.data.drop (off + bs.length)
           dirty := ((List.range bs.length).map (fun i => off + i)).foldl (fun d b => if d.contains b then d else b :: d) l.dirty }

/-- The core after a store of bytes in one of its lines. -/
def storedCore (asid va : Nat) (bs : List Byte) (x : CoreSt) : CoreSt :=
  { x with l1 := updFirst (fun y => y.is asid (va / 128)) (storedLine (va % 128) bs) x.l1 }

theorem storedCore_find?_same : (storedCore asid va bs x).l1.find? (fun y => y.is asid (va / 128)) =
    (x.l1.find? (fun y => y.is asid (va / 128))).map (storedLine (va % 128) bs) :=
  find?_updFirst_same (fun _ hy => hy)

theorem storedCore_find?_other {k : Nat} (h : k ≠ va / 128) :
    (storedCore asid va bs x).l1.find? (fun y => y.is asid k) = x.l1.find? (fun y => y.is asid k) := by
  refine find?_updFirst_other (fun y hy => ?_)
  have hline : y.vline = va / 128 := by simp_all [L1Line.is]
  simp [L1Line.is, storedLine, hline, h.symm]

theorem fillLine_of_hit (h : (s.coreOf c).l1.find? (fun x => x.is asid (va / 128)) = some l) : s.fillLine c asid va = s := by
  have hany : (s.coreOf c).l1.any (fun x => x.is asid (va / 128)) = true :=
    List.any_eq_true.mpr ⟨l, List.mem_of_find?_eq_some h, by simpa using List.find?_some h⟩
  rw [State.fillLine]
  exact if_pos hany

theorem useLine_of_used (h : (s.coreOf c).l1.find? (fun x => x.is asid (va / 128)) = some l) (hl : l.prefetched = false) :
    s.useLine c asid va = s := by
  simp [State.useLine, h, hl]

/-- A store that finds its line in use changes that line and nothing else. -/
theorem nearWrite_of_hit (h : (s.coreOf c).l1.find? (fun x => x.is asid (va / 128)) = some l) (hl : l.prefetched = false) :
    s.nearWrite c asid va bs = s.setCore (storedCore asid va bs (s.coreOf c)) := by
  rw [State.nearWrite, fillLine_of_hit h, useLine_of_used h hl]
  rfl

/-- A byte outside the stored ones is the line's old one. -/
theorem storedLine_data_other {off i : Nat} (hfit : off + bs.length ≤ l.data.length) (hi : i < off ∨ off + bs.length ≤ i) :
    (storedLine off bs l).data.getD i 0 = l.data.getD i 0 := by
  simp only [storedLine, List.append_assoc, List.getD_eq_getElem?_getD]
  obtain hi | hi := hi
  · rw [List.getElem?_append_left (by simp; omega), List.getElem?_take_of_lt hi]
  · rw [List.getElem?_append_right (by simp; omega), List.getElem?_append_right (by simp; omega), List.getElem?_drop]
    congr 2
    simp
    omega

theorem storedLine_data_same {off i : Nat} (hfit : off + bs.length ≤ l.data.length) (hi : i < bs.length) :
    (storedLine off bs l).data.getD (off + i) 0 = bs[i] := by
  have hoff : (l.data.take off).length = off := by simp; omega
  simp only [storedLine, List.append_assoc, List.getD_eq_getElem?_getD]
  rw [List.getElem?_append_right (by omega), hoff, Nat.add_sub_cancel_left, List.getElem?_append_left hi, List.getElem?_eq_getElem hi,
    Option.getD_some]

theorem coreByte_of_hit (h : (s.coreOf c).l1.find? (fun x => x.is asid (va / 128)) = some l) : coreByte s c asid va = l.data.getD (va % 128) 0 := by
  rw [coreByte, h]

/-- Settles O47: the store is a change of its one line. -/
theorem lineStoreFrame : Obligations.LineStoreFrame := by
  unfold Obligations.LineStoreFrame
  intro s c asid va bs l h hused hlen hfit
  have hid : (storedCore asid va bs (s.coreOf c)).id = c := coreOf_id s c
  have hcore := coreOf_setCore_same (s := s) hid
  rw [nearWrite_of_hit h hused]
  have hhit : ((s.setCore (storedCore asid va bs (s.coreOf c))).coreOf c).l1.find? (fun x => x.is asid (va / 128)) =
      some (storedLine (va % 128) bs l) := by rw [hcore, storedCore_find?_same, h, Option.map_some]
  refine ⟨setCore_mem .., setCore_teams .., fun d hd => coreOf_setCore_other (by rw [hid]; exact hd), fun a ha => ?_, fun i hi => ?_⟩
  · by_cases hline : a / 128 = va / 128
    · rw [coreByte_of_hit (hline ▸ hhit), coreByte_of_hit (hline ▸ h)]
      exact storedLine_data_other (by omega) (by omega)
    · rw [coreByte, coreByte, hcore, storedCore_find?_other hline, State.vaByte, State.vaByte, page?_congr (setCore_pages ..), setCore_mem]
  · have hline : (va + i) / 128 = va / 128 := by omega
    have hoff : (va + i) % 128 = va % 128 + i := by omega
    rw [coreByte_of_hit (hline ▸ hhit), hoff]
    exact storedLine_data_same (by omega) hi

end LineStore

/-! ## A store at the home slice -/

section HomeStore

variable {s : State} {c : CoreId} {asid : Nat} {l : L1Line}

@[simp] theorem countUnused_mem (s : State) (l : L1Line) : (s.countUnused l).mem = s.mem := by
  rw [State.countUnused]
  split <;> rfl

@[simp] theorem countUnused_pages (s : State) (l : L1Line) : (s.countUnused l).pages = s.pages := by
  rw [State.countUnused]
  split <;> rfl

/-- Every other key reads as before, whatever the table's form. -/
theorem Tab_get_set_ne {α : Type} [DecidableEq α] (d : α) (t : Tab α) {k j : Nat} (v : α) (h : j ≠ k) : Tab.get d (Tab.set d t k v) j = Tab.get d t j := by
  induction t with
  | nil =>
    unfold Tab.set
    split <;> simp [Tab.get, h]
  | cons x r ih =>
    obtain ⟨k', v'⟩ := x
    unfold Tab.set
    split
    · split <;> simp [Tab.get, h]
    split
    next hk =>
      subst hk
      split <;> simp [Tab.get, h]
    · simp [Tab.get, ih]

theorem Memory_read_write_ne (m : Memory) {a x : Nat} (b : Byte) (h : x ≠ a) : (m.write a b).read x = m.read x :=
  Tab_get_set_ne unlisted m b h

/-- The bytes that a fold over their offsets writes are the ones at those offsets. -/
theorem read_foldl_write_other {base : Nat} {f : Nat → Byte} {offs : List Nat} {s : State} {x : Nat} (hx : ∀ b ∈ offs, x ≠ base + b) :
    (offs.foldl (fun (s : State) b => { s with mem := s.mem.write (base + b) (f b) }) s).mem.read x = s.mem.read x := by
  induction offs generalizing s with
  | nil => rfl
  | cons b r ih =>
    rw [List.foldl_cons, ih (fun b hb => hx b (List.mem_cons_of_mem _ hb))]
    exact Memory_read_write_ne _ _ (hx b List.mem_cons_self)

theorem foldl_write_pages {base : Nat} {f : Nat → Byte} {offs : List Nat} {s : State} :
    (offs.foldl (fun (s : State) b => { s with mem := s.mem.write (base + b) (f b) }) s).pages = s.pages :=
  List.foldlRecOn (motive := fun t : State => t.pages = s.pages) offs _ rfl (fun _ h _ _ => h)

@[simp] theorem writeBackLine_pages (s : State) (l : L1Line) : (s.writeBackLine l).pages = s.pages := by
  rw [State.writeBackLine]
  split
  · rfl
  split
  · rfl
  · exact foldl_write_pages

/-- A write-back changes only the dirty bytes of its line. -/
theorem writeBackLine_read_of_clean {x : Nat}
    (hx : ∀ p, s.page? l.asid (l.vline * 128) = some p → ∀ b ∈ l.dirty, x ≠ p.flat (l.vline * 128) + b) :
    (s.writeBackLine l).mem.read x = s.mem.read x := by
  rw [State.writeBackLine]
  split
  · rfl
  next p hp =>
    split
    · rfl
    · exact read_foldl_write_other (hx p hp)

@[simp] theorem dropLine_pages (s : State) (c : CoreId) (asid vline : Nat) : (s.dropLine c asid vline).pages = s.pages := by
  rw [State.dropLine]
  split
  · rfl
  · simp

/-- Dropping a line changes only the bytes of memory that were dirty in it. -/
theorem dropLine_read_of_clean {vline x : Nat}
    (hx : ∀ l ∈ (s.coreOf c).l1, l.is asid vline = true → ∀ p, s.page? asid (vline * 128) = some p → ∀ b ∈ l.dirty, x ≠ p.flat (vline * 128) + b) :
    (s.dropLine c asid vline).mem.read x = s.mem.read x := by
  rw [State.dropLine]
  split
  · rfl
  next l hl =>
    have his : l.is asid vline = true := by simpa using List.find?_some hl
    have hkey : l.asid = asid ∧ l.vline = vline := by simpa [L1Line.is] using his
    obtain ⟨rfl, rfl⟩ := hkey
    rw [setCore_mem, countUnused_mem]
    exact writeBackLine_read_of_clean (hx l (List.mem_of_find?_eq_some hl) his)

theorem dropLine_of_miss {vline : Nat} (h : (s.coreOf c).l1.find? (fun l => l.is asid vline) = none) : s.dropLine c asid vline = s := by
  rw [State.dropLine, h]

/-- Settles O48: the line's dirty bytes go home, then the stored bytes, both within the line. -/
theorem homeStoreFrame : Obligations.HomeStoreFrame := by
  unfold Obligations.HomeStoreFrame
  intro s c asid va bs p hm hp hline hlo hhi hfit hdirty
  have hflat : p.flat va = p.flat (va / 128 * 128) + va % 128 := by
    simp only [Page.flat]
    omega
  have hput : s.homeWrite c asid va bs = (s.dropLine c asid (va / 128)).putBytes (p.flat va) bs :=
    putVa_within_page (by rw [page?_congr (dropLine_pages ..), hp]) (by omega)
  rw [hput]
  have hm1 : MemOk (s.dropLine c asid (va / 128)) := hm.dropLine
  refine ⟨fun i hi => Memory_read_writeN_same bs _ _ i hm1 hi, fun x hx => ?_, fun hmiss x hx => ?_⟩
  · calc ((s.dropLine c asid (va / 128)).putBytes (p.flat va) bs).mem.read x
        = (s.dropLine c asid (va / 128)).mem.read x := Memory_read_writeN_other bs _ _ x hm1 (by omega)
      _ = s.mem.read x := dropLine_read_of_clean (fun l hl _ q hq b hb => by
          have hb := hdirty l hl b hb
          rw [hline, Option.some.injEq] at hq
          subst hq
          omega)
  · rw [dropLine_of_miss hmiss]
    exact Memory_read_writeN_other bs _ _ x hm hx

end HomeStore

end Sys2Proof.Proofs

/-! PROOFS. Atomics and gathers: where no lane waits or meets poison, the operations go to the face units or are performed at the scratch
bank (R87, R88, R193, R196 to R203). -/

namespace Sys2Proof.Proofs

open Sys2Proof.Machine Sys2Proof.Safety Sys2Proof.Laws

section Atomics

variable {o : Op} {v : View} {a : Args} {e : Mask}

/-- No lane's access waits for its place. -/
def NoLaneParks (v : View) (a : Args) (ls : List Nat) : Prop := ∀ l ∈ ls, v.parkOf a.spc (v.addr a l) true = none

/-- No lane's word holds poison. -/
def NoLanePoisoned (v : View) (a : Args) (ls : List Nat) (n : Nat) : Prop :=
  (∀ l ∈ ls, v.nearPoison a.spc (v.addr a l) n = false) ∧
    (a.spc = 3 → ∀ l ∈ ls, v.s.dmPoison v.t.core v.t.asid (v.addr a l) n true = false)

variable (hpark : NoLaneParks v a (v.accessLanes a e false)) (hclean : NoLanePoisoned v a (v.accessLanes a e false) (tyBytes (wordTy o a.ty)))

include hpark hclean

/-- What is left of an atomic's effect once no lane waits or meets poison. -/
theorem atomBody_of_clean :
    atomBody o v a e =
      if a.spc = 3 then .done (v.toFaceUnits o a (v.accessLanes a e false) (v.addr a))
      else
        let r := (v.release (a.rel && a.wide)).atBank o a (v.accessLanes a e false)
        .done ((r.1.acquire (a.acq && a.wide)).put a.d (wordTy o a.ty) e (laneVal r.2)) := by
  have hplace : (v.accessLanes a e false).findSome? (fun l => v.parkOf a.spc (v.addr a l) true) = none :=
    List.findSome?_eq_none_iff.mpr hpark
  have hpoison : (v.accessLanes a e false).find? (fun l => v.nearPoison a.spc (v.addr a l) (tyBytes (wordTy o a.ty))
      || (a.spc = 3 && v.s.dmPoison v.t.core v.t.asid (v.addr a l) (tyBytes (wordTy o a.ty)) true)) = none := by
    obtain ⟨hnear, hfar⟩ := hclean
    rw [List.find?_eq_none]
    intro l hl
    have hfar := fun h3 => hfar h3 l hl
    simpa [hnear l hl] using hfar
  simp only [atomBody, hplace, hpoison]

theorem atomBody_on_die_memory (h : a.spc = 3) :
    atomBody o v a e = .done (v.toFaceUnits o a (v.accessLanes a e false) (v.addr a)) := by
  rw [atomBody_of_clean hpark hclean, if_pos h]

theorem atomBody_on_scratch (h : a.spc ≠ 3) :
    let r := (v.release (a.rel && a.wide)).atBank o a (v.accessLanes a e false)
    atomBody o v a e = .done ((r.1.acquire (a.acq && a.wide)).put a.d (wordTy o a.ty) e (laneVal r.2)) := by
  rw [atomBody_of_clean hpark hclean, if_neg h]

end Atomics

theorem fgathBody_of_clean {v : View} {a : Args} {e : Mask} (hpark : ∀ l ∈ lanesOf e, v.parkOf 3 (v.gathAddr a l) false = none)
    (hclean : ∀ l ∈ lanesOf e, v.s.dmPoison v.t.core v.t.asid (v.gathAddr a l) (tyBytes a.ty) true = false) :
    fgathBody v a e = .done (v.toFaceUnits .fgath a (lanesOf e) (v.gathAddr a)) := by
  have hplace : (lanesOf e).findSome? (fun l => v.parkOf 3 (v.gathAddr a l) false) = none := List.findSome?_eq_none_iff.mpr hpark
  have hpoison : (lanesOf e).find? (fun l => v.s.dmPoison v.t.core v.t.asid (v.gathAddr a l) (tyBytes a.ty) true) = none := by
    rw [List.find?_eq_none]
    intro l hl
    simp [hclean l hl]
  simp only [fgathBody, hplace, hpoison]

/-- Settles O11: the effect in each of the two places, retired. -/
theorem atomicAndGatherResults : Obligations.AtomicAndGatherResults := by
  unfold Obligations.AtomicAndGatherResults
  intro f s v
  refine ⟨?_, ?_, ?_, ?_, ?_, ?_, ?_⟩ <;> intro h
  · exact fun hpark hnear hfar h3 => runOp_done h (atomBody_on_die_memory hpark ⟨hnear, hfar⟩ h3)
  · exact fun hpark hnear hfar h3 => runOp_done h (atomBody_on_scratch hpark ⟨hnear, hfar⟩ h3)
  · exact fun hpark hnear hfar h3 => runOp_done h (atomBody_on_die_memory hpark ⟨hnear, hfar⟩ h3)
  · exact fun hpark hnear hfar h3 => runOp_done h (atomBody_on_scratch hpark ⟨hnear, hfar⟩ h3)
  · exact fun hpark hnear hfar h3 => runOp_done h (atomBody_on_die_memory hpark ⟨hnear, hfar⟩ h3)
  · exact fun hpark hnear hfar h3 => runOp_done h (atomBody_on_scratch hpark ⟨hnear, hfar⟩ h3)
  · exact fun hpark hclean => runOp_done h (fgathBody_of_clean hpark hclean)

end Sys2Proof.Proofs

/-! PROOFS. Tokens and chunks as an instruction reads them: hwait, htest, ckver and ckinfo (R217, R220, R221). -/

namespace Sys2Proof.Proofs

open Sys2Proof.Machine Sys2Proof.Safety Sys2Proof.Laws

section TokensAndChunks

variable {v : View} {a : Args} {e : Mask}

theorem hwaitBody_of_complete (h : v.sp.latched.isSome = true ∨ v.g.complete (haulMask a) = haulMask a) :
    hwaitBody v a e = .done (v.acquire a.wide) := by
  unfold hwaitBody
  exact if_pos (by simpa using h)

theorem hwaitBody_of_incomplete (hlatched : v.sp.latched = none) (h : v.g.complete (haulMask a) ≠ haulMask a) :
    hwaitBody v a e = .park v (.haul (haulMask a)) := by
  unfold hwaitBody
  exact if_neg (by simpa [hlatched] using h)

/-- The chunks are there and an entry of the queue is free: the context waits for the agents' check. -/
theorem ckverBody_of_free (hplace : ∀ y ∈ blocksOf (v.rdU a.a 7).toNat (4096 * v.count32 a.b), v.parkOf 3 y false = none)
    (hfree : v.t.haulsUsed < v.t.hauls) :
    ckverBody v a e = .done { v with
      t := { v.t with haulsUsed := v.t.haulsUsed + 1, idempotent := false }
      sp := { v.sp with wait := .ckver a.d (v.locsOf a.d 32) (v.rdU a.a 7).toNat (v.count32 a.b) (v.rdU a.c 7), waitStart := v.s.ptp, stalled := false } } := by
  have hnone := List.findSome?_eq_none_iff.mpr hplace
  simp only [ckverBody, hnone]
  exact if_neg (by omega)

/-- The header is there and its field holds no poison: it is read at home, and the context is held until it comes. -/
theorem ckinfoBody_of_clean (hplace : v.parkOf 3 (v.rdU a.a 7).toNat false = none)
    (hclean : v.s.dmPoison v.t.core v.t.asid ((v.rdU a.a 7).toNat + ckFieldAt a.sub) 8 true = false) :
    ckinfoBody v a e =
      let x := (v.rdU a.a 7).toNat
      let r := v.close.homeRead v.t.core v.t.asid x 128
      let due := ((v.s.homeOf v.t.asid x).map (fun h => v.s.now + v.s.homeLatency v.t.core h.1 h.2)).getD 0
      .done (({ v.onState (fun _ => r.2) with due := due }.putUni a.d 7 (ckField a.sub r.1)).holdUntil due) := by
  simp only [ckinfoBody, hplace]
  exact if_neg (by simp [hclean])

end TokensAndChunks

/-- Settles O20: the effect of each of the four instructions, retired, or the wait that it goes into. -/
theorem haulTokenAndCheckResults : Obligations.HaulTokenAndCheckResults := by
  unfold Obligations.HaulTokenAndCheckResults
  intro f s v
  refine ⟨?_, ?_, ?_, ?_, ?_⟩ <;> intro h
  case refine_1 => exact fun hover => runOp_done h (hwaitBody_of_complete hover)
  case refine_2 => exact fun hlatched hmissing => runOp_park h (hwaitBody_of_incomplete hlatched hmissing)
  case refine_3 => exact runOp_done h (body := htestBody) rfl
  case refine_4 => exact fun hplace hfree => runOp_done h (ckverBody_of_free hplace hfree)
  case refine_5 => exact fun hplace hclean => runOp_done h (ckinfoBody_of_clean hplace hclean)

end Sys2Proof.Proofs

/-! PROOFS. Page moves, their timeout and memory errors, each where its condition enables it (R80, R81, R464, R465, R471). -/

namespace Sys2Proof.Proofs

open Sys2Proof.Machine Sys2Proof.Safety Sys2Proof.Laws

section PageMoves

variable {s : State} {asid vbase : Nat} {p : Page}

theorem execPageMoveToHbm_of_free {stack f pkg die frame : Nat} (hp : s.pages.find? (samePage asid vbase) = some p)
    (hplace : p.place = .die pkg die frame) (hfree : s.freeHbm pkg stack p.size = some f) (hstack : stack < 12)
    (hready : s.stackReady pkg stack = true) (hpinned : p.pinned = false) (hparked : p.parked = none) (hbusy : s.pageBusy p = false) :
    execPageMoveToHbm asid vbase stack s = .next (s.movePage p (.hbm pkg stack f)) := by
  simp only [execPageMoveToHbm, hp, hplace, hfree]
  exact when_of_enabled (by simp [hstack, hready, hpinned, hparked, hbusy])

section Parked

variable {pkg stack frame t0 : Nat} (hp : s.pages.find? (samePage asid vbase) = some p) (hplace : p.place = .hbm pkg stack frame)
  (hparked : p.parked = some t0) (hanswers : s.pkgAnswers pkg = true)
include hp hplace hparked hanswers

theorem execPageMigrationComplete_of_free {dest : Place} (hdest : s.placeDie pkg p.size = some dest) :
    execPageMigrationComplete asid vbase s = .next ((s.movePage p dest).wakePage asid vbase) := by
  have hdest' : s.placeDie p.place.pkg p.size = some dest := by rw [hplace]; exact hdest
  simp only [execPageMigrationComplete, hp, hdest', hparked]
  simp only [hplace]
  exact when_of_enabled hanswers

theorem execMigrationTimeout_of_late (hlate : t0 + 10000000 ≤ s.ptp) (hfull : s.placeDie pkg p.size = none) :
    execMigrationTimeout asid vbase s =
      let u := s.failPage p 197
      .next { u with pages := updFirst (samePage asid vbase) (fun (q : Page) => { q with parked := none }) u.pages } := by
  simp only [execMigrationTimeout, hp, hplace, hparked]
  exact when_of_enabled (by simp [hlate, hfull, hanswers])

end Parked

end PageMoves

section MemoryErrors

variable {s : State}

/-- An uncorrectable error marks its site, but in the registers of a team that moves. -/
theorem execEccError_marks {site : EccSite}
    (h : ∀ rid gang reg granule t, site = .regs rid gang reg granule → s.team? rid = some t → t.source = none) :
    execEccError site false s = .next (s.poisonSite site) := by
  cases site with
  | regs rid gang reg granule =>
    cases ht : s.team? rid with
    | none => simp [execEccError, ht]
    | some t => simp [execEccError, ht, h rid gang reg granule t rfl ht]
  | _ => rfl

theorem execEccError_of_moving {rid gang reg granule : Nat} {t : Team} {x : MoveSource} (ht : s.team? rid = some t) (hx : t.source = some x) :
    execEccError (.regs rid gang reg granule) false s = .next (s.transferFault t x) := by
  simp [execEccError, ht, hx]

end MemoryErrors

/-- Settles O22: each event where its condition enables it. -/
theorem pagesMoveAndErrorsPoison : Obligations.PagesMoveAndErrorsPoison := by
  unfold Obligations.PagesMoveAndErrorsPoison
  intro s
  refine ⟨?_, ?_, ?_, ?_, ?_, ?_, ?_, ?_⟩
  case refine_1 =>
    intro asid vbase stack f pkg die frame p hp hplace hfree hstack hready hpinned hparked hbusy
    exact execPageMoveToHbm_of_free hp hplace hfree hstack hready hpinned hparked hbusy
  case refine_2 =>
    intro asid vbase pkg stack frame t0 p dest hp hplace hparked hdest hanswers
    exact execPageMigrationComplete_of_free hp hplace hparked hanswers hdest
  case refine_3 =>
    intro asid vbase pkg stack frame t0 p hp hplace hparked hlate hfull hanswers
    exact execMigrationTimeout_of_late hp hplace hparked hanswers hlate hfull
  case refine_4 =>
    intro site hsilent
    simp [exec, execEccError, hsilent]
  case refine_5 =>
    intro site hsilent
    simp [exec, execEccError, hsilent]
  case refine_6 => exact fun _ h => execEccError_marks h
  case refine_7 => exact fun _ _ _ _ _ _ ht hx => execEccError_of_moving ht hx
  case refine_8 => exact fun _ _ _ _ _ _ _ _ => rfl

end Sys2Proof.Proofs

/-! PROOFS. What loads leave, and stores to team scratch and the spill area: the bytes that a form does not name, and of memory every byte
but dirty ones of lines that the L1 held (R86, R191, R193 to R195, R304). -/

namespace Sys2Proof.Proofs

open Sys2Proof.Machine Sys2Proof.Safety Sys2Proof.Laws

/-! ## Evictions from one L1 -/

section Evictions

variable {c : CoreId} {s t u : State}

/-- A byte of memory that a line of the core's L1 holds dirty. -/
def DirtyByte (c : CoreId) (s : State) (x : Nat) : Prop :=
  ∃ y ∈ (s.coreOf c).l1, ∃ b ∈ y.dirty, ∃ p, s.page? y.asid (y.vline * 128) = some p ∧ x = p.flat (y.vline * 128) + b

/-- Lines may leave the L1 of core c, their dirty bytes written back, and clean ones may come. -/
structure Evicts (c : CoreId) (s t : State) : Prop where
  pages : t.pages = s.pages
  lines : ∀ y ∈ (t.coreOf c).l1, y ∈ (s.coreOf c).l1 ∨ y.dirty = []
  mem : ∀ x, t.mem.read x ≠ s.mem.read x → DirtyByte c s x

theorem coreOf_congr (h : t.cores = s.cores) (c : CoreId) : t.coreOf c = s.coreOf c := by
  rw [State.coreOf, State.coreOf, h]

theorem Evicts.of_same (hpages : t.pages = s.pages) (hcores : t.cores = s.cores) (hmem : t.mem = s.mem) : Evicts c s t where
  pages := hpages
  lines y hy := Or.inl (coreOf_congr hcores c ▸ hy)
  mem x hx := absurd (by rw [hmem]) hx

theorem Evicts.trans (h : Evicts c s t) (h1 : Evicts c t u) : Evicts c s u where
  pages := h1.pages.trans h.pages
  lines y hy := (h1.lines y hy).elim (h.lines y) Or.inr
  mem x hx := by
    by_cases ht : t.mem.read x = s.mem.read x
    · obtain ⟨y, hy, b, hb, p, hp, hxp⟩ := h1.mem x (by rwa [ht])
      obtain hold | hclean := h.lines y hy
      · exact ⟨y, hold, b, hb, p, by rw [← hp, page?_congr h.pages], hxp⟩
      · rw [hclean] at hb
        exact absurd hb List.not_mem_nil
    · exact h.mem x ht

/-- What an eviction leaves of the teams: where they are, their gangs and their scratch. -/
structure SameTeam (t u : Team) : Prop where
  rid : u.rid = t.rid
  core : u.core = t.core
  gangs : u.gangs = t.gangs
  scratch : u.scratch = t.scratch

/-- The open context stays, and every team keeps its bytes. -/
structure Quiet (s t : State) : Prop where
  cur : t.cur = s.cur
  teams : ∀ rid x, s.team? rid = some x → ∃ y, t.team? rid = some y ∧ SameTeam x y

theorem Quiet.of_same (hcur : t.cur = s.cur) (hteams : t.teams = s.teams) : Quiet s t where
  cur := hcur
  teams rid x hx := ⟨x, by rwa [State.team?, hteams], rfl, rfl, rfl, rfl⟩

theorem Quiet.trans (h : Quiet s t) (h1 : Quiet t u) : Quiet s u where
  cur := h1.cur.trans h.cur
  teams rid x hx := by
    obtain ⟨y, hy, hxy⟩ := h.teams rid x hx
    obtain ⟨z, hz, hyz⟩ := h1.teams rid y hy
    exact ⟨z, hz, hyz.rid.trans hxy.rid, hyz.core.trans hxy.core, hyz.gangs.trans hxy.gangs, hyz.scratch.trans hxy.scratch⟩

theorem setCore_quiet (s : State) (x : CoreSt) : Quiet s (s.setCore x) := .of_same (setCore_cur ..) (setCore_teams ..)

theorem updTeam_quiet {rid : Nat} {f : Team → Team} (hf : ∀ x, SameTeam x (f x)) : Quiet s (s.updTeam rid f) where
  cur := rfl
  teams r x hx := by
    by_cases hr : r = rid
    · subst hr
      refine ⟨f x, ?_, hf x⟩
      have hx' : s.teams.find? (fun t => t.rid == r) = some x := hx
      rw [State.team?, State.updTeam, find?_updFirst_same (fun y hy => by rw [(hf y).rid]; exact hy), hx', Option.map_some]
    · refine ⟨x, ?_, rfl, rfl, rfl, rfl⟩
      rw [State.team?, State.updTeam, find?_updFirst_other]
      · exact hx
      · intro y hy
        have hrid : y.rid = rid := by simpa using hy
        simp [(hf y).rid, hrid, Ne.symm hr]

theorem countUnused_quiet (s : State) (l : L1Line) : Quiet s (s.countUnused l) := by
  rw [State.countUnused]
  split
  · exact updTeam_quiet (fun _ => ⟨rfl, rfl, rfl, rfl⟩)
  · exact .of_same rfl rfl

@[simp] theorem countUnused_cores (s : State) (l : L1Line) : (s.countUnused l).cores = s.cores := by
  rw [State.countUnused]
  split <;> rfl

/-- A write-back touches the memory and its poison alone. -/
theorem writeBackLine_same (s : State) (l : L1Line) :
    (s.writeBackLine l).cores = s.cores ∧ (s.writeBackLine l).teams = s.teams ∧ (s.writeBackLine l).cur = s.cur := by
  rw [State.writeBackLine]
  split
  · exact ⟨rfl, rfl, rfl⟩
  split
  · exact ⟨rfl, rfl, rfl⟩
  · exact List.foldlRecOn (motive := fun t : State => t.cores = s.cores ∧ t.teams = s.teams ∧ t.cur = s.cur) _ _ ⟨rfl, rfl, rfl⟩ (fun _ h _ _ => h)

theorem dropLine_quiet (s : State) (c : CoreId) (asid vline : Nat) : Quiet s (s.dropLine c asid vline) := by
  rw [State.dropLine]
  split
  · exact .of_same rfl rfl
  next l _ =>
    obtain ⟨_, hteams, hcur⟩ := writeBackLine_same s l
    exact ((Quiet.of_same hcur hteams).trans (countUnused_quiet _ l)).trans (setCore_quiet ..)

theorem mem_l1_of_setCore {x : CoreSt} {y : L1Line} (hy : y ∈ ((s.setCore x).coreOf c).l1) (hid : x.id = c) : y ∈ x.l1 := by
  rwa [coreOf_setCore_same hid] at hy

theorem dropLine_evicts (s : State) (c : CoreId) (asid vline : Nat) : Evicts c s (s.dropLine c asid vline) where
  pages := dropLine_pages ..
  lines y hy := by
    rw [State.dropLine] at hy
    split at hy
    · exact Or.inl hy
    · exact Or.inl (List.mem_of_mem_filter (mem_l1_of_setCore hy (coreOf_id s c)))
  mem x hx := by
    by_contra hclean
    refine hx (dropLine_read_of_clean (fun l hl his p hp b hb hxb => hclean ⟨l, hl, b, hb, p, ?_, ?_⟩))
    all_goals
      have hkey : l.asid = asid ∧ l.vline = vline := by simpa [L1Line.is] using his
      obtain ⟨rfl, rfl⟩ := hkey
      assumption

/-- A core's other fields may change. -/
theorem setCore_evicts {x : CoreSt} (hid : x.id = c) (h : ∀ y ∈ x.l1, y ∈ (s.coreOf c).l1 ∨ y.dirty = []) : Evicts c s (s.setCore x) where
  pages := setCore_pages ..
  lines y hy := h y (mem_l1_of_setCore hy hid)
  mem y hy := absurd (by rw [setCore_mem]) hy

theorem makeRoom_evicts (s : State) (c : CoreId) : Evicts c s (s.makeRoom c) ∧ Quiet s (s.makeRoom c) := by
  rw [State.makeRoom]
  split
  · exact ⟨.of_same rfl rfl rfl, .of_same rfl rfl⟩
  split
  · exact ⟨dropLine_evicts .., dropLine_quiet ..⟩
  · exact ⟨.of_same rfl rfl rfl, .of_same rfl rfl⟩

theorem bringSpill_evicts (s : State) (c : CoreId) (tag vline : Nat) : Evicts c s (s.bringSpill c tag vline) ∧ Quiet s (s.bringSpill c tag vline) := by
  obtain ⟨hevicts, hquiet⟩ := makeRoom_evicts s c
  refine ⟨hevicts.trans (setCore_evicts (coreOf_id ..) (fun y hy => ?_)), hquiet.trans (setCore_quiet ..)⟩
  obtain hold | hnew := List.mem_append.mp hy
  · exact Or.inl hold
  · rw [List.mem_singleton.mp hnew]
    exact Or.inr rfl

theorem takeMiss_evicts (s : State) (c : CoreId) (lat : Nat) : Evicts c s (s.takeMiss c lat).2 ∧ Quiet s (s.takeMiss c lat).2 := by
  rw [State.takeMiss]
  dsimp only
  split
  all_goals exact ⟨setCore_evicts (coreOf_id ..) (fun y hy => Or.inl hy), setCore_quiet ..⟩

end Evictions

/-! ## The open context over such a change -/

section Contexts

variable {v w x : View}

/-- The open context has its place in the machine's tables. -/
structure Placed (v : View) : Prop where
  team : (v.s.team? v.t.rid).isSome = true
  gang : v.gang < v.t.gangs.length

/-- w is the context of v on a machine that has changed by evictions from the L1 of its core alone. -/
structure Stays (v w : View) : Prop where
  gang : w.gang = v.gang
  rid : w.t.rid = v.t.rid
  core : w.t.core = v.t.core
  placed : Placed w
  evicts : Evicts v.t.core v.s w.s

/-- The team's scratch and the gang's spill areas hold the same bytes. -/
structure SameBytes (v w : View) : Prop where
  scratch : w.t.scratch = v.t.scratch
  spill : w.g.spill = v.g.spill
  tspill : w.g.tspill = v.g.tspill

theorem Stays.refl (h : Placed v) : Stays v v := ⟨rfl, rfl, rfl, h, .of_same rfl rfl rfl⟩

theorem Stays.trans (h : Stays v w) (h1 : Stays w x) : Stays v x where
  gang := h1.gang.trans h.gang
  rid := h1.rid.trans h.rid
  core := h1.core.trans h.core
  placed := h1.placed
  evicts := h.evicts.trans (h.core ▸ h1.evicts)

theorem SameBytes.refl (v : View) : SameBytes v v := ⟨rfl, rfl, rfl⟩

theorem SameBytes.trans (h : SameBytes v w) (h1 : SameBytes w x) : SameBytes v x :=
  ⟨h1.scratch.trans h.scratch, h1.spill.trans h.spill, h1.tspill.trans h.tspill⟩

theorem placed_of_open {s : State} (h : View.open s = some v) : Placed v ∧ v.s = s := by
  simp only [View.open, Option.bind_eq_bind, Option.bind_eq_some_iff, Option.some.injEq] at h
  obtain ⟨c, hcur, t, ht, g, hg, sp, hsp, rfl⟩ := h
  have hrid : t.rid = c.rid := by simpa using List.find?_some (show s.teams.find? (fun t => t.rid == c.rid) = some t from ht)
  refine ⟨⟨?_, ?_⟩, rfl⟩
  · rw [hrid, ht]
    rfl
  · obtain ⟨hlt, -⟩ := List.getElem?_eq_some_iff.mp hg
    simpa [View.gang, hcur] using hlt

/-- Changes of the context's own fields, its team's and its gang's, that leave the machine. -/
theorem Placed.stays (h : Placed v) (hs : w.s = v.s) (hrid : w.t.rid = v.t.rid) (hcore : w.t.core = v.t.core)
    (hgangs : w.t.gangs.length = v.t.gangs.length) : Stays v w := by
  have hgang : w.gang = v.gang := by rw [View.gang, View.gang, hs]
  exact ⟨hgang, hrid, hcore, ⟨by rw [hs, hrid]; exact h.team, by rw [hgang, hgangs]; exact h.gang⟩, hs ▸ .of_same rfl rfl rfl⟩

theorem close_team? (h : Placed v) : v.close.team? v.t.rid = some v.team := by
  obtain ⟨t, ht⟩ := Option.isSome_iff_exists.mp h.team
  have ht' : v.s.teams.find? (fun t => t.rid == v.t.rid) = some t := ht
  rw [State.team?, View.close, find?_updFirst_same (fun _ _ => by simp), ht', Option.map_some]
  rfl

theorem team_gang (h : Placed v) : v.team.gangs[v.gang]? = some { v.g with splits := v.g.splits.set v.k v.sp } := by
  simp [View.team, h.gang]

/-- Going on with a machine in which only evictions have changed anything. -/
theorem onState_stays {f : State → State} (h : Placed v) (hf : ∀ s, Evicts v.t.core s (f s) ∧ Quiet s (f s)) :
    Stays v (v.onState f) ∧ SameBytes v (v.onState f) := by
  obtain ⟨hevicts, hquiet⟩ := hf v.close
  obtain ⟨u, hu, hrid, hcore, hgangs, hscratch⟩ := hquiet.teams _ _ (close_team? h)
  have hg : u.gangs.getD v.gang v.g = { v.g with splits := v.g.splits.set v.k v.sp } := by
    rw [hgangs, List.getD_eq_getElem?_getD, team_gang h, Option.getD_some]
  have hw : v.onState f = { v with s := f v.close, t := u, g := { v.g with splits := v.g.splits.set v.k v.sp }
                                   sp := (v.g.splits.set v.k v.sp).getD v.k v.sp } := by
    simp only [View.onState, hu, hg]
  have hgang : (v.onState f).gang = v.gang := by
    rw [hw, View.gang, View.gang, hquiet.cur, close_cur]
  have hplaced : Placed (v.onState f) := by
    refine ⟨?_, ?_⟩
    · rw [hw, hrid]
      exact Option.isSome_iff_exists.mpr ⟨u, hu⟩
    · rw [hgang, hw, hgangs]
      simpa [View.team] using h.gang
  have hclose : Evicts v.t.core v.s v.close := .of_same rfl rfl rfl
  refine ⟨⟨hgang, ?_, ?_, hplaced, ?_⟩, ⟨?_, ?_, ?_⟩⟩
  all_goals rw [hw]
  · exact hrid
  · exact hcore
  · exact hclose.trans hevicts
  · exact hscratch

/-! ## The steps of a load, and of a store to scratch or the spill area -/

theorem emit_machine (v : View) (loc : Nat) (lanes : Mask) (value : Lanes) :
    (v.emit loc lanes value).s = v.s ∧ (v.emit loc lanes value).t = v.t ∧ (v.emit loc lanes value).g = v.g := by
  rw [View.emit]
  split <;> exact ⟨rfl, rfl, rfl⟩

/-- The gang but for its registers. -/
structure SameSpill (v w : View) : Prop where
  machine : w.s = v.s
  team : w.t = v.t
  spill : w.g.spill = v.g.spill
  tspill : w.g.tspill = v.g.tspill

theorem setJreg_spill (g : Gang) (n : Nat) (wide : Bool) (m : Mask) (x : JvVal) :
    (g.setJreg n wide m x).spill = g.spill ∧ (g.setJreg n wide m x).tspill = g.tspill := by
  unfold Gang.setJreg Gang.cleared
  split <;> exact ⟨rfl, rfl⟩

theorem SameSpill.of_emit (v : View) (loc : Nat) (lanes : Mask) (value : Lanes) : SameSpill v (v.emit loc lanes value) := by
  obtain ⟨hs, ht, hg⟩ := emit_machine v loc lanes value
  exact ⟨hs, ht, by rw [hg], by rw [hg]⟩

theorem SameSpill.trans (h : SameSpill v w) (h1 : SameSpill w x) : SameSpill v x :=
  ⟨h1.machine.trans h.machine, h1.team.trans h.team, h1.spill.trans h.spill, h1.tspill.trans h.tspill⟩

theorem SameSpill.of_setJreg (v : View) (n : Nat) (wide : Bool) (m : Mask) (x : JvVal) : SameSpill v { v with g := v.g.setJreg n wide m x } := by
  obtain ⟨hspill, htspill⟩ := setJreg_spill v.g n wide m x
  exact ⟨rfl, rfl, hspill, htspill⟩

theorem putLanes_sameSpill (v : View) (o : Operand) (ty : Nat) (e : Mask) (f : Nat → Word) : SameSpill v (v.putLanes o ty e f) := by
  unfold View.putLanes
  dsimp only
  split
  · exact .of_setJreg ..
  · exact ⟨rfl, rfl, rfl, rfl⟩
  · split
    · exact (SameSpill.of_emit ..).trans (.of_emit ..)
    · exact .of_emit ..

theorem putUni_sameSpill (v : View) (o : Operand) (ty : Nat) (x : Word) : SameSpill v (v.putUni o ty x) := by
  unfold View.putUni
  split
  · exact .of_setJreg ..
  · exact ⟨rfl, rfl, rfl, rfl⟩
  · exact (SameSpill.of_emit ..).trans ⟨rfl, rfl, rfl, rfl⟩
  · exact .of_emit ..
  · exact ⟨rfl, rfl, rfl, rfl⟩

theorem put_sameSpill (v : View) (o : Operand) (ty : Nat) (e : Mask) (f : Nat → Word) : SameSpill v (v.put o ty e f) := by
  unfold View.put
  split
  · exact putLanes_sameSpill ..
  · exact putUni_sameSpill ..

theorem holdUntil_sameSpill (v : View) (time : Nat) : SameSpill v (v.holdUntil time) := by
  unfold View.holdUntil
  split
  · exact ⟨rfl, rfl, rfl, rfl⟩
  · split <;> exact ⟨rfl, rfl, rfl, rfl⟩

theorem record_sameSpill (v : View) (a : Args) (lanes : List Nat) (n : Nat) : SameSpill v (v.record a lanes n) := by
  unfold View.record
  split <;> exact ⟨rfl, rfl, rfl, rfl⟩

theorem SameSpill.bytes (h : SameSpill v w) : SameBytes v w := ⟨by rw [h.team], h.spill, h.tspill⟩

theorem SameSpill.stays (h : SameSpill v w) (hv : Placed v) : Stays v w :=
  hv.stays h.machine (by rw [h.team]) (by rw [h.team]) (by rw [h.team])

/-- A line of the spill stack comes into L1. -/
theorem touchSpill_stays (h : Placed v) (x : Nat) : Stays v (v.touchSpill x) ∧ SameBytes v (v.touchSpill x) := by
  unfold View.touchSpill
  dsimp only
  split
  · exact ⟨.refl h, .refl v⟩
  · exact onState_stays h (fun s => bringSpill_evicts s ..)

/-- The line that an address of the spill area names is in the core's L1. -/
def SpillHit (v : View) (x : Nat) : Prop := (v.s.coreOf v.t.core).l1.any (fun l => l.is (spillTag v.t.rid v.gang) (x / 128)) = true

theorem touchSpill_of_hit {x : Nat} (h : SpillHit v x) : v.touchSpill x = v := if_pos h

end Contexts

section Loads

variable {v : View} {a : Args}

/-- Going on with the machine that a miss leaves. -/
theorem takeMiss_stays (h : Placed v) (lat : Nat) :
    Stays v { v with s := (v.s.takeMiss v.t.core lat).2 } ∧ SameBytes v { v with s := (v.s.takeMiss v.t.core lat).2 } := by
  obtain ⟨hevicts, hquiet⟩ := takeMiss_evicts v.s v.t.core lat
  have hgang : ({ v with s := (v.s.takeMiss v.t.core lat).2 } : View).gang = v.gang := by
    rw [View.gang, View.gang, hquiet.cur]
  obtain ⟨t, ht⟩ := Option.isSome_iff_exists.mp h.team
  obtain ⟨u, hu, -⟩ := hquiet.teams _ _ ht
  exact ⟨⟨hgang, rfl, rfl, ⟨Option.isSome_iff_exists.mpr ⟨u, hu⟩, hgang ▸ h.gang⟩, hevicts⟩, rfl, rfl, rfl⟩

theorem loadTime_stays {home : Bool} {x : Nat} (h : Placed v) (hspc : a.spc ≠ 3) :
    Stays v (v.loadTime a home x).2 ∧ SameBytes v (v.loadTime a home x).2 := by
  unfold View.loadTime
  dsimp only
  split
  · split
    · exact ⟨.refl h, .refl v⟩
    · obtain ⟨htouch, hbytes⟩ := touchSpill_stays h x
      rw [← htouch.core]
      obtain ⟨hmiss, hsame⟩ := takeMiss_stays htouch.placed (v.s.homeLatency (v.touchSpill x).t.core v.s.hub.config.package v.t.spillDie)
      exact ⟨htouch.trans hmiss, hbytes.trans hsame⟩
  next h3 => exact absurd h3 hspc
  · exact ⟨.refl h, .refl v⟩

theorem loadTime_of_hit {home : Bool} {x : Nat} (hspc : a.spc ≠ 3) (hhit : a.spc = 1 → SpillHit v x) : (v.loadTime a home x).2 = v := by
  unfold View.loadTime
  dsimp only
  split
  next h1 =>
    have hit := hhit h1
    unfold SpillHit at hit
    rw [if_pos hit]
  next h3 => exact absurd h3 hspc
  · rfl

/-- The lanes' lines are named by addresses of lanes. -/
theorem loadTimes_fold {α : Type} {motive : α → Prop} {f : α → Nat → α} {b : α} {lanes : List Nat} (hb : motive b)
    (hf : ∀ r, motive r → ∀ l ∈ lanes, motive (f r (v.addr a l))) :
    motive ((lanes.foldl (fun (ls : List Nat) l => if ls.any (fun y => y / 128 == v.addr a l / 128) then ls else ls ++ [v.addr a l]) []).foldl f b) := by
  have hlines : ∀ x ∈ lanes.foldl (fun (ls : List Nat) l => if ls.any (fun y => y / 128 == v.addr a l / 128) then ls else ls ++ [v.addr a l]) [],
      ∃ l ∈ lanes, x = v.addr a l := by
    refine List.foldlRecOn (motive := fun ls => ∀ x ∈ ls, ∃ l ∈ lanes, x = v.addr a l) _ _ (by simp) (fun ls hls l hl x hx => ?_)
    split at hx
    · exact hls x hx
    · obtain hx | hx := List.mem_append.mp hx
      · exact hls x hx
      · exact ⟨l, hl, List.mem_singleton.mp hx⟩
  refine List.foldlRecOn (motive := motive) _ _ hb (fun r hr x hx => ?_)
  obtain ⟨l, hl, rfl⟩ := hlines x hx
  exact hf r hr l hl

theorem loadTimes_stays {home : Bool} {lanes : List Nat} (h : Placed v) (hspc : a.spc ≠ 3) :
    Stays v (v.loadTimes a home lanes).2 ∧ SameBytes v (v.loadTimes a home lanes).2 := by
  refine loadTimes_fold (motive := fun r : Nat × View => Stays v r.2 ∧ SameBytes v r.2) ⟨.refl h, .refl v⟩ (fun r hr l _ => ?_)
  obtain ⟨hstays, hbytes⟩ := hr
  obtain ⟨hnext, hsame⟩ := loadTime_stays (home := home) (x := v.addr a l) hstays.placed hspc
  exact ⟨hstays.trans hnext, hbytes.trans hsame⟩

theorem loadTimes_of_hit {home : Bool} {lanes : List Nat} (hspc : a.spc ≠ 3) (hhit : a.spc = 1 → ∀ l ∈ lanes, SpillHit v (v.addr a l)) :
    (v.loadTimes a home lanes).2 = v := by
  refine loadTimes_fold (motive := fun r : Nat × View => r.2 = v) rfl (fun r hr l hl => ?_)
  dsimp only
  rw [hr]
  exact loadTime_of_hit hspc (fun h1 => hhit h1 l hl)

/-- Reading scratch or the spill area changes nothing. -/
theorem loadAll_fst {w : View} {home : Bool} {lanes : List Nat} {n : Nat} (hspc : a.spc ≠ 3) : (w.loadAll a lanes n home).1 = w := by
  unfold View.loadAll
  refine List.foldlRecOn (motive := fun r : View × List (Nat × Word) => r.1 = w) _ _ rfl (fun r hr l _ => ?_)
  simpa [hspc] using hr

/-- A load of scratch or the spill area that meets no poison completes, and leaves the bytes; it leaves the machine too where its lines are
in L1. -/
theorem loadBody_frame {once : Bool} {e : Mask} (h : Placed v) (hspc : a.spc ≠ 3) (hacq : (a.acq && a.wide) = false)
    (hclean : ∀ l ∈ lanesOf e, v.nearPoison a.spc (v.addr a l) (tyBytes a.ty) = false) :
    ∃ w, loadBody once v a e = .done w ∧ Stays v w ∧ SameBytes v w ∧
      ((a.spc = 1 → ∀ l ∈ lanesOf e, SpillHit v (v.addr a l)) → w.s = v.s) := by
  have hlanes : ∀ l ∈ v.accessLanes a e once, l ∈ lanesOf e := by
    intro l hl
    unfold View.accessLanes at hl
    split at hl
    · exact List.mem_of_mem_take hl
    · exact hl
  have hplace : (v.accessLanes a e once).findSome? (fun l => v.parkOf a.spc (v.addr a l) false) = none :=
    List.findSome?_eq_none_iff.mpr (fun l _ => if_neg hspc)
  have hpoison : (v.accessLanes a e once).find? (fun l => v.nearPoison a.spc (v.addr a l) (tyBytes a.ty)
      || (a.spc = 3 && v.s.dmPoison v.t.core v.t.asid (v.addr a l) (tyBytes a.ty) (false || a.pol != 0))) = none := by
    rw [List.find?_eq_none]
    intro l hl
    simp [hclean l (hlanes l hl), hspc]
  obtain ⟨hstays, hbytes⟩ := loadTimes_stays (home := false) (lanes := v.accessLanes a e once) h hspc
  have hstill := fun hhit => loadTimes_of_hit (v := v) (home := false) (lanes := v.accessLanes a e once) hspc hhit
  simp only [loadBody, hplace, hacq, hpoison]
  generalize hm : v.loadTimes a false (v.accessLanes a e once) = m at hstays hbytes hstill
  have hacquire : m.2.acquire false = m.2 := if_neg (by simp)
  rw [hacquire]
  have hread : SameSpill m.2 (if v.native then (m.2.loadAll a (v.accessLanes a e once) (tyBytes a.ty) false).1.record a
      (v.accessLanes a e once) (tyBytes a.ty) else (m.2.loadAll a (v.accessLanes a e once) (tyBytes a.ty) false).1) := by
    rw [loadAll_fst hspc]
    split
    · exact record_sameSpill ..
    · exact ⟨rfl, rfl, rfl, rfl⟩
  have hdue (w : View) : SameSpill w { w with due := m.1 } := ⟨rfl, rfl, rfl, rfl⟩
  have hend := (hread.trans (hdue _)).trans
    ((put_sameSpill _ a.d a.ty e (laneVal (m.2.loadAll a (v.accessLanes a e once) (tyBytes a.ty) false).2)).trans (holdUntil_sameSpill _ m.1))
  refine ⟨_, rfl, hstays.trans (hend.stays hstays.placed), hbytes.trans hend.bytes, fun hhit => ?_⟩
  rw [hend.machine, hstill (fun h1 l hl => hhit h1 l (hlanes l hl))]

end Loads

/-! ## The end of the instruction -/

section Ends

variable {v : View} {s t : State}

/-- The bytes of the team's scratch and of one gang's spill areas as the machine holds them. -/
def HoldsBytes (t : State) (rid gang : Nat) (scratch spill tspill : Memory) : Prop :=
  ∃ u g, t.team? rid = some u ∧ u.gangs[gang]? = some g ∧ u.scratch = scratch ∧ g.spill = spill ∧ g.tspill = tspill

/-- Memory and every L1 are as they were. -/
def Still (s t : State) : Prop := t.mem = s.mem ∧ t.cores = s.cores

theorem close_holdsBytes (h : Placed v) : HoldsBytes v.close v.t.rid v.gang v.t.scratch v.g.spill v.g.tspill :=
  ⟨v.team, _, close_team? h, team_gang h, rfl, rfl, rfl⟩

theorem onState_s (v : View) (f : State → State) : (v.onState f).s = f v.close := by
  rw [View.onState]
  dsimp only
  split <;> rfl

/-- Completion counts, and takes the context's lost requests from the machine. -/
theorem complete_stays (h : Placed v) : Stays v v.complete ∧ SameBytes v v.complete ∧ Still v.s v.complete.s := by
  unfold View.complete
  split
  · exact ⟨.refl h, .refl v, rfl, rfl⟩
  dsimp only
  split
  · exact ⟨h.stays rfl rfl rfl rfl, ⟨rfl, rfl, rfl⟩, rfl, rfl⟩
  · obtain ⟨hstays, hbytes⟩ := onState_stays (f := fun s => { s with lostReqs := s.lostReqs.filter (fun q => !v.lost q) }) h
      (fun s => ⟨.of_same rfl rfl rfl, .of_same rfl rfl⟩)
    refine ⟨hstays.trans (hstays.placed.stays rfl rfl rfl rfl), hbytes.trans ⟨rfl, rfl, rfl⟩, ?_⟩
    show Still v.s (v.onState _).s
    rw [onState_s]
    exact ⟨rfl, rfl⟩

theorem advance_sameSpill (v : View) (n : Nat) : SameSpill v (v.advance n) := by
  unfold View.advance
  split <;> exact ⟨rfl, rfl, rfl, rfl⟩

/-- What an instruction that goes on leaves in the machine. -/
theorem retire_frame (f : Form) (h : Placed v) :
    HoldsBytes (v.retire f) v.t.rid v.gang v.t.scratch v.g.spill v.g.tspill ∧ Evicts v.t.core v.s (v.retire f) ∧ Still v.s (v.retire f) := by
  obtain ⟨hstays, hbytes, hmem, hcores⟩ := complete_stays h
  have hadv := advance_sameSpill v.complete f.bytes
  have hs := hstays.trans (hadv.stays hstays.placed)
  have hb := hbytes.trans hadv.bytes
  have hclose := close_holdsBytes hs.placed
  rw [hs.rid, hs.gang, hb.scratch, hb.spill, hb.tspill] at hclose
  refine ⟨hclose, hs.evicts.trans (.of_same rfl rfl rfl), ?_, ?_⟩
  · rw [← hmem, ← hadv.machine]
    rfl
  · rw [← hcores, ← hadv.machine]
    rfl

theorem ready_sameSpill (o : Op) (f : Form) (v : View) : SameSpill v (ready o f v) := by
  unfold ready View.stepSig
  split <;> exact ⟨rfl, rfl, rfl, rfl⟩

theorem ready_native (o : Op) (f : Form) (v : View) : (ready o f v).native = f.isNat := by
  unfold ready View.stepSig
  split <;> rfl

theorem exec_load_eq {o : Op} (ho : o ∈ [Op.ld, Op.ldu]) (f : Form) (s : State) :
    ∃ once, exec (Instr.ofOp o f) s = runOp o f s (ownChecks o f) (loadBody once) := by
  obtain rfl | rfl : o = .ld ∨ o = .ldu := by simpa using ho
  · exact ⟨false, rfl⟩
  · exact ⟨true, rfl⟩

/-- A load completes, so its frame is that of its effect and of the completion behind it. -/
theorem load_frame {o : Op} (ho : o ∈ [Op.ld, Op.ldu]) {f : Form} (hx : Executes o f s v) (hstep : exec (Instr.ofOp o f) s = .next t)
    (hspc : (f.args o).spc ≠ 3) (hacq : ((f.args o).acq && (f.args o).wide) = false)
    (hclean : ∀ l ∈ lanesOf (lanes o f v), (ready o f v).nearPoison (f.args o).spc ((ready o f v).addr (f.args o) l) (tyBytes (f.args o).ty) = false) :
    HoldsBytes t v.t.rid v.gang v.t.scratch v.g.spill v.g.tspill ∧ Evicts v.t.core s t ∧
      (((f.args o).spc = 1 → ∀ l ∈ lanesOf (lanes o f v), SpillHit v ((ready o f v).addr (f.args o) l)) → Still s t) := by
  obtain ⟨hplaced, rfl⟩ := placed_of_open hx.opened
  have hready := ready_sameSpill o f v
  have hr := hready.stays hplaced
  obtain ⟨once, hexec⟩ := exec_load_eq ho f v.s
  obtain ⟨w, hbody, hstays, hbytes, hstill⟩ := loadBody_frame (once := once) (e := lanes o f v) hr.placed hspc hacq hclean
  rw [hexec, runOp_done hx hbody] at hstep
  obtain rfl := Host.Outcome.next.inj hstep
  have hw := hr.trans hstays
  have hb := hready.bytes.trans hbytes
  obtain ⟨hholds, hevicts, hend⟩ := retire_frame f hw.placed
  rw [hw.rid, hw.gang, hb.scratch, hb.spill, hb.tspill] at hholds
  rw [hw.core] at hevicts
  refine ⟨hholds, hw.evicts.trans hevicts, fun hhit => ?_⟩
  have hsame : w.s = v.s := by
    rw [hstill (fun h1 l hl => ?_), hready.machine]
    have hit := hhit h1 l hl
    unfold SpillHit at hit ⊢
    rwa [hr.gang, hready.machine, hready.team]
  rw [← hsame]
  exact hend

end Ends

/-! ## Stores -/

section Stores

variable {v w x : View} {spc : Nat} {P : Nat → Prop}

/-- Of the bytes of a space for which P holds, as well as of every other space, none has changed. -/
structure StoresOutside (spc : Nat) (P : Nat → Prop) (v w : View) : Prop where
  scratch : ∀ y, (spc = 2 → P y) → w.t.scratch.read y = v.t.scratch.read y
  spill : ∀ y, (spc ≠ 2 → P y) → w.g.spill.read y = v.g.spill.read y
  tspill : ∀ y, (spc ≠ 2 → P (y + 131072)) → w.g.tspill.read y = v.g.tspill.read y

theorem SameBytes.outside (h : SameBytes v w) : StoresOutside spc P v w :=
  ⟨fun _ _ => by rw [h.scratch], fun _ _ => by rw [h.spill], fun _ _ => by rw [h.tspill]⟩

theorem StoresOutside.trans (h : StoresOutside spc P v w) (h1 : StoresOutside spc P w x) : StoresOutside spc P v x where
  scratch y hy := (h1.scratch y hy).trans (h.scratch y hy)
  spill y hy := (h1.spill y hy).trans (h.spill y hy)
  tspill y hy := (h1.tspill y hy).trans (h.tspill y hy)

theorem read_writeN_outside (m : Memory) {a y : Nat} {bs : List Byte} (h : y < a ∨ a + bs.length ≤ y) : (m.writeN a bs).read y = m.read y := by
  induction bs generalizing m a with
  | nil => rfl
  | cons b r ih =>
    rw [List.length_cons] at h
    exact (ih _ (by omega)).trans (Memory_read_write_ne m b (by omega))

theorem logPoison_sameTeam (t : Team) (space : Nat) (l : List (Nat × Nat)) : SameTeam t (t.logPoison space l) := by
  unfold Team.logPoison
  extract_lets inLine join base gang now hit
  split <;> exact ⟨rfl, rfl, rfl, rfl⟩

theorem logLines_sameTeam (t : Team) (space off n : Nat) : SameTeam t (t.logLines space off n) := by
  unfold Team.logLines
  dsimp only
  obtain ⟨hrid, hcore, hgangs, hscratch⟩ := logPoison_sameTeam t space
    (((List.range ((off + n + 127) / 128 - off / 128)).map (fun i => (space, off / 128 + i))).filter (fun x => !t.logged.contains x))
  split <;> exact ⟨hrid, hcore, hgangs, hscratch⟩

theorem nearStore_s (v : View) (spc a : Nat) (bs : List Byte) : (v.nearStore spc a bs).s = v.s := by
  unfold View.nearStore
  dsimp only
  split
  · rfl
  · split <;> rfl

theorem nearStore_frame {a : Nat} {bs : List Byte} (h : Placed v) (hP : ∀ y, P y → y < a ∨ a + bs.length ≤ y) :
    Stays v (v.nearStore spc a bs) ∧ StoresOutside spc P v (v.nearStore spc a bs) := by
  unfold View.nearStore
  dsimp only
  split
  next h2 =>
    have hsame := logLines_sameTeam v.t 0 a bs.length
    refine ⟨h.stays rfl hsame.rid hsame.core (by rw [← hsame.gangs]), fun y hy => ?_, fun _ _ => rfl, fun _ _ => rfl⟩
    exact (read_writeN_outside _ (hP y (hy h2))).trans (by rw [hsame.scratch])
  next h2 =>
    split
    next hhigh =>
      have hsame := logLines_sameTeam v.t (2 + 2 * v.gang) (a - 131072) bs.length
      refine ⟨h.stays rfl hsame.rid hsame.core (by rw [← hsame.gangs]), fun _ _ => by rw [hsame.scratch], fun _ _ => rfl, fun y hy => ?_⟩
      have hy := hP _ (hy h2)
      exact read_writeN_outside _ (by omega)
    · have hsame := logLines_sameTeam v.t (1 + 2 * v.gang) a bs.length
      refine ⟨h.stays rfl hsame.rid hsame.core (by rw [← hsame.gangs]), fun _ _ => by rw [hsame.scratch], fun y hy => ?_, fun _ _ => rfl⟩
      exact read_writeN_outside _ (hP y (hy h2))

theorem store_frame {pol a : Nat} {home : Bool} {bs : List Byte} (h : Placed v) (hspc : spc ≠ 3) (hP : ∀ y, P y → y < a ∨ a + bs.length ≤ y) :
    Stays v (v.store spc pol home a bs) ∧ StoresOutside spc P v (v.store spc pol home a bs) := by
  unfold View.store
  rw [if_neg hspc]
  split
  next h1 =>
    subst h1
    obtain ⟨htouch, hbytes⟩ := touchSpill_stays h a
    obtain ⟨hstore, hout⟩ := nearStore_frame (spc := 1) htouch.placed hP
    exact ⟨htouch.trans hstore, hbytes.outside.trans hout⟩
  · exact nearStore_frame h hP

theorem store_s_of_hit {pol a : Nat} {home : Bool} {bs : List Byte} (hspc : spc ≠ 3) (hhit : spc = 1 → SpillHit v a) :
    (v.store spc pol home a bs).s = v.s := by
  unfold View.store
  rw [if_neg hspc]
  split
  next h1 => rw [touchSpill_of_hit (hhit h1), nearStore_s]
  · exact nearStore_s ..

/-- Stores of the lanes' bytes, one after another. -/
theorem stores_frame {pol : Nat} {vals : List (Nat × List Byte × Nat)} (h : Placed v) (hspc : spc ≠ 3)
    (hP : ∀ z ∈ vals, ∀ y, P y → y < z.1 ∨ z.1 + z.2.1.length ≤ y) :
    let w := vals.foldl (fun (w : View) z => w.store spc pol false z.1 z.2.1) v
    Stays v w ∧ StoresOutside spc P v w := by
  refine List.foldlRecOn (motive := fun w => Stays v w ∧ StoresOutside spc P v w) _ _ ⟨.refl h, (SameBytes.refl v).outside⟩ (fun w hw z hz => ?_)
  obtain ⟨hstays, hout⟩ := hw
  obtain ⟨hnext, hmore⟩ := store_frame (pol := pol) (home := false) hstays.placed hspc (hP z hz)
  exact ⟨hstays.trans hnext, hout.trans hmore⟩

theorem SpillHit.stays {a : Nat} (h : SpillHit v a) (hw : Stays v w) (hs : w.s = v.s) : SpillHit w a := by
  unfold SpillHit at *
  rwa [hs, hw.core, hw.rid, hw.gang]

/-- Stores whose lines are in L1 leave the machine. -/
theorem stores_s_of_hit {pol : Nat} {vals : List (Nat × List Byte × Nat)} (h : Placed v) (hspc : spc ≠ 3)
    (hhit : spc = 1 → ∀ z ∈ vals, SpillHit v z.1) : (vals.foldl (fun (w : View) z => w.store spc pol false z.1 z.2.1) v).s = v.s := by
  refine (List.foldlRecOn (motive := fun w => Stays v w ∧ w.s = v.s) vals _ ⟨.refl h, rfl⟩ (fun w hw z hz => ?_)).2
  obtain ⟨hstays, hs⟩ := hw
  obtain ⟨hnext, -⟩ := store_frame (P := fun _ => False) (pol := pol) (home := false) (bs := z.2.1) hstays.placed hspc (fun _ => False.elim)
  exact ⟨hstays.trans hnext, (store_s_of_hit hspc (fun h1 => (hhit h1 z hz).stays hstays hs)).trans hs⟩

theorem toBytesLE_length (n x : Nat) : (toBytesLE n x).length = n := by
  induction n generalizing x with
  | zero => rfl
  | succ n ih => rw [toBytesLE, List.length_cons, ih]

variable {a : Args} {e : Mask}

/-- The byte lies outside those that the lanes' addresses name. -/
def OutsideLanes (v : View) (a : Args) (e : Mask) (y : Nat) : Prop := ∀ l ∈ lanesOf e, y < v.addr a l ∨ v.addr a l + tyBytes a.ty ≤ y

/-- The lanes' stores: address, bytes and lane. -/
def laneStores (v : View) (a : Args) (e : Mask) : List (Nat × List Byte × Nat) :=
  (lanesOf e).map (fun l => (v.addr a l, toBytesLE (tyBytes a.ty) (v.rd a.b a.ty l).toNat, l))

/-- A lane's store meets an alias-detection entry of the context (R309). -/
def MeetsEntry (v : View) (a : Args) (e : Mask) : Prop :=
  (v.native && v.sp.adt.any (fun d => (laneStores v a e).any (fun x => d.meets a.spc x.1 (tyBytes a.ty)))) = true

theorem laneStores_outside : ∀ z ∈ laneStores v a e, ∀ y, OutsideLanes v a e y → y < z.1 ∨ z.1 + z.2.1.length ≤ y := by
  intro z hz y hy
  obtain ⟨l, hl, rfl⟩ := List.mem_map.mp hz
  rw [toBytesLE_length]
  exact hy l hl

theorem storeBody_of_entry (h : MeetsEntry v a e) : storeBody v a e = .raise { cause := 770, info := 0, addr := 0 } := if_pos h

/-- A native store is held in the gated store buffer, where that has room. -/
theorem storeBody_of_gated (hentry : ¬ MeetsEntry v a e) (hgated : (v.native && !a.rel) = true) :
    storeBody v a e = .raise { cause := 771, info := 0, addr := 0 } ∨ (∃ n, storeBody v a e = .park v (.buffer n)) ∨
      ∃ sp, storeBody v a e = .done { v with sp := sp } := by
  have heq : storeBody v a e = _ := (if_neg hentry).trans (if_pos hgated)
  rw [heq]
  extract_lets +onlyGivenNames sp1
  split
  · exact Or.inl rfl
  split
  · exact Or.inr (Or.inl ⟨_, rfl⟩)
  · exact Or.inr (Or.inr ⟨_, rfl⟩)

/-- Every other store is performed, lane by lane. -/
theorem storeBody_of_performed (h : Placed v) (hspc : a.spc ≠ 3) (hrel : (a.rel && a.wide) = false) (hentry : ¬ MeetsEntry v a e)
    (hgated : ¬ (v.native && !a.rel) = true) :
    ∃ w, storeBody v a e = .done w ∧ Stays v w ∧ StoresOutside a.spc (OutsideLanes v a e) v w ∧
      ((a.spc = 1 → ∀ l ∈ lanesOf e, SpillHit v (v.addr a l)) → w.s = v.s) := by
  have hplace : (lanesOf e).findSome? (fun l => v.parkOf a.spc (v.addr a l) true) = none :=
    List.findSome?_eq_none_iff.mpr (fun l _ => if_neg hspc)
  have hrelease : v.release false = v := if_neg (by simp)
  have heq : storeBody v a e = _ := (if_neg hentry).trans (if_neg hgated)
  obtain ⟨hstays, hout⟩ := stores_frame (pol := a.pol) h hspc (laneStores_outside (v := v) (a := a) (e := e))
  have hsame := fun hhit => stores_s_of_hit (pol := a.pol) (vals := laneStores v a e) h hspc hhit
  rw [heq]
  simp only [hplace, hrel, hrelease]
  have hcount (w : View) : SameSpill w { w with sp := w.sp.countStore } := ⟨rfl, rfl, rfl, rfl⟩
  have hend := (hcount ((laneStores v a e).foldl (fun (w : View) z => w.store a.spc a.pol false z.1 z.2.1) v)).trans
    (holdUntil_sameSpill _ ((laneStores v a e).foldl (fun t x => Nat.max t (v.farTime a.spc x.1)) 0))
  refine ⟨_, rfl, hstays.trans (hend.stays hstays.placed), hout.trans hend.bytes.outside, fun hhit => ?_⟩
  refine hend.machine.trans (hsame (fun h1 z hz => ?_))
  obtain ⟨l, hl, rfl⟩ := List.mem_map.mp hz
  exact hhit h1 l hl

/-- The bytes of a space for which P holds, and those of every other space, as the machine holds them. -/
def HoldsOutside (spc : Nat) (P : Nat → Prop) (v : View) (t : State) : Prop :=
  ∃ u g, t.team? v.t.rid = some u ∧ u.gangs[v.gang]? = some g ∧
    (∀ y, (spc = 2 → P y) → u.scratch.read y = v.t.scratch.read y) ∧
    (∀ y, (spc ≠ 2 → P y) → g.spill.read y = v.g.spill.read y) ∧
    ∀ y, (spc ≠ 2 → P (y + 131072)) → g.tspill.read y = v.g.tspill.read y

theorem HoldsBytes.outside {t : State} (h : HoldsBytes t w.t.rid w.gang w.t.scratch w.g.spill w.g.tspill) (hw : Stays v w)
    (hout : StoresOutside spc P v w) : HoldsOutside spc P v t := by
  obtain ⟨u, g, hu, hg, hscratch, hspill, htspill⟩ := h
  exact ⟨u, g, hw.rid ▸ hu, hw.gang ▸ hg, hscratch ▸ hout.scratch, hspill ▸ hout.spill, htspill ▸ hout.tspill⟩

/-- A change of one split keeps the bytes. -/
theorem HoldsBytes.updSplit {t : State} {rid gang k : Nat} {scratch spill tspill : Memory} (h : HoldsBytes t rid gang scratch spill tspill)
    (f : Split → Split) : HoldsBytes (t.updSplit rid gang k f) rid gang scratch spill tspill := by
  obtain ⟨u, g, hu, hg, hscratch, hspill, htspill⟩ := h
  have hu' : t.teams.find? (fun t => t.rid == rid) = some u := hu
  refine ⟨u.updGang gang (fun g => g.updSplit k f), g.updSplit k f, ?_, ?_, hscratch, hspill, htspill⟩
  · rw [State.team?, State.updSplit, State.updTeam,
      find?_updFirst_same (p := fun t : Team => t.rid == rid) (f := fun t => t.updGang gang (fun g => g.updSplit k f)) (fun _ hy => hy), hu', Option.map_some]
  · obtain ⟨hlt, hget⟩ := List.getElem?_eq_some_iff.mp hg
    simp [Team.updGang, hlt, hget]

/-- An instruction that raises on the native machine keeps its raise for the bundle. -/
theorem fail_native {slot : Nat} {r : Raise} (hnative : v.native = true) (hcause : r.cause ≠ 192) :
    ∃ sp, v.fail slot r = { v with sp := sp }.close := by
  rw [View.fail, if_neg hcause, if_pos hnative]
  exact ⟨_, rfl⟩

/-- What the machine holds when the context is put back with its team and its gang's memories as they were, and one split changed. -/
theorem close_frame (h : SameSpill v w) (hv : Placed v) (k : Nat) (f : Split → Split) :
    let t := w.close.updSplit v.t.rid v.gang k f
    (HoldsOutside spc P v w.close ∧ Evicts v.t.core v.s w.close ∧ Still v.s w.close) ∧
      HoldsOutside spc P v t ∧ Evicts v.t.core v.s t ∧ Still v.s t := by
  have hw := h.stays hv
  have hholds := close_holdsBytes hw.placed
  have hupd := hholds.updSplit (k := k) f
  rw [hw.rid, hw.gang, h.team, h.spill, h.tspill] at hholds hupd
  have hout := (SameBytes.refl v).outside (spc := spc) (P := P)
  rw [← h.machine]
  exact ⟨⟨hholds.outside (.refl hv) hout, .of_same rfl rfl rfl, rfl, rfl⟩, hupd.outside (.refl hv) hout, .of_same rfl rfl rfl, rfl, rfl⟩

/-- What the machine holds when the context of v, changed to w, goes on behind its instruction. -/
theorem retire_outside (f : Form) (hw : Stays v w) (hout : StoresOutside spc P v w) :
    HoldsOutside spc P v (w.retire f) ∧ Evicts v.t.core v.s (w.retire f) ∧ (w.s = v.s → Still v.s (w.retire f)) := by
  obtain ⟨hholds, hevicts, hend⟩ := retire_frame f hw.placed
  rw [hw.core] at hevicts
  exact ⟨hholds.outside hw hout, hw.evicts.trans hevicts, fun hsame => hsame ▸ hend⟩

/-- Each end of a store has its frame: raised or parked, the context is put back as it was; held or performed, it goes on. -/
theorem store_step_frame {s t : State} {f : Form} (hx : Executes .st f s v) (hstep : exec (.st f) s = .next t) (hspc : (f.args .st).spc ≠ 3)
    (hrel : ((f.args .st).rel && (f.args .st).wide) = false) :
    let a := f.args .st
    let w := ready .st f v
    HoldsOutside a.spc (OutsideLanes w a (lanes .st f v)) v t ∧ Evicts v.t.core s t ∧
      (((w.native = true ∧ a.rel = false) ∨ (a.spc = 1 → ∀ l ∈ lanesOf (lanes .st f v), SpillHit v (w.addr a l))) → Still s t) := by
  intro a w
  obtain ⟨hplaced, rfl⟩ := placed_of_open hx.opened
  have hready : SameSpill v w := ready_sameSpill .st f v
  have hr := hready.stays hplaced
  have hraised {c : Nat} (hb : storeBody w a (lanes .st f v) = .raise { cause := c, info := 0, addr := 0 }) (hnative : w.native = true) (hc : c ≠ 192) :
      HoldsOutside a.spc (OutsideLanes w a (lanes .st f v)) v t ∧ Evicts v.t.core v.s t ∧ Still v.s t := by
    have hexec : exec (.st f) v.s = _ := runOp_raise hx hb
    obtain ⟨sp, hfail⟩ := fail_native (v := v.enter .st f) (slot := f.slot) (r := { cause := c, info := 0, addr := 0 })
      ((ready_native ..).symm.trans hnative) hc
    rw [hexec, hfail] at hstep
    obtain rfl := Host.Outcome.next.inj hstep
    have hsame : SameSpill v { v.enter .st f with sp := sp } := ⟨rfl, rfl, rfl, rfl⟩
    exact (close_frame hsame hplaced v.k id).1
  by_cases hentry : MeetsEntry w a (lanes .st f v)
  · obtain ⟨hholds, hevicts, hstill⟩ := hraised (storeBody_of_entry hentry) (Bool.and_eq_true_iff.mp hentry).1 (by decide)
    exact ⟨hholds, hevicts, fun _ => hstill⟩
  by_cases hgated : (w.native && !a.rel) = true
  · obtain hbody | ⟨n, hbody⟩ | ⟨sp, hbody⟩ := storeBody_of_gated hentry hgated
    · obtain ⟨hholds, hevicts, hstill⟩ := hraised hbody (Bool.and_eq_true_iff.mp hgated).1 (by decide)
      exact ⟨hholds, hevicts, fun _ => hstill⟩
    · have hexec : exec (.st f) v.s = _ := runOp_park hx hbody
      rw [hexec] at hstep
      have hsame : SameSpill v { w with sp := { w.sp with sig := v.sp.sig, tilePos := v.sp.tilePos } } :=
        ⟨hready.machine, hready.team, hready.spill, hready.tspill⟩
      obtain ⟨g, hpark⟩ : ∃ g, t = State.updSplit _ v.t.rid v.gang v.k g := ⟨_, (Host.Outcome.next.inj hstep).symm⟩
      obtain ⟨hholds, hevicts, hstill⟩ := (close_frame hsame hplaced v.k g).2
      rw [hpark]
      exact ⟨hholds, hevicts, fun _ => hstill⟩
    · have hexec : exec (.st f) v.s = _ := runOp_done hx hbody
      obtain rfl := Host.Outcome.next.inj (hexec.symm.trans hstep)
      have hheld : SameSpill v { w with sp := sp } := ⟨hready.machine, hready.team, hready.spill, hready.tspill⟩
      obtain ⟨hholds, hevicts, hstill⟩ := retire_outside f (hheld.stays hplaced) hheld.bytes.outside
      exact ⟨hholds, hevicts, fun _ => hstill hheld.machine⟩
  · obtain ⟨x, hbody, hstays, hout, hsame⟩ := storeBody_of_performed hr.placed hspc hrel hentry hgated
    have hexec : exec (.st f) v.s = _ := runOp_done hx hbody
    obtain rfl := Host.Outcome.next.inj (hexec.symm.trans hstep)
    obtain ⟨hholds, hevicts, hstill⟩ := retire_outside f (hr.trans hstays) (hready.bytes.outside.trans hout)
    refine ⟨hholds, hevicts, fun hhit => hstill ((hsame ?_).trans hready.machine)⟩
    obtain ⟨hnative, hheld⟩ | hhit := hhit
    · exact absurd (by simp [hnative, hheld]) hgated
    · exact fun h1 l hl => (hhit h1 l hl).stays hr hready.machine

end Stores

/-- Settles O46: the frames of a load and of a store, the machine's part being what evictions from one L1 leave. -/
theorem loadAndStoreFrames : Obligations.LoadAndStoreFrames := by
  unfold Obligations.LoadAndStoreFrames
  refine ⟨?_, ?_⟩
  · intro o ho f s t v hx hstep a hspc hacq hclean core
    obtain ⟨⟨u, g, hu, hg, hscratch, hspill, htspill⟩, hevicts, hstill⟩ := load_frame ho hx hstep hspc hacq hclean
    have hs : v.s = s := (placed_of_open hx.opened).2
    refine ⟨⟨u, g, hu, hg, hscratch, hspill, htspill⟩, fun hhit => hstill (fun h1 l hl => ?_), hevicts.mem⟩
    unfold SpillHit
    rw [hs]
    exact hhit.resolve_left (fun h2 => absurd (h1.symm.trans h2) (by decide)) l hl
  · intro f s t v hx hstep a w hspc hrel core
    obtain ⟨hholds, hevicts, hstill⟩ := store_step_frame hx hstep hspc hrel
    have hs : v.s = s := (placed_of_open hx.opened).2
    refine ⟨fun hhit => hstill ?_, hevicts.mem, hholds⟩
    obtain h2 | hheld | hhit := hhit
    · exact Or.inr (fun h1 => absurd (h1.symm.trans h2) (by decide))
    · exact Or.inl hheld
    · refine Or.inr (fun h1 l hl => ?_)
      unfold SpillHit
      rw [hs]
      exact hhit l hl

end Sys2Proof.Proofs

/-! PROOFS. The group check (R115, R116, R254, R489). A residue is the limb pair's dot product off by the errors of the pipe, and dot products are
linear, so that the check of a line says whether the channel's modulus divides the errors on that line; the residues of an exact step carry its
integers by the Chinese remainder theorem. -/

namespace Sys2Proof.Proofs

open Sys2Proof.Machine

/-! ## Dot products and sums of lines -/

theorem foldl_add_range {M : Type} [AddCommMonoid M] (g : Nat → M) (n : Nat) :
    (List.range n).foldl (fun s i => s + g i) 0 = ∑ i ∈ Finset.range n, g i := by
  induction n with
  | zero => rfl
  | succ n ih => simp [List.range_succ, List.foldl_append, ih, Finset.sum_range_succ]

theorem foldl_add_eq (l : List (Int × Int)) (s : Int) : l.foldl (fun s x => s + x.1 * x.2) s = s + l.foldl (fun s x => s + x.1 * x.2) 0 := by
  induction l generalizing s with
  | nil => simp
  | cons x l ih => rw [List.foldl_cons, List.foldl_cons, ih, ih (0 + x.1 * x.2)]; ring

theorem dot_cons (x y : Int) (a b : List Int) : dot (x :: a) (y :: b) = x * y + dot a b := by
  simp only [dot, List.zip_cons_cons, List.foldl_cons]
  rw [foldl_add_eq]
  ring

theorem dot_eq_sum {n : Nat} {a b : List Int} (ha : a.length = n) (hb : b.length = n) :
    dot a b = ∑ k ∈ Finset.range n, a.getD k 0 * b.getD k 0 := by
  induction n generalizing a b with
  | zero => simp [List.length_eq_zero_iff.mp ha, List.length_eq_zero_iff.mp hb, dot]
  | succ n ih =>
    obtain ⟨x, a, rfl⟩ := List.exists_cons_of_length_eq_add_one ha
    obtain ⟨y, b, rfl⟩ := List.exists_cons_of_length_eq_add_one hb
    rw [dot_cons, Finset.sum_range_succ', ih (by simpa using ha) (by simpa using hb)]
    simp [add_comm]

theorem length_vecSum (ls : List (List Int)) : (vecSum ls).length = 16 := by simp [vecSum]

theorem getD_vecSum (f : Nat → List Int) (n : Nat) {k : Nat} (hk : k < 16) :
    (vecSum ((List.range n).map f)).getD k 0 = ∑ o ∈ Finset.range n, (f o).getD k 0 := by
  simp [vecSum, List.getD_eq_getElem?_getD, List.getElem?_range hk, List.foldl_map, foldl_add_range (fun o => ((f o)[k]?).getD 0) n]

theorem dot_comm (a b : List Int) : dot a b = dot b a := by
  induction a generalizing b with
  | nil => cases b <;> rfl
  | cons x a ih =>
    cases b with
    | nil => rfl
    | cons y b => rw [dot_cons, dot_cons, ih, mul_comm]

/-- The sum vector of several lines stands for them in a dot product. -/
theorem dot_vecSum {l : List Int} {f : Nat → List Int} {n : Nat} (hl : l.length = 16) (hf : ∀ o < n, (f o).length = 16) :
    dot l (vecSum ((List.range n).map f)) = ∑ o ∈ Finset.range n, dot l (f o) := by
  have hdot : ∀ o ∈ Finset.range n, dot l (f o) = ∑ k ∈ Finset.range 16, l.getD k 0 * (f o).getD k 0 :=
    fun o ho => dot_eq_sum hl (hf o (Finset.mem_range.mp ho))
  rw [dot_eq_sum hl (length_vecSum _), Finset.sum_congr rfl hdot, Finset.sum_comm]
  refine Finset.sum_congr rfl (fun k hk => ?_)
  rw [getD_vecSum f n (Finset.mem_range.mp hk), Finset.mul_sum]

/-! ## Limbs -/

/-- One limb of an integer (R115). -/
def limbVal (w16 hi : Bool) (x : Int) : Int :=
  let p : Int := if !w16 then (if hi then 0 else (x.natAbs : Int)) else if hi then (x.natAbs : Int) / 256 else (x.natAbs : Int) % 256
  if x < 0 then -p else p

theorem limbOf_eq_map (w16 hi : Bool) (m : List Int) : limbOf w16 hi m = m.map (limbVal w16 hi) := rfl

theorem limbVal_zero (w16 hi : Bool) : limbVal w16 hi 0 = 0 := by cases w16 <;> cases hi <;> rfl

/-- An operand aligned at 8 has its lower limb alone. -/
theorem limbVal_narrow_lo (x : Int) : limbVal false false x = x := by
  simp only [limbVal, Bool.not_false, if_true, Bool.false_eq_true, if_false]
  omega

theorem limbVal_narrow_hi (x : Int) : limbVal false true x = 0 := by simp [limbVal]

theorem natAbs_limbVal_wide_lo (x : Int) : (limbVal true false x).natAbs = x.natAbs % 256 := by
  simp only [limbVal, Bool.not_true, Bool.false_eq_true, if_false]
  omega

theorem natAbs_limbVal_wide_hi (x : Int) : (limbVal true true x).natAbs = x.natAbs / 256 := by
  simp only [limbVal, Bool.not_true, Bool.false_eq_true, if_false, if_true]
  omega

/-- The limbs of an operand aligned at 16 have its sign. -/
theorem limbVal_wide_recombine (x : Int) : limbVal true false x + 256 * limbVal true true x = x := by
  simp only [limbVal, Bool.not_true, Bool.false_eq_true, if_false, if_true]
  omega

theorem getD_limbOf (w16 hi : Bool) (m : List Int) (k : Nat) : (limbOf w16 hi m).getD k 0 = limbVal w16 hi (m.getD k 0) := by
  rw [limbOf_eq_map, ← limbVal_zero w16 hi, List.getD_map, limbVal_zero]

@[simp] theorem length_limbOf (w16 hi : Bool) (m : List Int) : (limbOf w16 hi m).length = m.length := by
  rw [limbOf_eq_map, List.length_map]

/-- The integers that an operand aligned at 16 or at 8 holds. -/
def InRange (w16 : Bool) (x : Int) : Prop := x.natAbs < (if w16 then 2 ^ 16 else 2 ^ 8)

theorem natAbs_limbVal_le {w16 : Bool} (hi : Bool) {x : Int} (h : InRange w16 x) : (limbVal w16 hi x).natAbs ≤ 255 := by
  match w16, hi, h with
  | false, false, h => rw [limbVal_narrow_lo]; exact Nat.le_of_lt_succ h
  | false, true, _ => simp [limbVal_narrow_hi]
  | true, false, _ => rw [natAbs_limbVal_wide_lo]; omega
  | true, true, h => rw [natAbs_limbVal_wide_hi]; exact Nat.le_of_lt_succ (Nat.div_lt_of_lt_mul h)

theorem limbs_recombine (w16 : Bool) (x : Int) : limbVal w16 false x + 256 * limbVal w16 true x = x := by
  cases w16 with
  | false => rw [limbVal_narrow_lo, limbVal_narrow_hi, mul_zero, add_zero]
  | true => exact limbVal_wide_recombine x

/-! ## Steps of 64 lines -/

/-- The lines of one operand as R254 takes them: 64 of 16 integers, in the range of their alignment. -/
def WellAligned (w16 : Bool) (ls : List (List Int)) : Prop := ls.length = 64 ∧ ∀ l ∈ ls, l.length = 16 ∧ ∀ y ∈ l, InRange w16 y

section Lines

variable {w16 : Bool} {ls : List (List Int)} (h : WellAligned w16 ls) {i : Nat} (hi : i < 64)
include h hi

theorem getD_mem_of_wellAligned : ls.getD i [] ∈ ls := by
  have hlen : i < ls.length := h.1.symm ▸ hi
  rw [List.getD_eq_getElem _ _ hlen]
  exact List.getElem_mem hlen

theorem length_line : (ls.getD i []).length = 16 := (h.2 _ (getD_mem_of_wellAligned h hi)).1

theorem inRange_line (k : Nat) : InRange w16 ((ls.getD i []).getD k 0) := by
  obtain ⟨_, hrange⟩ := h.2 _ (getD_mem_of_wellAligned h hi)
  by_cases hk : k < (ls.getD i []).length
  · rw [List.getD_eq_getElem _ _ hk]
    exact hrange _ (List.getElem_mem hk)
  · rw [List.getD_eq_default _ _ (by omega)]
    cases w16 <;> simp [InRange]

end Lines

section Limbs

variable {x : GroupStep} (limb : Nat) {i : Nat} (hi : i < 64)
include hi

theorem length_lineA (ha : WellAligned x.wa x.a) : (x.lineA limb i).length = 16 := by
  rw [GroupStep.lineA, length_limbOf, length_line ha hi]

theorem length_lineB (hb : WellAligned x.wb x.b) : (x.lineB limb i).length = 16 := by
  rw [GroupStep.lineB, length_limbOf, length_line hb hi]

end Limbs

/-! ## The check of one line -/

theorem modulus_pos (chan : Nat) : 0 < modulus chan := by unfold modulus; omega

/-- What the errors of the pipe add to one residue. -/
def pipeOff (x : GroupStep) (chan limb i j : Nat) : Nat :=
  x.errs.foldl (fun n e => if e.row = i ∧ e.col = j ∧ e.chan = chan ∧ e.limb = limb then n + e.delta else n) 0

theorem residue_eq (x : GroupStep) (chan limb i j : Nat) :
    (x.residue chan limb i j : Int) = (dot (x.lineA limb i) (x.lineB limb j) + pipeOff x chan limb i j) % (modulus chan : Int) :=
  Int.toNat_of_nonneg (Int.emod_nonneg _ (by have := modulus_pos chan; omega))

/-- The sum vector with which the rows, or the columns, of a limb pair are checked. -/
def checkSums (x : GroupStep) (limb : Nat) (col : Bool) : List Int :=
  if col then vecSum ((List.range 64).map (x.lineA limb)) else vecSum ((List.range 64).map (x.lineB limb))

/-- What the errors of the pipe add to the residues of one row or column. -/
def lineOff (x : GroupStep) (chan limb : Nat) (col : Bool) (line : Nat) : Nat :=
  ∑ o ∈ Finset.range 64, if col then pipeOff x chan limb o line else pipeOff x chan limb line o

/-- A residue check compares sums that are equal but for the errors. -/
theorem mod_beq_iff_dvd {m rs off : Nat} {want : Int} (hm : 0 < m) (h : (rs : Int) ≡ want + off [ZMOD m]) :
    (rs % m == (want % (m : Int)).toNat) = true ↔ m ∣ off := by
  have hwant : ((want % (m : Int)).toNat : Int) = want % m := Int.toNat_of_nonneg (Int.emod_nonneg _ (by omega))
  calc (rs % m == (want % (m : Int)).toNat) = true
      ↔ ((rs % m : Nat) : Int) = ((want % (m : Int)).toNat : Int) := by rw [beq_iff_eq, Int.ofNat_inj]
    _ ↔ want + off ≡ want [ZMOD m] := by rw [hwant, Int.natCast_mod]; exact ⟨fun hr => h.symm.trans hr, fun hr => h.trans hr⟩
    _ ↔ (m : Int) ∣ off := by rw [Int.modEq_comm, Int.modEq_iff_dvd, add_sub_cancel_left]
    _ ↔ m ∣ off := Int.natCast_dvd_natCast

/-- The residues along a line of results sum to the dot products along it, off by the errors there. -/
theorem sum_residues_modEq (x : GroupStep) (chan limb : Nat) (i j : Nat → Nat) :
    ((∑ o ∈ Finset.range 64, x.residue chan limb (i o) (j o) : Nat) : Int) ≡
      (∑ o ∈ Finset.range 64, dot (x.lineA limb (i o)) (x.lineB limb (j o))) + (∑ o ∈ Finset.range 64, pipeOff x chan limb (i o) (j o) : Nat)
      [ZMOD modulus chan] := by
  push_cast
  rw [← Finset.sum_add_distrib]
  exact Int.ModEq.sum (fun o _ => residue_eq x chan limb (i o) (j o) ▸ Int.mod_modEq _ _)

/-- A row or column passes exactly where the modulus divides the errors on it, as the other operand's sum vector stands for all its lines. -/
theorem lineOk_iff {x : GroupStep} (ha : WellAligned x.wa x.a) (hb : WellAligned x.wb x.b) (chan limb : Nat) (col : Bool) {line : Nat} (hline : line < 64) :
    x.lineOk chan limb col (checkSums x limb col) line = true ↔ modulus chan ∣ lineOff x chan limb col line := by
  cases col with
  | false =>
    simp only [GroupStep.lineOk, lineOff, checkSums, Bool.false_eq_true, if_false, foldl_add_range (x.residue chan limb line)]
    refine mod_beq_iff_dvd (modulus_pos chan) ?_
    rw [dot_vecSum (length_lineA limb hline ha) (fun o ho => length_lineB limb ho hb)]
    exact sum_residues_modEq x chan limb (fun _ => line) id
  | true =>
    simp only [GroupStep.lineOk, lineOff, checkSums, if_true, foldl_add_range (fun o => x.residue chan limb o line)]
    refine mod_beq_iff_dvd (modulus_pos chan) ?_
    rw [dot_comm, dot_vecSum (length_lineB limb hline hb) (fun o ho => length_lineA limb ho ha), Finset.sum_congr rfl (fun o _ => dot_comm _ _)]
    exact sum_residues_modEq x chan limb id (fun _ => line)

/-! ## The whole check -/

/-- The check of the rows, or of the columns, of one channel and limb pair. -/
def sideCheck (x : GroupStep) (grp chan limb : Nat) (col : Bool) : Option GroupFail :=
  ((List.range 64).find? (fun line => !x.lineOk chan limb col (checkSums x limb col) line)).map (fun line =>
    { grp := grp, chan := chan, limb := limb, col := col, line := line })

theorem check_eq (x : GroupStep) (grp : Nat) :
    x.check grp = (List.range 3).findSome? (fun chan => (limbPairs x.wa x.wb).findSome? (fun limb =>
      [false, true].findSome? (sideCheck x grp chan limb))) := rfl

theorem sideCheck_eq_none {x : GroupStep} (grp : Nat) {chan limb : Nat} {col : Bool}
    (h : ∀ line < 64, x.lineOk chan limb col (checkSums x limb col) line = true) : sideCheck x grp chan limb col = none := by
  simpa [sideCheck, List.find?_eq_none] using h

theorem findSome?_eq_of_only {α β : Type} {f : α → Option β} {l : List α} {a : α} {b : β} (hmem : a ∈ l) (ha : f a = some b)
    (hrest : ∀ c, c ≠ a → f c = none) : l.findSome? f = some b := by
  induction l with
  | nil => exact absurd hmem List.not_mem_nil
  | cons c l ih =>
    rw [List.findSome?_cons]
    by_cases hc : c = a
    · rw [hc, ha]
    · rw [hrest c hc]
      exact ih ((List.mem_cons.mp hmem).resolve_left (Ne.symm hc))

theorem find?_eq_of_only {p : Nat → Bool} {n a : Nat} (ha : a < n) (hp : p a = true) (hrest : ∀ c < n, c ≠ a → p c = false) :
    (List.range n).find? p = some a := by
  rw [List.find?_range_eq_some]
  refine ⟨hp, List.mem_range.mpr ha, fun c hc => ?_⟩
  simp [hrest c (by omega) (by omega)]

/-- The check of the rows names the one row that fails. -/
theorem sideCheck_eq_some {x : GroupStep} (grp : Nat) {chan limb line : Nat} {col : Bool} (hline : line < 64)
    (hbad : x.lineOk chan limb col (checkSums x limb col) line = false)
    (hgood : ∀ l < 64, l ≠ line → x.lineOk chan limb col (checkSums x limb col) l = true) :
    sideCheck x grp chan limb col = some { grp := grp, chan := chan, limb := limb, col := col, line := line } := by
  rw [sideCheck, find?_eq_of_only hline (by simp [hbad]) (fun l hl hne => by simp [hgood l hl hne]), Option.map_some]

theorem check_eq_none {x : GroupStep} (grp : Nat) (h : ∀ chan limb col, sideCheck x grp chan limb col = none) : x.check grp = none := by
  simp [check_eq, List.findSome?_eq_none_iff, h]

/-- The one channel and limb pair of which the rows do not pass decides the check. -/
theorem check_eq_rows {x : GroupStep} {grp chan limb : Nat} (hchan : chan < 3) (hlimb : limb ∈ limbPairs x.wa x.wb) {z : GroupFail}
    (hrows : sideCheck x grp chan limb false = some z)
    (hrest : ∀ c l col, (c = chan → l ≠ limb) → sideCheck x grp c l col = none) : x.check grp = some z := by
  rw [check_eq]
  refine findSome?_eq_of_only (a := chan) (List.mem_range.mpr hchan) (findSome?_eq_of_only (a := limb) hlimb ?_ ?_) ?_
  · rw [List.findSome?_cons, hrows]
  · exact fun l hl => List.findSome?_eq_none_iff.mpr (fun col _ => hrest chan l col (fun _ => hl))
  · exact fun c hc => List.findSome?_eq_none_iff.mpr (fun l _ => List.findSome?_eq_none_iff.mpr (fun col _ => hrest c l col (fun h => absurd h hc)))

/-! ## The errors of the pipe on a line -/

theorem lineOff_of_exact {x : GroupStep} (hx : x.errs = []) (chan limb : Nat) (col : Bool) (line : Nat) : lineOff x chan limb col line = 0 := by
  simp [lineOff, pipeOff, hx]

section OneError

variable {x : GroupStep} {e : PipeErr} (hx : x.errs = [e])
include hx

theorem pipeOff_of_one (chan limb i j : Nat) :
    pipeOff x chan limb i j = if e.row = i ∧ e.col = j ∧ e.chan = chan ∧ e.limb = limb then e.delta else 0 := by
  simp [pipeOff, hx]

/-- The one error stands in its own channel and limb pair. -/
theorem lineOff_elsewhere {chan limb : Nat} (h : chan = e.chan → limb ≠ e.limb) (col : Bool) (line : Nat) : lineOff x chan limb col line = 0 := by
  have hne : ∀ i j, pipeOff x chan limb i j = 0 := by
    intro i j
    rw [pipeOff_of_one hx, if_neg]
    exact fun ⟨_, _, hc, hl⟩ => h hc.symm hl.symm
  simp [lineOff, hne]

theorem lineOff_row (hcol : e.col < 64) (row : Nat) : lineOff x e.chan e.limb false row = if row = e.row then e.delta else 0 := by
  simp only [lineOff, pipeOff_of_one hx, Bool.false_eq_true, if_false, and_true]
  by_cases hrow : row = e.row
  · simp [hrow, hcol]
  · simp [hrow, Ne.symm hrow]

end OneError

/-! ## The integers that the residues carry -/

/-- The three residues of an integer below half the product of the moduli give the integer back (R116). -/
theorem crt_residues {g : Int} (hg : g.natAbs < 8388480) {r0 r1 r2 : Nat} (h0 : (r0 : Int) = g % 255) (h1 : (r1 : Int) = g % 256)
    (h2 : (r2 : Int) = g % 257) :
    let u := (r0 * 8421376 + r1 * 16711425 + r2 * 8421120) % (255 * 256 * 257)
    (if u < 8388480 then (u : Int) else (u : Int) - ((255 * 256 * 257 : Nat) : Int)) = g := by
  intro u
  have hu : u = (r0 * 8421376 + r1 * 16711425 + r2 * 8421120) % 16776960 := rfl
  split <;> omega

/-- A limb pair's dot product is below the bound of R116. -/
theorem natAbs_dot_lt {a b : List Int} (ha : a.length = 16) (hb : b.length = 16) (hal : ∀ k, (a.getD k 0).natAbs ≤ 255)
    (hbl : ∀ k, (b.getD k 0).natAbs ≤ 255) : (dot a b).natAbs < 8388480 := by
  have hterm : ∀ k ∈ Finset.range 16, |a.getD k 0 * b.getD k 0| ≤ 65025 := by
    intro k _
    have := Nat.mul_le_mul (hal k) (hbl k)
    rw [Int.abs_eq_natAbs, Int.natAbs_mul]
    exact_mod_cast this
  have hsum := (Finset.abs_sum_le_sum_abs (fun k => a.getD k 0 * b.getD k 0) (Finset.range 16)).trans (Finset.sum_le_card_nsmul _ _ _ hterm)
  rw [← dot_eq_sum ha hb, Finset.card_range, Int.abs_eq_natAbs] at hsum
  simp only [nsmul_eq_mul] at hsum
  omega

theorem dot_zeros (a b : List Int) : dot (a.map (fun _ => 0)) b = 0 := by
  induction a generalizing b with
  | nil => rfl
  | cons x a ih =>
    cases b with
    | nil => rfl
    | cons y b => rw [List.map_cons, dot_cons, ih, zero_mul, add_zero]

/-- A dot product with an upper limb that the operand does not carry is 0. -/
theorem dot_lineA_absent (x : GroupStep) {limb : Nat} (hlimb : 2 ≤ limb) (hwa : x.wa = false) (i : Nat) (b : List Int) : dot (x.lineA limb i) b = 0 := by
  have hzero : limbVal false true = fun _ => 0 := funext limbVal_narrow_hi
  rw [GroupStep.lineA, hwa, limbOf_eq_map, decide_eq_true hlimb, hzero, dot_zeros]

theorem dot_lineB_absent (x : GroupStep) {limb : Nat} (hlimb : limb % 2 = 1) (hwb : x.wb = false) (j : Nat) (a : List Int) : dot a (x.lineB limb j) = 0 := by
  have hzero : limbVal false true = fun _ => 0 := funext limbVal_narrow_hi
  rw [GroupStep.lineB, hwb, limbOf_eq_map, show (limb % 2 == 1) = true by simp [hlimb], hzero, dot_comm, dot_zeros]

/-- The limb pairs that the operands carry, each with its weight, add up to all four, as the others are 0. -/
theorem foldl_limbPairs {wa wb : Bool} {p : Nat → Int} (hwa : wa = false → p 2 = 0 ∧ p 3 = 0) (hwb : wb = false → p 1 = 0 ∧ p 3 = 0) :
    (limbPairs wa wb).foldl (fun s limb => s + p limb * (2 ^ (8 * (limb / 2 + limb % 2)) : Nat)) 0 = p 0 + 256 * p 1 + 256 * p 2 + 65536 * p 3 := by
  cases wa <;> cases wb <;> simp [limbPairs, hwa, hwb] <;> ring

section Exact

variable {x : GroupStep} (ha : WellAligned x.wa x.a) (hb : WellAligned x.wb x.b) {i j : Nat} (hi : i < 64) (hj : j < 64)
include ha hb hi hj

theorem partialDot_of_exact (hx : x.errs = []) (limb : Nat) : x.partialDot limb i j = dot (x.lineA limb i) (x.lineB limb j) := by
  have hres : ∀ chan, (x.residue chan limb i j : Int) = dot (x.lineA limb i) (x.lineB limb j) % (modulus chan : Int) := by
    intro chan
    rw [residue_eq, pipeOff, hx, List.foldl_nil, Nat.cast_zero, add_zero]
  refine crt_residues (natAbs_dot_lt (length_lineA limb hi ha) (length_lineB limb hj hb) (fun k => ?_) (fun k => ?_)) (hres 0) (hres 1) (hres 2)
  · rw [GroupStep.lineA, getD_limbOf]
    exact natAbs_limbVal_le _ (inRange_line ha hi k)
  · rw [GroupStep.lineB, getD_limbOf]
    exact natAbs_limbVal_le _ (inRange_line hb hj k)

/-- The four products of limbs, weighted, are the product of the lines. -/
theorem limb_dots_recombine :
    dot (x.lineA 0 i) (x.lineB 0 j) + 256 * dot (x.lineA 1 i) (x.lineB 1 j) + 256 * dot (x.lineA 2 i) (x.lineB 2 j) + 65536 * dot (x.lineA 3 i) (x.lineB 3 j)
      = dot (x.a.getD i []) (x.b.getD j []) := by
  have hlimb := fun limb => dot_eq_sum (length_lineA limb hi ha) (length_lineB limb hj hb)
  rw [hlimb, hlimb, hlimb, hlimb, dot_eq_sum (length_line ha hi) (length_line hb hj), Finset.mul_sum, Finset.mul_sum, Finset.mul_sum,
    ← Finset.sum_add_distrib, ← Finset.sum_add_distrib, ← Finset.sum_add_distrib]
  refine Finset.sum_congr rfl (fun k _ => ?_)
  simp only [GroupStep.lineA, GroupStep.lineB, getD_limbOf]
  have hA := limbs_recombine x.wa ((x.a.getD i []).getD k 0)
  have hB := limbs_recombine x.wb ((x.b.getD j []).getD k 0)
  generalize (x.a.getD i []).getD k 0 = y at hA ⊢
  generalize (x.b.getD j []).getD k 0 = z at hB ⊢
  change limbVal x.wa false y * limbVal x.wb false z + 256 * (limbVal x.wa false y * limbVal x.wb true z)
    + 256 * (limbVal x.wa true y * limbVal x.wb false z) + 65536 * (limbVal x.wa true y * limbVal x.wb true z) = y * z
  linear_combination (limbVal x.wb false z + 256 * limbVal x.wb true z) * hA + y * hB

/-- The value formed from the residues of an exact step is the exact group integer (R115, R116). -/
theorem value_of_exact (hx : x.errs = []) : x.value i j = dot (x.a.getD i []) (x.b.getD j []) := by
  have hpart : ∀ limb, x.partialDot limb i j = dot (x.lineA limb i) (x.lineB limb j) := partialDot_of_exact ha hb hi hj hx
  rw [GroupStep.value, foldl_limbPairs, hpart, hpart, hpart, hpart, limb_dots_recombine ha hb hi hj]
  · exact fun hwa => ⟨(hpart 2).trans (dot_lineA_absent x (by decide) hwa i _), (hpart 3).trans (dot_lineA_absent x (by decide) hwa i _)⟩
  · exact fun hwb => ⟨(hpart 1).trans (dot_lineB_absent x (by decide) hwb j _), (hpart 3).trans (dot_lineB_absent x (by decide) hwb j _)⟩

end Exact

section Step

variable {x : GroupStep} (ha : WellAligned x.wa x.a) (hb : WellAligned x.wb x.b) (grp : Nat)
include ha hb

theorem sideCheck_of_exact_lines {chan limb : Nat} {col : Bool} (h : ∀ line, lineOff x chan limb col line = 0) :
    sideCheck x grp chan limb col = none :=
  sideCheck_eq_none grp (fun line hline => (lineOk_iff ha hb chan limb col hline).mpr (by rw [h line]; exact dvd_zero _))

/-- The rows of the error's channel and limb pair fail in its row alone. -/
theorem sideCheck_of_one {e : PipeErr} (hx : x.errs = [e]) (hrow : e.row < 64) (hcol : e.col < 64) (hdelta : e.delta % modulus e.chan ≠ 0) :
    sideCheck x grp e.chan e.limb false = some { grp := grp, chan := e.chan, limb := e.limb, col := false, line := e.row } := by
  refine sideCheck_eq_some grp hrow ?_ (fun l hl hne => ?_)
  · rw [← Bool.not_eq_true, lineOk_iff ha hb e.chan e.limb false hrow, lineOff_row hx hcol, if_pos rfl]
    exact fun hdvd => hdelta (Nat.mod_eq_zero_of_dvd hdvd)
  · rw [lineOk_iff ha hb e.chan e.limb false hl, lineOff_row hx hcol, if_neg hne]
    exact dvd_zero _

end Step

/-- Settles O60: a line passes where the modulus divides its errors (`lineOk_iff`), so that an exact step passes everywhere, and one error fails first in
its own row, all other channels and limb pairs being without error. -/
theorem groupCheckFindsAnError : Obligations.GroupCheckFindsAnError := by
  unfold Obligations.GroupCheckFindsAnError
  intro x grp hla hlb hra hrb
  have ha : WellAligned x.wa x.a := ⟨hla, hra⟩
  have hb : WellAligned x.wb x.b := ⟨hlb, hrb⟩
  refine ⟨fun hx => ⟨?passes, fun i hi j hj => value_of_exact ha hb hi hj hx⟩, fun e hx hrow hcol hchan hlimb hdelta => ?found⟩
  case passes => exact check_eq_none grp (fun chan limb col => sideCheck_of_exact_lines ha hb grp (lineOff_of_exact hx chan limb col))
  case found =>
    exact check_eq_rows hchan hlimb (sideCheck_of_one ha hb grp hx hrow hcol hdelta)
      (fun c l col hne => sideCheck_of_exact_lines ha hb grp (lineOff_elsewhere hx hne col))

/-- A step of ones in which one error changes the residue of row 3 and column 5 in the channel of modulus 256. -/
def oneErrorStep : GroupStep :=
  { a := List.replicate 64 (List.replicate 16 1), b := List.replicate 64 (List.replicate 16 1), wa := false, wb := true
    errs := [{ grp := 2, row := 3, col := 5, chan := 1, limb := 1, delta := 7 }] }

/-- The theorem's conditions are met: the check of such a step names the error. -/
theorem check_oneErrorStep : oneErrorStep.check 2 = some { grp := 2, chan := 1, limb := 1, col := false, line := 3 } := by
  obtain ⟨_, hfound⟩ := groupCheckFindsAnError oneErrorStep 2 List.length_replicate List.length_replicate (by decide) (by decide)
  exact hfound _ rfl (by decide) (by decide) (by decide) (by decide) (by decide)

end Sys2Proof.Proofs

/-! PROOFS. An instruction that writes results with flags computes each lane once, in a table of the 32 lanes; what it leaves is the statement's
`flaggedNext` (R154, R158). -/

namespace Sys2Proof.Proofs

open Sys2Proof.Machine Sys2Proof.Safety Sys2Proof.Laws

theorem getD_tab32 {α : Type} (F : Nat → α) (d : α) (l : Nat) : (tab32 F).getD l d = if l < 32 then F l else d := by
  split
  next hl => simp [tab32, List.getD_eq_getElem?_getD, List.getElem?_range hl]
  next hl => exact List.getD_eq_default _ _ (by simpa [tab32] using hl)

theorem lt_of_mem_lanesOf {m : Mask} {l : Nat} (h : l ∈ lanesOf m) : l < 32 := List.mem_range.mp (List.mem_filter.mp h).1

/-- The lanes that a result is computed in (R154). -/
def computedLanes (v : View) (a : Args) (e : Mask) : List Nat := if v.isLane a.d || a.d == .none then lanesOf e else (lanesOf e).take 1

theorem lt_of_mem_computedLanes {v : View} {a : Args} {e : Mask} {l : Nat} (h : l ∈ computedLanes v a e) : l < 32 := by
  unfold computedLanes at h
  split at h
  · exact lt_of_mem_lanesOf h
  · exact lt_of_mem_lanesOf (List.mem_of_mem_take h)

/-- The results of the computed lanes ls, kept for the 32 lanes. -/
def laneTable (F : Nat → Nat × Flags) (ls : List Nat) : List (Nat × Flags) := tab32 (fun l => if ls.contains l then F l else (0, 0))

theorem getD_laneTable (F : Nat → Nat × Flags) {ls : List Nat} (hls : ∀ l ∈ ls, l < 32) (l : Nat) :
    (laneTable F ls).getD l (0, 0) = if ls.contains l then F l else (0, 0) := by
  rw [laneTable, getD_tab32]
  by_cases hl : l < 32
  · rw [if_pos hl]
  · rw [if_neg hl, if_neg (fun hin => hl (hls l (List.contains_iff_mem.mp hin)))]

/-- `flagBody` answers from its table what the function does in the computed lanes. -/
theorem flagBody_eq (F : Nat → Nat × Flags) (v : View) (a : Args) (ty : Nat) (e : Mask) :
    flagBody F v a ty e = .done ((v.flag ((computedLanes v a e).foldl (fun acc l => Flags.join acc (F l).2) 0)).put a.d ty e
      (fun l => if (computedLanes v a e).contains l then BitVec.ofNat 64 (F l).1 else 0)) := by
  have htable := getD_laneTable F (ls := computedLanes v a e) (fun _ hl => lt_of_mem_computedLanes hl)
  have hflags : (computedLanes v a e).foldl (fun acc l => Flags.join acc ((laneTable F (computedLanes v a e)).getD l (0, 0)).2) 0
      = (computedLanes v a e).foldl (fun acc l => Flags.join acc (F l).2) 0 :=
    List.foldl_ext _ _ _ (fun acc l hl => by rw [htable, if_pos (List.contains_iff_mem.mpr hl)])
  have hvalues : (fun l => BitVec.ofNat 64 ((laneTable F (computedLanes v a e)).getD l (0, 0)).1)
      = fun l => if (computedLanes v a e).contains l then BitVec.ofNat 64 (F l).1 else 0 := by
    funext l
    rw [htable]
    split <;> rfl
  unfold flagBody
  exact congrArg Out.done (by rw [← hflags, ← hvalues]; rfl)

/-- An instruction whose effect is results with flags ends with them (`flaggedNext`). -/
theorem runOp_flagged {o : Op} {f : Form} {s : State} {v : View} (h : Executes o f s v) {body : View → Args → Mask → Out} {ty : Nat}
    {G : View → Args → Nat → Nat × Flags}
    (hb : body (ready o f v) (f.args o) (lanes o f v) = flagBody (G (ready o f v) (f.args o)) (ready o f v) (f.args o) ty (lanes o f v)) :
    runOp o f s (ownChecks o f) body = .next (flaggedNext o f v ty G) :=
  runOp_done h (hb.trans (flagBody_eq _ _ _ _ _))

end Sys2Proof.Proofs

/-! PROOFS. Conversions to integers and to anchored integers (R112, R120, R121). All of them round one quotient X / D of naturals: toward zero, away from
zero or to the nearest. -/

namespace Sys2Proof.Proofs

open Sys2Proof.Machine Sys2Proof.Safety Sys2Proof.Laws

/-! ## The rounded quotient -/

/-- A quotient q with a remainder r over D is rounded away from zero (R109). -/
def roundsUp (rm : Nat) (neg : Bool) (D q r : Nat) : Bool :=
  match rm with
  | 0 => D < 2 * r || (D == 2 * r && q % 2 == 1)
  | 2 => !neg
  | 3 => neg
  | _ => false

/-- X / D rounded to an integer, and whether that is inexact. -/
def roundQuot (rm : Nat) (neg : Bool) (X D : Nat) : Nat × Bool :=
  if X % D = 0 then (X / D, false) else (if roundsUp rm neg D (X / D) (X % D) then X / D + 1 else X / D, true)

theorem roundNat_eq (rm : Nat) (neg : Bool) (m : Nat) (sh : Int) :
    roundNat rm neg m sh = roundQuot rm neg (m * 2 ^ (-sh).toNat) (2 ^ sh.toNat) := by
  unfold roundNat
  by_cases hsh : sh ≤ 0
  · rw [if_pos hsh, Int.toNat_of_nonpos hsh, pow_zero, roundQuot, Nat.mod_one, Nat.div_one, if_pos rfl]
  · have hneg : (-sh).toNat = 0 := Int.toNat_of_nonpos (by omega)
    rw [if_neg hsh, hneg, pow_zero, mul_one]
    rfl

section Quotient

variable {rm : Nat} {neg : Bool} {X D : Nat}

theorem roundQuot_of_exact (h : X % D = 0) : roundQuot rm neg X D = (X / D, false) := if_pos h

theorem roundQuot_of_up (h : X % D ≠ 0) (hup : roundsUp rm neg D (X / D) (X % D) = true) : roundQuot rm neg X D = (X / D + 1, true) := by
  rw [roundQuot, if_neg h, if_pos hup]

theorem roundQuot_of_down (h : X % D ≠ 0) (hdown : roundsUp rm neg D (X / D) (X % D) = false) : roundQuot rm neg X D = (X / D, true) := by
  rw [roundQuot, if_neg h, if_neg (by simp [hdown])]

theorem roundQuot_toward (hdown : ∀ q r, roundsUp rm neg D q r = false) : (roundQuot rm neg X D).1 = X / D := by
  by_cases h : X % D = 0
  · rw [roundQuot_of_exact h]
  · rw [roundQuot_of_down h (hdown _ _)]

/-- A quotient of a negative integer, by that of its magnitude. -/
theorem neg_ediv_natCast (X : Nat) {D : Nat} (hD : 0 < D) : -(X : Int) / D = -((X / D + if X % D = 0 then 0 else 1 : Nat) : Int) := by
  have hdiv : (X : Int) = D * (X / D : Nat) + (X % D : Nat) := by exact_mod_cast (Nat.div_add_mod X D).symm
  have hlt : X % D < D := Nat.mod_lt X hD
  generalize X / D = q, X % D = r at hdiv hlt ⊢
  refine ((Int.ediv_emod_unique (r := if r = 0 then 0 else (D : Int) - r) (by omega)).mpr ?_).1
  split
  next h => exact ⟨by rw [hdiv, h]; push_cast; ring, le_rfl, by omega⟩
  next h => exact ⟨by rw [hdiv]; push_cast; ring, by omega, by omega⟩

theorem roundQuot_away (hD : 0 < D) (hup : ∀ q r, roundsUp rm neg D q r = true) : ((roundQuot rm neg X D).1 : Int) = -(-(X : Int) / D) := by
  rw [neg_ediv_natCast X hD, neg_neg]
  by_cases h : X % D = 0
  · rw [roundQuot_of_exact h, if_pos h, add_zero]
  · rw [roundQuot_of_up h (hup _ _), if_neg h]

/-- The rounding is inexact exactly where the rounded integer is not the quotient. -/
theorem roundQuot_inexact_iff (hD : 0 < D) : (roundQuot rm neg X D).2 = true ↔ (roundQuot rm neg X D).1 * D ≠ X := by
  have hdiv : X / D * D + X % D = X := Nat.div_add_mod' X D
  have hlt : X % D < D := Nat.mod_lt X hD
  by_cases h : X % D = 0
  · rw [roundQuot_of_exact h]
    simp only [Bool.false_eq_true, false_iff]
    omega
  · cases hup : roundsUp rm neg D (X / D) (X % D) with
    | true =>
      rw [roundQuot_of_up h hup]
      simp only [true_iff, add_mul, one_mul]
      omega
    | false =>
      rw [roundQuot_of_down h hup]
      simp only [true_iff]
      omega

/-- To the nearest: the error is at most a half, and at a half the result is even. -/
theorem roundQuot_nearest (hD : 0 < D) :
    let n := (roundQuot 0 neg X D).1
    2 * ((n * D : Int) - X).natAbs ≤ D ∧ (2 * ((n * D : Int) - X).natAbs = D → n % 2 = 0) := by
  have hdiv : ((X / D : Nat) : Int) * D + (X % D : Nat) = X := by exact_mod_cast Nat.div_add_mod' X D
  by_cases h : X % D = 0
  · rw [roundQuot_of_exact h]
    dsimp only
    omega
  · cases hup : roundsUp 0 neg D (X / D) (X % D) with
    | true =>
      rw [roundQuot_of_up h hup]
      simp only [roundsUp, Bool.or_eq_true, decide_eq_true_eq, Bool.and_eq_true, beq_iff_eq] at hup
      have := Nat.mod_lt X hD
      generalize X / D = q, X % D = r at *
      push_cast
      rw [add_mul, one_mul]
      omega
    | false =>
      rw [roundQuot_of_down h hup]
      simp only [roundsUp, Bool.or_eq_false_iff, decide_eq_false_iff_not, Bool.and_eq_false_iff, beq_eq_false_iff_ne] at hup
      dsimp only
      omega

end Quotient

/-- A magnitude with its sign. -/
def signed (neg : Bool) (n : Nat) : Int := if neg then -(n : Int) else n

@[simp] theorem signed_false (n : Nat) : signed false n = n := rfl
@[simp] theorem signed_true (n : Nat) : signed true n = -(n : Int) := rfl

theorem signed_eq_mul (neg : Bool) (n : Nat) : signed neg n = (if neg then -1 else 1) * n := by
  cases neg <;> simp

/-! ## cvti (R112) -/

/-- r is the integer that the rounding mode picks for x / d: the nearest, even at a tie, the one toward 0, upward or downward. -/
def Picks (rm : Nat) (x d r : Int) : Prop :=
  (rm = 0 → 2 * (r * d - x).natAbs ≤ d.natAbs ∧ (2 * (r * d - x).natAbs = d.natAbs → r % 2 = 0)) ∧ (rm = 1 → r = x.tdiv d) ∧
    (rm = 2 → r = -((-x) / d)) ∧ (rm = 3 → r = x / d)

theorem picks_towardZero (neg : Bool) (X D : Nat) : Picks 1 (signed neg X) D (signed neg (roundQuot 1 neg X D).1) := by
  refine ⟨nofun, fun _ => ?_, nofun, nofun⟩
  rw [roundQuot_toward (fun _ _ => rfl)]
  cases neg with
  | false => exact Int.ofNat_tdiv X D
  | true => simp only [signed_true, Int.neg_tdiv, Int.ofNat_tdiv]

section Signed

variable (neg : Bool) (X : Nat) {D : Nat} (hD : 0 < D)
include hD

theorem picks_nearest : Picks 0 (signed neg X) D (signed neg (roundQuot 0 neg X D).1) := by
  refine ⟨fun _ => ?_, nofun, nofun, nofun⟩
  have h := roundQuot_nearest (neg := neg) (X := X) hD
  generalize (roundQuot 0 neg X D).1 = n at h ⊢
  obtain ⟨hhalf, heven⟩ := h
  have habs : (signed neg n * D - signed neg X).natAbs = ((n * D : Int) - X).natAbs := by
    cases neg with
    | false => rfl
    | true => simp only [signed_true]; rw [← Int.natAbs_neg]; congr 1; ring
  rw [habs, Int.natAbs_natCast]
  refine ⟨hhalf, fun htie => ?_⟩
  have heven := heven htie
  cases neg with
  | false => rw [signed_false]; omega
  | true => rw [signed_true]; omega

theorem picks_up : Picks 2 (signed neg X) D (signed neg (roundQuot 2 neg X D).1) := by
  refine ⟨nofun, nofun, fun _ => ?_, nofun⟩
  cases neg with
  | false => exact roundQuot_away hD (fun _ _ => rfl)
  | true => simp only [signed_true, neg_neg, roundQuot_toward (rm := 2) (neg := true) (fun _ _ => rfl), Int.natCast_ediv]

theorem picks_down : Picks 3 (signed neg X) D (signed neg (roundQuot 3 neg X D).1) := by
  refine ⟨nofun, nofun, nofun, fun _ => ?_⟩
  cases neg with
  | false => simp only [signed_false, roundQuot_toward (rm := 3) (neg := false) (fun _ _ => rfl), Int.natCast_ediv]
  | true => simp only [signed_true, roundQuot_away (rm := 3) (neg := true) hD (fun _ _ => rfl), neg_neg]

theorem picks_signed {rm : Nat} (hrm : rm < 4) : Picks rm (signed neg X) D (signed neg (roundQuot rm neg X D).1) := by
  match rm, hrm with
  | 0, _ => exact picks_nearest neg X hD
  | 1, _ => exact picks_towardZero neg X D
  | 2, _ => exact picks_up neg X hD
  | 3, _ => exact picks_down neg X hD

end Signed

/-- A finite value is rounded, then held to the range; it is inexact where the rounded value is another. -/
theorem cvtI_num (lo hi : Int) (rm : Nat) (neg : Bool) (m : Nat) (e : Int) :
    let q := roundQuot rm neg (m * 2 ^ e.toNat) (2 ^ (-e).toNat)
    cvtI lo hi rm (.num neg m e) =
      if signed neg q.1 < lo then (lo, 1) else if hi < signed neg q.1 then (hi, 1) else (signed neg q.1, if q.2 then 16 else 0) := by
  simp only [cvtI, Ex.roundInt, roundNat_eq, neg_neg]
  rfl

theorem inexact_flag_eq (neg : Bool) (rm X : Nat) {D : Nat} (hD : 0 < D) :
    (if (roundQuot rm neg X D).2 then 16 else 0 : Flags) = if signed neg (roundQuot rm neg X D).1 * D = signed neg X then 0 else 16 := by
  have h : signed neg (roundQuot rm neg X D).1 * D = signed neg X ↔ (roundQuot rm neg X D).1 * D = X := by
    cases neg with
    | false => simp only [signed_false]; exact_mod_cast Iff.rfl
    | true => simp only [signed_true, neg_mul, neg_inj]; exact_mod_cast Iff.rfl
  by_cases hx : (roundQuot rm neg X D).1 * D = X
  · rw [if_pos (h.mpr hx), if_neg (fun hi => (roundQuot_inexact_iff hD).mp hi hx)]
  · rw [if_neg (fun hi => hx (h.mp hi)), if_pos ((roundQuot_inexact_iff hD).mpr hx)]

/-- Settles O56: a finite value's magnitude is a quotient of naturals, rounded to the integer that the mode picks (`picks_signed`) and inexact where
that is another number (`inexact_flag_eq`); i2f writes results with flags. -/
theorem conversionToIntegers : Obligations.ConversionToIntegers := by
  unfold Obligations.ConversionToIntegers
  refine ⟨fun lo hi rm b => ⟨rfl, rfl⟩, fun lo hi rm neg m e hrm => ?finite, fun i => rfl, fun f s v h => runOp_flagged h (body := i2fBody) rfl⟩
  case finite =>
    have hD : 0 < 2 ^ (-e).toNat := Nat.two_pow_pos _
    intro x d
    have hx : x = signed neg (m * 2 ^ e.toNat) := by
      rw [signed_eq_mul]; push_cast; exact mul_assoc _ _ _
    have hd : d = ((2 ^ (-e).toNat : Nat) : Int) := by push_cast; rfl
    rw [hx, hd]
    obtain ⟨hnear, hzero, hup, hdown⟩ := picks_signed neg (m * 2 ^ e.toNat) hD hrm
    exact ⟨_, hnear, hzero, hup, hdown, by rw [cvtI_num, inexact_flag_eq neg rm _ hD]⟩

/-! ## Anchored integers (R120, R121) -/

/-- An anchored integer held to plus or minus (2^63 - 1), with aqs where it is clamped. -/
def saturated (i : Int) : Int × Flags := if i < -aqTop then (-aqTop, 32) else if aqTop < i then (aqTop, 32) else (i, 0)

theorem saturated_eq (i : Int) : saturated i = (max (-aqTop) (min aqTop i), if i < -aqTop ∨ aqTop < i then 32 else 0) := by
  have htop : -aqTop ≤ aqTop := by decide
  unfold saturated
  by_cases hlo : i < -aqTop
  · rw [if_pos hlo, if_pos (.inl hlo), max_eq_left (min_le_of_right_le hlo.le)]
  · by_cases hhi : aqTop < i
    · rw [if_neg hlo, if_pos hhi, if_pos (.inr hhi), min_eq_left hhi.le, max_eq_right htop]
    · rw [if_neg hlo, if_neg hhi, if_neg (by tauto), min_eq_right (not_lt.mp hhi), max_eq_right (not_lt.mp hlo)]

theorem toAq_num (neg : Bool) (m : Nat) (e a : Int) :
    toAq (.num neg m e) a = saturated (signed neg (roundNat (if neg then 2 else 1) false m (a - e)).1) := rfl

theorem aqAdd_eq (x y : Int) : aqAdd x y = saturated (x + y) := rfl

theorem reanchor_of_le {a b : Int} (n : Int) (h : b ≤ a) : reanchor n a b = saturated (n * 2 ^ (a - b).toNat) := by
  rw [reanchor, if_pos h, saturated]
  push_cast
  rfl

theorem reanchor_of_lt {a b : Int} (n : Int) (h : a < b) : reanchor n a b = (n >>> (b - a).toNat, 0) := by
  rw [reanchor, if_neg (not_le.mpr h), Int.shiftRight_eq_div_pow]

/-- The floor of a value over 2^a: its magnitude's quotient is rounded toward zero, or away from zero for a negative value. -/
theorem floor_at_anchor (neg : Bool) (m : Nat) (a e : Int) :
    signed neg (roundNat (if neg then 2 else 1) false m (a - e)).1 =
      if a ≤ e then signed neg m * 2 ^ (e - a).toNat else signed neg m / 2 ^ (a - e).toNat := by
  rw [roundNat_eq, neg_sub]
  by_cases hae : a ≤ e
  · have hnone : (a - e).toNat = 0 := Int.toNat_of_nonpos (by omega)
    rw [if_pos hae, hnone, pow_zero, roundQuot_of_exact (Nat.mod_one _), Nat.div_one, signed_eq_mul, signed_eq_mul]
    push_cast
    ring
  · have hnone : (e - a).toNat = 0 := Int.toNat_of_nonpos (by omega)
    rw [if_neg hae, hnone, pow_zero, mul_one]
    cases neg with
    | false => simp [roundQuot_toward (rm := 1) (neg := false) (D := 2 ^ (a - e).toNat) (fun _ _ => rfl)]
    | true => simp [roundQuot_away (rm := 2) (neg := false) (Nat.two_pow_pos (a - e).toNat) (fun _ _ => rfl)]

/-- Settles O57: a finite value's floor (`floor_at_anchor`) and a sum are held to the range in one way (`saturated_eq`). -/
theorem conversionToAnchored : Obligations.ConversionToAnchored := by
  unfold Obligations.ConversionToAnchored
  refine ⟨fun a b => ⟨rfl, rfl⟩, fun a neg m e => ?finite, fun x y => (aqAdd_eq x y).trans (saturated_eq _)⟩
  case finite =>
    simp only [← signed_eq_mul]
    rw [toAq_num, floor_at_anchor]
    exact saturated_eq _

/-- Settles O58: toward a lower anchor the scaled integer is held to the range as a sum is (`saturated_eq`). -/
theorem reanchoringResults : Obligations.ReanchoringResults := by
  unfold Obligations.ReanchoringResults
  exact fun n a b => ⟨fun hba => (reanchor_of_le n hba).trans (saturated_eq _), fun hab => reanchor_of_lt n hab⟩

end Sys2Proof.Proofs

/-! PROOFS. Lane and gang operations and the format register (R174 to R180). -/

namespace Sys2Proof.Proofs

open Sys2Proof.Machine Sys2Proof.Safety Sys2Proof.Laws

theorem voteBody_eq (v : View) (a : Args) (e : Mask) :
    voteBody v a e = .done (
      let m := v.rdP a.a &&& e
      match a.sub with
      | 0 => v.put a.d 5 e (fun _ => m.zeroExtend 64)
      | 1 => v.put a.d 5 e (fun _ => BitVec.ofNat 64 (lanesOf m).length)
      | 2 => v.put a.d 5 e (fun _ => BitVec.ofNat 64 ((lanesOf m).headD 32))
      | 3 => v.putPred a.d e (if m = e then BitVec.allOnes 32 else 0)
      | 4 => v.putPred a.d e (if m = 0 then 0 else BitVec.allOnes 32)
      | _ => v.putPred a.d e (if m = 0 ∨ m = e then BitVec.allOnes 32 else 0)) := by
  unfold voteBody
  match a.sub with
  | 0 | 1 | 2 => rfl
  | 3 => simp only [beq_iff_eq]
  | 4 => simp only [bne_iff_ne, ne_eq, ite_not]
  | _ + 5 => simp only [Bool.or_eq_true, beq_iff_eq]

/-- Settles O6: each effect is retired as it stands, but that `vote` compares masks by Bool, and `scan` keeps its results in a table (`runOp_flagged`). -/
theorem gangOperationResults : Obligations.GangOperationResults := by
  unfold Obligations.GangOperationResults
  intro f s v
  refine ⟨fun h n hsel => ?rdsr, fun h => ?elect, fun h => ?vote, fun h => ?matchLanes, fun h => ?shfl, fun h => ?redux, fun h => ?scan,
    fun h => ?setfmt, fun h => ?getfmt⟩
  case rdsr => exact runOp_done h (body := rdsrBody) (by simp only [rdsrBody, hsel])
  case elect => exact runOp_done h (body := electBody) rfl
  case vote => exact runOp_done h (body := voteBody) (voteBody_eq _ _ _)
  case matchLanes => exact runOp_done h (body := matchBody) rfl
  case shfl => exact runOp_done h (body := shflBody) rfl
  case redux => exact runOp_done h (body := reduxBody) rfl
  case scan => exact runOp_flagged h (body := scanBody) rfl
  case setfmt => exact runOp_done h (body := setfmtBody) rfl
  case getfmt => exact runOp_done h (body := getfmtBody) rfl

end Sys2Proof.Proofs

/-! PROOFS. Matrix multiplication and the storing of tiles: what each leaves once its own conditions are met (R239 to R241, R247, R248, R255). -/

namespace Sys2Proof.Proofs

open Sys2Proof.Machine Sys2Proof.Safety Sys2Proof.Laws

/-! ## mma and mma.ra (R239 to R241) -/

section Mma

/-- The group steps of an mma in the core's matrix pipe, and the first check that fails. -/
def pipeSteps (v : View) (lt : ALatch) (ga gb : List (List Group)) : List GroupStep × Option GroupFail :=
  groupSteps (aligned16 lt.afmt lt.w16) (aligned16 (fmtBfmt v.sp.fmt) (fmtW16 v.sp.fmt)) (v.s.coreOf v.t.core).pipe ga gb

/-- The tile that an mma leaves, with the flags of its products and additions. -/
def accumulated (v : View) (k : Nat) (lt : ALatch) (ga gb : List (List Group)) : Tile × Flags := (v.tile k).mma (pipeSteps v lt ga gb).1 ga gb

/-- The open context once an mma has used up the errors of the pipe, raised its flags and written its tile. -/
def afterMma (v : View) (k : Nat) (r : Tile × Flags) : View :=
  let core := v.s.coreOf v.t.core
  ((if core.pipe.isEmpty then v else { v with s := v.s.setCore { core with pipe := [] } }).flag r.2).setTile k r.1

variable {ra : Bool} {v : View} {a : Args} {e : Mask} {lt : ALatch} {ga gb : List (List Group)}
  (hops : v.mmaOperands ra a = some (lt, ga, gb)) (htile : (v.tile (v.tileOf a.d)).poison = false)
  (hb : v.operandPoison (v.rdU a.b 7) (fmtBfmt v.sp.fmt) lt.k (fmtBsc v.sp.fmt) = false)
  (ha : ra = false → v.operandPoison lt.desc lt.afmt lt.k lt.bsc = false)
include hops htile hb ha

theorem mmaBody_of_clean :
    mmaBody ra v a e =
      match (pipeSteps v lt ga gb).2, (accumulated v (v.tileOf a.d) lt ga gb).1.misSum with
      | some x, _ => .raise (x.raise a.d.regNum (v.tileOf a.d))
      | none, some (line, col) => .raise (assayRaise 391 a.d.regNum (v.tileOf a.d) line col)
      | none, none =>
        let u := afterMma v (v.tileOf a.d) (accumulated v (v.tileOf a.d) lt ga gb)
        if ra then .done { u with s := { u.s with free := u.s.free + lt.bytes.length + lt.scales.length } }
        else .done { u with g := { u.g with latch := some lt } } := by
  simp only [mmaBody, hops]
  refine (if_neg ?_).trans rfl
  cases ra with
  | false => simp [htile, hb, ha]
  | true => simp [htile, hb]

theorem mmaBody_of_fail {z : GroupFail} (hsteps : (pipeSteps v lt ga gb).2 = some z) :
    mmaBody ra v a e = .raise (z.raise a.d.regNum (v.tileOf a.d)) := by
  rw [mmaBody_of_clean hops htile hb ha, hsteps]

variable (hsteps : (pipeSteps v lt ga gb).2 = none) (hsum : (accumulated v (v.tileOf a.d) lt ga gb).1.misSum = none)
  {u : View} (hu : u = afterMma v (v.tileOf a.d) (accumulated v (v.tileOf a.d) lt ga gb))
include hsteps hsum hu

theorem mmaBody_latches (hra : ra = false) : mmaBody ra v a e = .done { u with g := { u.g with latch := some lt } } := by
  rw [mmaBody_of_clean hops htile hb ha, hsteps, hsum, hra, hu]
  rfl

theorem mmaBody_takesLatch (hra : ra = true) :
    mmaBody ra v a e = .done { u with s := { u.s with free := u.s.free + lt.bytes.length + lt.scales.length } } := by
  rw [mmaBody_of_clean hops htile hb ha, hsteps, hsum, hra, hu]
  rfl

end Mma

/-- Settles O16: with nothing poisoned an mma ends as the first failing group check or the tile's carried sums say (`mmaBody_of_clean`), and the latched
operand comes from the latch or from scratch. -/
theorem matrixMultiplyResults : Obligations.MatrixMultiplyResults := by
  unfold Obligations.MatrixMultiplyResults
  intro f s v
  refine ⟨fun h => ?mma, fun h => ?mmaRa⟩
  case mma =>
    intro a w k fmt da db n x y lt ga gb core steps r u htile hb ha
    have hops : w.mmaOperands false a = some (lt, ga, gb) := rfl
    exact ⟨fun hsteps hsum => runOp_done h (body := mmaBody false) (mmaBody_latches hops htile hb (fun _ => ha) hsteps hsum (u := u) rfl rfl),
      fun z hsteps => runOp_raise h (body := mmaBody false) (mmaBody_of_fail hops htile hb (fun _ => ha) hsteps)⟩
  case mmaRa =>
    intro a w lt hlatch k fmt db y now ga gb core steps r u htile hb
    have hops : w.mmaOperands true a = some (lt, ga, gb) := by simp only [View.mmaOperands, if_true, hlatch]; rfl
    exact ⟨fun hsteps hsum => runOp_done h (body := mmaBody true) (mmaBody_takesLatch hops htile hb nofun hsteps hsum (u := u) rfl rfl),
      fun z hsteps => runOp_raise h (body := mmaBody true) (mmaBody_of_fail hops htile hb nofun hsteps)⟩

/-! ## accst (R247, R248, R255) -/

section Accst

/-- The elements of a tile as accst exports them (R124): integer, class, scale, pattern and flags. -/
def exported (v : View) (a : Args) (t : Tile) : List (Int × Nat × Option Nat × Nat × Flags) :=
  let scales := (List.range 64).map (fun j => if a.c != .none then some (v.t.scratch.readLE ((v.rdU a.c 7).toNat + 4 * j) 4) else none)
  (List.range (64 * accRows a)).map (fun i =>
    let sc := scales.getD (i % 64) none
    let r := accstElem a.ty (effRm v.sp.fmt a.rm) (fmtSat v.sp.fmt) (fmtFtz v.sp.fmt) t.anchor sc (t.elem i).1 (t.elem i).2
    ((t.elem i).1, (t.elem i).2, sc, r.1, r.2))

/-- Row i of the exported elements passes the conversion check (R255). -/
def exportedRowPasses (v : View) (a : Args) (t : Tile) (i : Nat) : Bool :=
  rowPasses a.ty (fmtFtz v.sp.fmt) t.tol t.anchor (((exported v a t).drop (64 * i)).take 64)

/-- The first row that fails the conversion check, which is made for floating types. -/
def failedRow (v : View) (a : Args) (t : Tile) : Option Nat :=
  if tyIsFmt a.ty then (List.range (accRows a)).find? (fun i => !exportedRowPasses v a t i) else none

/-- The open context v once accst has raised the flags of the tile t and made its release. -/
def released (v : View) (a : Args) (t : Tile) : View :=
  (v.flag ((exported v a t).foldl (fun z i => Flags.join z i.2.2.2.2) 0)).release (a.rel && a.wide)

/-- The open context v once accst has exported t, the contents of tile k, to x: flags and release, the count of rows, the stores line by line, and
the wait for those to other packages. -/
def rowsStored (v : View) (a : Args) (k : Nat) (t : Tile) (x : Nat) : View :=
  let n := 64 * accRows a * accWidth a.ty
  let u := released v a t
  ((lineRuns (n / 128 + 2) x ((exported v a t).flatMap (fun z => toBytesLE (accWidth a.ty) z.2.2.2.1))).foldl
    (fun u p => u.store a.spc a.pol (a.rel && a.wide) p.1 p.2)
    (if tyIsFmt a.ty then u.setTile k { v.tile k with rows := Nat.min ((v.tile k).rows + accRows a) 65535 } else u)).holdUntil
    ((blockLines x n).foldl (fun t y => Nat.max t (v.farTime a.spc y)) 0)

/-- The order of accst's own conditions, all of them judged once its read is kept for a replay. -/
theorem accstBody_eq (v : View) (a : Args) (e : Mask) :
    accstBody v a e =
      let k := v.tileOf a.b
      let t := v.firstTile k
      let x := v.accAddr a e
      let w := v.logTile k
      match (blocksOf x (64 * accRows a * accWidth a.ty)).findSome? (fun y => w.parkOf a.spc y true) with
      | some p => .park w p
      | none =>
        if t.poison || (a.c != .none && w.nearPoison 2 (w.rdU a.c 7).toNat 256) then .raise (raise256 (if t.poison then 261 else 258) x)
        else match t.misSum with
          | some (line, col) => .raise (assayRaise 391 a.b.regNum k line col)
          | none => match failedRow w a t with
            | some i => .raise (assayRaise 392 a.b.regNum k i false)
            | none => .done (rowsStored w a k t x) := by
  unfold accstBody failedRow rowsStored released exportedRowPasses exported
  rfl

theorem failedRow_eq_none {v : View} {a : Args} {t : Tile} (h : tyIsFmt a.ty = true → ∀ i < accRows a, exportedRowPasses v a t i = true) :
    failedRow v a t = none := by
  unfold failedRow
  split
  next hflt => simpa [List.find?_eq_none] using h hflt
  next => rfl

/-! A read kept for a replay (R236) changes nothing that accst reads. -/

@[simp] theorem parkOf_logTile (v : View) (k spc x : Nat) (write : Bool) : (v.logTile k).parkOf spc x write = v.parkOf spc x write := rfl
@[simp] theorem rdU_logTile (v : View) (k : Nat) (o : Operand) (ty : Nat) : (v.logTile k).rdU o ty = v.rdU o ty := rfl
@[simp] theorem nearPoison_logTile (v : View) (k spc x n : Nat) : (v.logTile k).nearPoison spc x n = v.nearPoison spc x n := rfl
@[simp] theorem exported_logTile (v : View) (k : Nat) (a : Args) (t : Tile) : exported (v.logTile k) a t = exported v a t := rfl
@[simp] theorem failedRow_logTile (v : View) (k : Nat) (a : Args) (t : Tile) : failedRow (v.logTile k) a t = failedRow v a t := rfl
@[simp] theorem tile_logTile (v : View) (k j : Nat) : (v.logTile k).tile j = v.tile j := rfl
@[simp] theorem farTime_logTile (v : View) (k spc x : Nat) : (v.logTile k).farTime spc x = v.farTime spc x := rfl

theorem accstBody_of_clean {v : View} {a : Args} {e : Mask}
    (hplace : ∀ y ∈ blocksOf (v.accAddr a e) (64 * accRows a * accWidth a.ty), v.parkOf a.spc y true = none)
    (htile : (v.firstTile (v.tileOf a.b)).poison = false) (hsum : (v.firstTile (v.tileOf a.b)).misSum = none)
    (hscales : (a.c != .none) = true → v.nearPoison 2 (v.rdU a.c 7).toNat 256 = false)
    (hrows : tyIsFmt a.ty = true → ∀ i < accRows a, exportedRowPasses v a (v.firstTile (v.tileOf a.b)) i = true) :
    accstBody v a e = .done (rowsStored (v.logTile (v.tileOf a.b)) a (v.tileOf a.b) (v.firstTile (v.tileOf a.b)) (v.accAddr a e)) := by
  have hpoison : ¬ ((v.firstTile (v.tileOf a.b)).poison || (a.c != .none && v.nearPoison 2 (v.rdU a.c 7).toNat 256)) = true := by
    simpa [htile] using hscales
  simp only [accstBody_eq, parkOf_logTile, List.findSome?_eq_none_iff.mpr hplace, rdU_logTile, nearPoison_logTile, if_neg hpoison, hsum,
    failedRow_logTile, failedRow_eq_none hrows]

end Accst

/-- Settles O18: with its page there, nothing poisoned, and its sums and rows checked, accst's effect is the stored tile (`accstBody_of_clean`). -/
theorem tileExportResult : Obligations.TileExportResult := by
  unfold Obligations.TileExportResult
  intro f s v h a w e k x wd n named flt q fmt tile scales el u hplace htile hsum hscales hrows
  refine (runOp_done h (body := accstBody) (accstBody_of_clean hplace htile hsum hscales hrows)).trans ?_
  simp only [rowsStored, released, exported_logTile, tile_logTile, farTime_logTile]
  rfl

end Sys2Proof.Proofs

/-! PROOFS. JV words (R126 to R135): what each field of the encoded words holds, and that the decoder reads the form back from them. -/

namespace Sys2Proof.Proofs

/-! ## Operands (R129, R130) -/

/-- The operands a field can carry, an extension word with them where the field is not C. -/
inductive JvCarried (fieldC : Bool) : Operand → Prop where
  | none : JvCarried fieldC .none
  | lit (v : BitVec 6) : JvCarried fieldC (.lit v)
  | pconst (b : Bool) : JvCarried fieldC (.pconst b)
  | sys (n : Nat) (hn : n < 10) : JvCarried fieldC (.sys n)
  | reg (n : Nat) (hn : n < 0xF00) : JvCarried fieldC (.reg n false)
  | escReg (n : Nat) (hC : fieldC = false) (hn : n < 2 ^ 32) : JvCarried fieldC (.reg n true)
  | signedImm (v : Word) (hC : fieldC = false) (hv : v = BitVec.signExtend 64 (v.truncate 32)) : JvCarried fieldC (.imm 1 v)
  | unsignedImm (v : Word) (hC : fieldC = false) (hv : v.toNat < 2 ^ 32) : JvCarried fieldC (.imm 2 v)
  | wordImm (v : Word) (hC : fieldC = false) : JvCarried fieldC (.imm 3 v)

theorem jvCarried_of_encodable {fieldC : Bool} : ∀ {x : Operand}, x.encodable fieldC = true → JvCarried fieldC x
  | .none, _ => .none
  | .lit v, _ => .lit v
  | .pconst b, _ => .pconst b
  | .sys n, h => .sys n (of_decide_eq_true h)
  | .reg n false, h => .reg n (of_decide_eq_true h)
  | .reg n true, h =>
    have ⟨hC, hn⟩ : fieldC = false ∧ n < 2 ^ 32 := by simpa [Operand.encodable] using h
    .escReg n hC hn
  | .imm 1 v, h =>
    have ⟨hC, hv⟩ : fieldC = false ∧ v = BitVec.signExtend 64 (v.truncate 32) := by simpa [Operand.encodable] using h
    .signedImm v hC hv
  | .imm 2 v, h =>
    have ⟨hC, hv⟩ : fieldC = false ∧ v.toNat < 2 ^ 32 := by simpa [Operand.encodable] using h
    .unsignedImm v hC hv
  | .imm 3 v, h => .wordImm v (by simpa [Operand.encodable] using h)

/-- The codes from 0xFF0 on are those of the operands with an extension word (R128). -/
theorem JvCarried.code_range {fieldC : Bool} {x : Operand} (h : JvCarried fieldC x) :
    (x.escapes = 0 ∧ encodeOperand x < 0xFF0) ∨ (x.escapes = 1 ∧ 0xFF0 ≤ encodeOperand x ∧ encodeOperand x ≤ 0xFF3) := by
  cases h with
  | pconst b => cases b <;> decide
  | lit v => exact .inl ⟨rfl, (by have := v.isLt; omega : 0xF00 + v.toNat < 0xFF0)⟩
  | sys n hn => exact .inl ⟨rfl, (by omega : 0xF80 + n < 0xFF0)⟩
  | reg n hn => exact .inl ⟨rfl, (by omega : n < 0xFF0)⟩
  | none => exact .inl ⟨rfl, by decide⟩
  | escReg | signedImm | unsignedImm | wordImm => exact .inr ⟨rfl, by simp [encodeOperand]⟩

theorem JvCarried.code_lt {fieldC : Bool} {x : Operand} (h : JvCarried fieldC x) : encodeOperand x < 2 ^ 12 := by
  obtain ⟨-, hcode⟩ | ⟨-, -, hcode⟩ := h.code_range <;> omega

theorem JvCarried.escS_code {fieldC : Bool} {x : Operand} (h : JvCarried fieldC x) : escS (encodeOperand x) = x.escapes := by
  unfold escS
  obtain ⟨hesc, hcode⟩ | ⟨hesc, hcode⟩ := h.code_range
  · rw [hesc, if_neg (by omega)]
  · rw [hesc, if_pos hcode]

/-- Where no immediate stands, the only escape is that of a register (R128). -/
theorem JvCarried.code_le_of_not_imm {fieldC : Bool} {x : Operand} (h : JvCarried fieldC x) (himm : ∀ k v, x ≠ .imm k v) :
    encodeOperand x ≤ 0xFF0 := by
  obtain ⟨-, hcode⟩ | ⟨hesc, -⟩ := h.code_range
  · omega
  · cases h with
    | escReg => exact Nat.le_refl _
    | signedImm v | unsignedImm v | wordImm v => exact absurd rfl (himm _ v)
    | _ => exact absurd hesc (by simp [Operand.escapes])

theorem JvCarried.escD_code {fieldC : Bool} {x : Operand} (h : JvCarried fieldC x) (himm : ∀ k v, x ≠ .imm k v) :
    escD (encodeOperand x) = x.escapes := by
  have hle := h.code_le_of_not_imm himm
  rw [← h.escS_code, escD, escS]
  exact if_congr (by omega) rfl rfl

theorem JvCarried.escapes_C {x : Operand} (h : JvCarried true x) : x.escapes = 0 := by
  cases h with
  | escReg _ hC | signedImm _ hC | unsignedImm _ hC | wordImm _ hC => exact absurd hC (by decide)
  | _ => rfl

theorem encodeExt_length (x : Operand) : (encodeExt x).length = x.escapes := by
  cases x with
  | reg n esc => cases esc <;> rfl
  | imm k v => unfold encodeExt; split <;> simp_all [Operand.escapes]
  | _ => rfl

theorem decodeOperand_sys {n : Nat} (hn : n < 10) (ext : Word) : decodeOperand (0xF80 + n) ext = (.sys n, none) := by
  simp only [decodeOperand]
  rw [if_neg (by omega), if_neg (by omega), if_neg (by omega), if_pos (by omega), Nat.add_sub_cancel_left]

theorem decodeOperand_lit (v : BitVec 6) (ext : Word) : decodeOperand (0xF00 + v.toNat) ext = (.lit v, none) := by
  have := v.isLt
  simp only [decodeOperand]
  rw [if_neg (by omega), if_pos (by omega)]
  congr 2
  apply BitVec.eq_of_toNat_eq
  simp only [BitVec.toNat_ofNat]
  omega

theorem field_low_of_lt {n : Nat} (hn : n < 2 ^ 32) : field (BitVec.ofNat 64 n) 0 32 = n ∧ field (BitVec.ofNat 64 n) 32 32 = 0 := by
  simp only [field, BitVec.toNat_ofNat]
  omega

/-- R129 and R130: the code and the extension word of an operand, any words behind it, give the operand back. -/
theorem JvCarried.decode_encode {fieldC : Bool} {x : Operand} (h : JvCarried fieldC x) (rest : List Word) :
    decodeOperand (encodeOperand x) ((encodeExt x ++ rest).getD 0 0) = (x, Option.none) := by
  cases h with
  | none => rfl
  | pconst b => cases b <;> rfl
  | lit v => exact decodeOperand_lit v _
  | sys n hn => exact decodeOperand_sys hn _
  | reg n hn => simp [decodeOperand, encodeOperand, hn]
  | escReg n hC hn =>
    obtain ⟨hlow, hhigh⟩ := field_low_of_lt hn
    simp [decodeOperand, encodeOperand, encodeExt, hlow, hhigh]
  | signedImm v hC hv =>
    obtain ⟨-, hhigh⟩ := field_low_of_lt (Nat.mod_lt v.toNat (by decide : 0 < 2 ^ 32))
    have hlow : (BitVec.ofNat 64 (v.toNat % 2 ^ 32)).truncate 32 = v.truncate 32 := by
      apply BitVec.eq_of_toNat_eq; simp
    simp only [decodeOperand, encodeOperand, encodeExt, List.cons_append, List.getD_cons_zero, hlow, hhigh, ← hv]
    rfl
  | unsignedImm v hC hv =>
    obtain ⟨hlow, hhigh⟩ := field_low_of_lt hv
    simp only [decodeOperand, encodeOperand, encodeExt, List.cons_append, List.getD_cons_zero, Nat.mod_eq_of_lt hv, hlow, hhigh]
    simp
  | wordImm v hC => rfl

/-- The C field names no extension word. -/
theorem JvCarried.decode_C {x : Operand} (h : JvCarried true x) : decodeOperand (encodeOperand x) 0 = (x, Option.none) := by
  have hext : encodeExt x = [] := List.eq_nil_of_length_eq_zero ((encodeExt_length x).trans h.escapes_C)
  simpa [hext] using h.decode_encode []

/-! ## Fields of the base word and of the modifier word (R127, R133) -/

/-- The C field of the modifier word: the wide guard's number, or an operand (R135). -/
def codeC (f : JvForm) : Nat :=
  match f.guard with
  | .wide n => n
  | _ => encodeOperand f.c

theorem encodeMod_eq (f : JvForm) :
    encodeMod f = BitVec.ofNat 64
      (f.sub + 64 * (f.rm + 8 * (f.scp + 8 * (f.ord + 8 * (f.spc + 8 * (f.pol + 4 * (codeC f + 2 ^ 12 * f.off.toNat))))))) := rfl

/-- What an encodable form has in its fields (R127, R128, R133). -/
structure JvFits (f : JvForm) : Prop where
  ty : f.ty < 16
  d : JvCarried false f.d
  a : JvCarried false f.a
  b : JvCarried false f.b
  c : JvCarried true f.c
  direct : ∀ n, f.guard = .direct n → n < 126
  wide : ∀ n, f.guard = .wide n → n < 0xF00 ∧ f.hasMod = true ∧ f.c = .none
  pol : f.pol < 4
  spc : f.spc < 8
  ord : f.ord < 8
  scp : f.scp < 8
  rm : f.rm < 8
  sub : f.sub < 64
  noMod : f.hasMod = false → f.off = 0 ∧ f.c = .none ∧ f.pol = 0 ∧ f.spc = 0 ∧ f.ord = 0 ∧ f.scp = 0 ∧ f.rm = 0 ∧ f.sub = 0
  words : f.d.escapes + f.a.escapes + f.b.escapes + (if f.hasMod then 1 else 0) ≤ 3
  dImm : ∀ k v, f.d ≠ .imm k v

theorem jvFits_of_encodable {f : JvForm} (h : f.encodable = true) : JvFits f := by
  simp only [JvForm.encodable, Bool.and_eq_true, decide_eq_true_eq] at h
  obtain ⟨⟨⟨⟨⟨⟨⟨⟨⟨⟨⟨⟨⟨⟨hty, hd⟩, ha⟩, hb⟩, hc⟩, hguard⟩, hpol⟩, hspc⟩, hord⟩, hscp⟩, hrm⟩, hsub⟩, hmod⟩, hwords⟩, hdImm⟩ := h
  constructor
  case d => exact jvCarried_of_encodable hd
  case a => exact jvCarried_of_encodable ha
  case b => exact jvCarried_of_encodable hb
  case c => exact jvCarried_of_encodable hc
  case direct => intro n hn; simpa [hn] using hguard
  case wide => intro n hn; simpa [hn, and_assoc] using hguard
  case noMod => intro hno; simpa [hno, and_assoc] using hmod
  case dImm => intro k v hkv; simp [hkv] at hdImm
  all_goals assumption

/-- The wide guard's number stands in the modifier word (R135). -/
theorem JvFits.narrow {f : JvForm} (hf : JvFits f) (hno : f.hasMod = false) (n : Nat) : f.guard ≠ .wide n := by
  intro hg
  obtain ⟨-, hmod, -⟩ := hf.wide n hg
  exact absurd (hno.symm.trans hmod) Bool.false_ne_true

theorem JvFits.guard_lt {f : JvForm} (hf : JvFits f) : encodeGuard f.guard < 2 ^ 7 := by
  cases hg : f.guard with
  | always => decide
  | direct n => have := hf.direct n hg; simp only [encodeGuard]; omega
  | wide n => exact (by decide : 126 < 2 ^ 7)

theorem JvFits.codeC_lt {f : JvForm} (hf : JvFits f) : codeC f < 2 ^ 12 := by
  unfold codeC
  split
  next n hg => have := hf.wide n hg; omega
  next => exact hf.c.code_lt

theorem opCode_lt (o : Op) : o.code.1 < 2 ^ 6 ∧ o.code.2 < 2 ^ 6 := by cases o <;> decide

section Fields
variable {f : JvForm} (hf : JvFits f) (o : Op)
include hf

/-- Each field of the base word holds what R127 places there. -/
theorem JvFits.encodeBase_fields :
    field (encodeBase o f) 56 8 = o.code.1 ∧ field (encodeBase o f) 50 6 = o.code.2 ∧ field (encodeBase o f) 46 4 = f.ty ∧
    field (encodeBase o f) 44 2 = f.d.escapes + f.a.escapes + f.b.escapes + (if f.hasMod then 1 else 0) ∧
    field (encodeBase o f) 43 1 = (if f.gneg then 1 else 0) ∧ field (encodeBase o f) 36 7 = encodeGuard f.guard ∧
    field (encodeBase o f) 24 12 = encodeOperand f.d ∧ field (encodeBase o f) 12 12 = encodeOperand f.a ∧
    field (encodeBase o f) 0 12 = encodeOperand f.b := by
  obtain ⟨hop, hfn⟩ := opCode_lt o
  have hty := hf.ty
  have hwords := hf.words
  have hguard := hf.guard_lt
  have hd := hf.d.code_lt
  have ha := hf.a.code_lt
  have hb := hf.b.code_lt
  have hneg : (if f.gneg then 1 else 0) < 2 := by split <;> decide
  simp only [field, encodeBase, BitVec.toNat_ofNat]
  omega

/-- Each field of the modifier word holds what R133 places there. -/
theorem JvFits.encodeMod_fields :
    field (encodeMod f) 32 32 = f.off.toNat ∧ field (encodeMod f) 20 12 = codeC f ∧ field (encodeMod f) 18 2 = f.pol ∧
    field (encodeMod f) 15 3 = f.spc ∧ field (encodeMod f) 12 3 = f.ord ∧ field (encodeMod f) 9 3 = f.scp ∧
    field (encodeMod f) 6 3 = f.rm ∧ field (encodeMod f) 0 6 = f.sub := by
  have hoff := f.off.isLt
  have hc := hf.codeC_lt
  have hpol := hf.pol
  have hspc := hf.spc
  have hord := hf.ord
  have hscp := hf.scp
  have hrm := hf.rm
  have hsub := hf.sub
  simp only [field, encodeMod_eq, BitVec.toNat_ofNat]
  omega

end Fields

/-- R134: with off 0, C 0xFE0 and every other field 0, the modifier word is the default one. -/
theorem JvFits.encodeMod_default {f : JvForm} (hf : JvFits f) (hno : f.hasMod = false) : encodeMod f = 0xFE000000 := by
  obtain ⟨hoff, hc, hpol, hspc, hord, hscp, hrm, hsub⟩ := hf.noMod hno
  have hcode : codeC f = 0xFE0 := by
    unfold codeC
    split
    next n hg => exact absurd hg (hf.narrow hno n)
    next => rw [hc]; rfl
  rw [encodeMod_eq, hcode, hoff, hpol, hspc, hord, hscp, hrm, hsub]
  rfl

theorem exists_wide {g : Guard} (h : g.isWide = true) : ∃ n, g = .wide n := by
  cases g with
  | wide n => exact ⟨n, rfl⟩
  | always | direct => exact absurd h Bool.false_ne_true

/-! ## The words in their order (R128) -/

theorem encodeJv_length (o : Op) (f : JvForm) :
    (encodeJv o f).length = 1 + (f.d.escapes + f.a.escapes + f.b.escapes + (if f.hasMod then 1 else 0)) := by
  cases hmod : f.hasMod <;> simp [encodeJv, encodeExt_length, hmod] <;> omega

theorem getD_encodeExt_append (x : Operand) (ws : List Word) (i : Nat) :
    (encodeExt x ++ ws).getD (x.escapes + i) 0 = ws.getD i 0 := by
  rw [← encodeExt_length, List.getD_append_right _ _ _ _ (Nat.le_add_right _ _), Nat.add_sub_cancel_left]

section Words
variable {f : JvForm} (hf : JvFits f) (o : Op) (rest : List Word)
include hf

/-- D's extension word stands first behind the base word. -/
theorem JvFits.decode_d : decodeOperand (encodeOperand f.d) ((encodeJv o f ++ rest).getD 1 0) = (f.d, none) := by
  simp only [encodeJv, List.cons_append, List.append_assoc, List.getD_cons_succ]
  exact hf.d.decode_encode _

/-- A's extension word stands behind D's. -/
theorem JvFits.decode_a :
    decodeOperand (encodeOperand f.a) ((encodeJv o f ++ rest).getD (1 + f.d.escapes) 0) = (f.a, none) := by
  simp only [encodeJv, List.cons_append, List.append_assoc, Nat.add_comm 1, List.getD_cons_succ]
  exact (congrArg _ (getD_encodeExt_append f.d _ 0)).trans (hf.a.decode_encode _)

/-- B's extension word stands behind A's. -/
theorem JvFits.decode_b :
    decodeOperand (encodeOperand f.b) ((encodeJv o f ++ rest).getD (1 + f.d.escapes + f.a.escapes) 0) = (f.b, none) := by
  rw [Nat.add_assoc, Nat.add_comm 1]
  simp only [encodeJv, List.cons_append, List.append_assoc, List.getD_cons_succ, getD_encodeExt_append]
  exact (congrArg _ (getD_encodeExt_append f.a _ 0)).trans (hf.b.decode_encode _)

/-- R134: the modifier word is the last one, and where it is absent the default one is what the form's fields make. -/
theorem JvFits.modWord :
    (if f.hasMod = true then (encodeJv o f ++ rest).getD (1 + (f.d.escapes + f.a.escapes + f.b.escapes)) 0 else 0xFE000000)
      = encodeMod f := by
  split
  next hmod =>
    simp only [encodeJv, hmod, if_true, List.cons_append, List.append_assoc, Nat.add_comm 1, List.getD_cons_succ]
    rw [Nat.add_assoc, getD_encodeExt_append, getD_encodeExt_append]
    exact getD_encodeExt_append f.b _ 0
  next hno => exact (hf.encodeMod_default (Bool.eq_false_iff.mpr hno)).symm

theorem JvFits.encodeGuard_wide : encodeGuard f.guard = 126 ↔ f.guard.isWide = true := by
  cases hg : f.guard with
  | always => decide
  | direct n => simpa [encodeGuard, Guard.isWide] using Nat.ne_of_lt (hf.direct n hg)
  | wide n => exact iff_of_true rfl rfl

/-- R135: GD, with the C field where it names the predicate, gives the guard back. -/
theorem JvFits.decode_guard :
    (if encodeGuard f.guard = 127 then Guard.always else if f.guard.isWide = true then .wide (codeC f)
      else .direct (encodeGuard f.guard)) = f.guard := by
  cases hg : f.guard with
  | always => rfl
  | direct n => simpa [encodeGuard, Guard.isWide] using Nat.ne_of_lt (Nat.lt_succ_of_lt (hf.direct n hg))
  | wide n => simp [encodeGuard, Guard.isWide, codeC, hg]

theorem JvFits.codeC_lt_escape (hg : f.guard.isWide = false) : codeC f = encodeOperand f.c ∧ ¬ 0xFF0 ≤ codeC f := by
  have hcode : codeC f = encodeOperand f.c := by
    unfold codeC
    split
    next n hw => simp [hw, Guard.isWide] at hg
    next => rfl
  have hesc := hf.c.escapes_C
  have hrange := hf.c.code_range
  omega

/-- R133 and R135: the C field gives the C operand back, or names the guard. -/
theorem JvFits.decode_c :
    (if f.guard.isWide = true then (Operand.none, if codeC f < 0xF00 then none else some 68)
      else if 0xFF0 ≤ codeC f then (Operand.none, some 68) else decodeOperand (codeC f) 0) = (f.c, none) := by
  cases hg : f.guard.isWide with
  | true =>
    obtain ⟨n, hn⟩ := exists_wide hg
    obtain ⟨hlt, -, hc⟩ := hf.wide n hn
    simp [codeC, hn, hlt, hc]
  | false =>
    obtain ⟨hcode, hlow⟩ := hf.codeC_lt_escape hg
    rw [if_neg Bool.false_ne_true, if_neg hlow, hcode, hf.c.decode_C]

end Words

/-! ## Class 1 conditions (R450) -/

theorem problems_eq_nil_iff (role : Role) (x : Operand) (fieldC : Bool) (w b : Nat) :
    role.problems x fieldC w b = [] ↔ role.problem fieldC x = none := by
  unfold Role.problems
  split <;> simp_all

theorem problem_unused_eq_none {fieldC : Bool} {x : Operand} (h : Role.problem .unused fieldC x = none) : x = .none := by
  cases x with
  | none => rfl
  | _ => cases h

/-- Where the modifier word stands changes the place of a condition and not whether it is met. -/
theorem fieldProblems_eq_nil_iff_withMod (o : Op) (f : JvForm) (hmod : Bool) (m n : Nat) :
    f.fieldProblems o m = [] ↔ JvForm.fieldProblems o { f with hasMod := hmod } n = [] := by
  unfold JvForm.fieldProblems
  extract_lets bad
  have hbad : ∀ c cause w b, bad c cause w b = [] ↔ c = false := by intros; simp [bad]
  simp only [List.append_eq_nil_iff, hbad]

theorem problems_eq_nil_iff_roles (o : Op) (f : JvForm) :
    f.problems o = [] ↔
      (o.roles f.ty f.sub).d.problem false f.d = none ∧ (o.roles f.ty f.sub).a.problem false f.a = none ∧
      (o.roles f.ty f.sub).b.problem false f.b = none ∧
      (f.guard.isWide = false → (o.roles f.ty f.sub).c.problem true f.c = none) ∧ f.fieldProblems o 0 = [] := by
  simp only [JvForm.problems, List.append_eq_nil_iff, problems_eq_nil_iff, and_assoc]
  rw [← fieldProblems_eq_nil_iff_withMod o f f.hasMod 0]
  cases f.guard.isWide <;> simp [problems_eq_nil_iff]

theorem jvWf_iff (o : Op) (f : JvForm) :
    f.wf o = true ↔ f.encodable = true ∧ Op.ofCode o.code.1 o.code.2 f.sub = some o ∧ f.problems o = [] := by
  simp [JvForm.wf, and_assoc]

/-- XC counts the extension words, and one word more where the modifier word stands (R128). -/
theorem xc_eq_succ_iff_mod (e : Nat) (hasMod : Bool) : (e + (if hasMod = true then 1 else 0) == e + 1) = hasMod := by
  cases hasMod <;> simp

theorem xc_is_either (e : Nat) (hasMod : Bool) : (e + (if hasMod = true then 1 else 0) == e || hasMod) = true := by
  cases hasMod <;> simp

/-- The decoder finds every field as the encoder wrote it, so it rebuilds the form, and the conditions it then judges are the form's own,
which none meets. -/
theorem decodeJv_encodeJv {o : Op} {f : JvForm} (rest : List Word) (h : f.wf o = true) :
    decodeJv (encodeJv o f ++ rest) = .ok o f (encodeJv o f).length := by
  obtain ⟨hfit, hcode, hproblems⟩ := (jvWf_iff o f).mp h
  have hf := jvFits_of_encodable hfit
  obtain ⟨hop, hfn, hty, hxc, hneg, hguard, hd, ha, hb⟩ := hf.encodeBase_fields o
  obtain ⟨hoff, hc, hpol, hspc, hord, hscp, hrm, hsub⟩ := hf.encodeMod_fields
  have h0 : (encodeJv o f ++ rest).getD 0 0 = encodeBase o f := rfl
  have hlen : ¬ (encodeJv o f ++ rest).length < (encodeJv o f).length := by simp
  have hdImm : ¬ (encodeOperand f.d = 0xFF1 ∨ encodeOperand f.d = 0xFF2 ∨ encodeOperand f.d = 0xFF3) := by
    have := hf.d.code_le_of_not_imm hf.dImm
    omega
  have hgneg : ((if f.gneg = true then 1 else 0) == 1) = f.gneg := by cases f.gneg <;> rfl
  rw [encodeJv_length] at hlen ⊢
  simp only [JvForm.problems] at hproblems
  simp only [decodeJv, h0, hop, hfn, hty, hxc, hneg, hguard, hd, ha, hb, hf.d.escD_code hf.dImm, hf.a.escS_code, hf.b.escS_code,
    xc_eq_succ_iff_mod, xc_is_either, Bool.and_true, hf.modWord, hsub, hcode, Bool.not_true, Bool.false_eq_true, if_false, hlen, hdImm]
  simp only [hf.decode_d, hf.decode_a, hf.decode_b, hc, hf.encodeGuard_wide, hf.decode_c, hf.decode_guard, hgneg, hoff, hpol, hspc,
    hord, hscp, hrm, BitVec.ofNat_toNat, BitVec.setWidth_eq, and_true, hproblems, Problem.first]

/-- Settles O32: what the encoder writes in each field the decoder reads there (`decodeJv_encodeJv`). -/
theorem jvFormsRoundTrip : Obligations.JvFormsRoundTrip := by
  unfold Obligations.JvFormsRoundTrip
  exact fun _ _ rest h => decodeJv_encodeJv rest h

/-! ## Defaults (R134) -/

theorem eq_zero_of_unused {n k : Nat} {uses : Bool} (hunused : uses = false) (hhigh : (decide (k ≤ n) && !uses) = false)
    (hlow : (n != 0 && decide (n < k) && !uses) = false) : n = 0 := by
  subst hunused
  have hlt : n < k := by simpa using hhigh
  simpa [hlt] using hlow

theorem scp_lt_of_scpOk {o : Op} {scp : Nat} (h : o.scpOk scp = true) : scp < 6 := by
  unfold Op.scpOk at h
  split at h
  case h_3 => exact of_decide_eq_true h
  all_goals exact (beq_iff_eq.mp h).trans_lt (by decide)

theorem unused_fields_default {o : Op} {f : JvForm} {m : Nat} (h : f.fieldProblems o m = []) :
    (o.usesOff = false → f.off = 0) ∧ (o.usesPol = false → f.pol = 0) ∧ (o.usesSpc = false → f.spc = 0) ∧
    (o.usesOrd = false → f.ord = 0) ∧ (o.usesScp = false → f.scp = 0) ∧ (o.usesRm f.ty f.sub = false → f.rm = 0) ∧
    o.subOk f.sub = true := by
  unfold JvForm.fieldProblems at h
  extract_lets bad at h
  have hbad : ∀ c cause w b, bad c cause w b = [] ↔ c = false := by intros; simp [bad]
  simp only [List.append_eq_nil_iff, hbad, and_assoc] at h
  obtain ⟨-, -, -, -, -, -, -, hpolHigh, hspcHigh, hordHigh, -, -, -, hscpOk, hrmHigh, -, hoff, hpol, hspc, hord, hscp, hrm, -, hsubOk,
    -⟩ := h
  have hscpLt := scp_lt_of_scpOk (by simpa using hscpOk : o.scpOk f.scp = true)
  exact ⟨fun hu => by simpa [hu] using hoff, fun hu => eq_zero_of_unused hu hpolHigh hpol,
    fun hu => eq_zero_of_unused hu hspcHigh hspc, fun hu => eq_zero_of_unused hu hordHigh hord,
    fun hu => eq_zero_of_unused hu (by simp [Nat.not_le.mpr hscpLt]) hscp,
    fun hu => eq_zero_of_unused hu (by simp [hrmHigh]) hrm, by simpa using hsubOk⟩

theorem encodable_withMod {f : JvForm} (h : f.encodable = true) (hno : f.hasMod = false)
    (hroom : f.d.escapes + f.a.escapes + f.b.escapes ≤ 2) : JvForm.encodable { f with hasMod := true } = true := by
  have hnarrow := (jvFits_of_encodable h).narrow hno
  simp only [JvForm.encodable, Bool.and_eq_true, decide_eq_true_eq] at h ⊢
  obtain ⟨⟨⟨⟨⟨⟨⟨⟨⟨⟨hops, hguard⟩, hpol⟩, hspc⟩, hord⟩, hscp⟩, hrm⟩, hsub⟩, -⟩, -⟩, hdImm⟩ := h
  refine ⟨⟨⟨⟨⟨⟨⟨⟨⟨⟨hops, ?_⟩, hpol⟩, hspc⟩, hord⟩, hscp⟩, hrm⟩, hsub⟩, rfl⟩, Nat.succ_le_succ hroom⟩, hdImm⟩
  cases hg : f.guard with
  | always => rfl
  | direct n => simpa [hg] using hguard
  | wide n => exact absurd hg (hnarrow n)

/-- R134: where the default modifier word has room, it may be written out. -/
theorem wf_withMod {o : Op} {f : JvForm} (h : f.wf o = true) (hno : f.hasMod = false)
    (hroom : f.d.escapes + f.a.escapes + f.b.escapes ≤ 2) : JvForm.wf o { f with hasMod := true } = true := by
  obtain ⟨hfit, hcode, hproblems⟩ := (jvWf_iff o f).mp h
  obtain ⟨hd, ha, hb, hc, hfields⟩ := (problems_eq_nil_iff_roles o f).mp hproblems
  exact (jvWf_iff _ _).mpr ⟨encodable_withMod hfit hno hroom, hcode,
    (problems_eq_nil_iff_roles _ _).mpr ⟨hd, ha, hb, hc, (fieldProblems_eq_nil_iff_withMod o f true 0 0).mp hfields⟩⟩

/-- Settles O59: the default modifier word is what the fields make (`encodeMod_default`), and a field used for nothing is held to its default by
R450 (`unused_fields_default`, `problem_unused_eq_none`). -/
theorem modifierWordDefaults : Obligations.ModifierWordDefaults := by
  unfold Obligations.ModifierWordDefaults
  intro o f h
  obtain ⟨hfit, -, hproblems⟩ := (jvWf_iff o f).mp h
  obtain ⟨hd, ha, hb, hc, hfields⟩ := (problems_eq_nil_iff_roles o f).mp hproblems
  obtain ⟨hoff, hpol, hspc, hord, hscp, hrm, hsubOk⟩ := unused_fields_default hfields
  have hf := jvFits_of_encodable hfit
  refine ⟨hf.noMod, fun hno hroom => ⟨wf_withMod h hno hroom, hf.encodeMod_default hno, rfl⟩, hoff, hpol, hspc, hord, hscp, hrm,
    fun honly => honly _ hsubOk, ?d, ?a, ?b, ?c⟩
  case d => exact fun hu => problem_unused_eq_none (hu ▸ hd)
  case a => exact fun hu => problem_unused_eq_none (hu ▸ ha)
  case b => exact fun hu => problem_unused_eq_none (hu ▸ hb)
  case c => exact fun hu hg => problem_unused_eq_none (hu ▸ hc hg)

/-- Settles O38: each word is decoded as it stands. -/
theorem specExampleWordsDecode : Obligations.SpecExampleWordsDecode := by
  unfold Obligations.SpecExampleWordsDecode
  refine ⟨?trap, ?tret, ?join, ?bra, ?setp, ?fadd, ?fmul, ?cmt, ?mul, ?sigadv, ?loop, ?movx⟩ <;> rfl

end Sys2Proof.Proofs

/-! PROOFS. Integer arithmetic (R161, R162). The low w bits of a word are the word of w bits that `setWidth` gives, so that the wrapped result of an
integer operation is the operation on words of w bits. -/

namespace Sys2Proof.Proofs

open Sys2Proof.Machine Sys2Proof.Safety Sys2Proof.Laws

/-! ## Widths of types (R98) -/

theorem tyWidth_le (ty : Nat) : tyWidth ty ≤ 64 := by unfold tyWidth; split <;> decide

theorem tyWidth_pos (ty : Nat) : 0 < tyWidth ty := by unfold tyWidth; split <;> decide

/-! ## The low bits of a word -/

theorem ofInt_eq_setWidth (w : Nat) (i : Int) : ofInt w i = (BitVec.ofInt w i).setWidth 64 := by
  rw [ofInt, ← BitVec.toNat_ofInt, BitVec.ofNat_toNat]

theorem lowBits_eq_setWidth (w : Nat) (x : Word) : lowBits w x = (x.setWidth w).setWidth 64 := by
  rw [lowBits, ← BitVec.toNat_setWidth, BitVec.ofNat_toNat]

theorem ofInt_eq_lowBits {w : Nat} {i : Int} {x : Word} (h : BitVec.ofInt w i = x.setWidth w) : ofInt w i = lowBits w x := by
  rw [ofInt_eq_setWidth, h, lowBits_eq_setWidth]

theorem ofInt_add_two_pow (w : Nat) (i : Int) : ofInt w (i + (2 ^ w : Nat)) = ofInt w i := by rw [ofInt, Int.add_emod_right, ofInt]

theorem uval_eq_toNat (w : Nat) (x : Word) : uval w x = (x.setWidth w).toNat := (BitVec.toNat_setWidth w x).symm

theorem sval_eq_toInt {w : Nat} (hw : 0 < w) (x : Word) : sval w x = (x.setWidth w).toInt := by
  have hhalf := mul_pow_sub_one hw.ne' 2
  rw [BitVec.toInt_eq_toNat_cond, BitVec.toNat_setWidth, sval]
  split <;> split <;> omega

/-! ## Integer values of a type -/

theorem ofInt_tyVal (ty : Nat) (x : Word) : BitVec.ofInt (tyWidth ty) (tyVal ty x) = x.setWidth (tyWidth ty) := by
  unfold tyVal
  split
  · rw [sval_eq_toInt (tyWidth_pos ty), BitVec.ofInt_toInt]
  · rw [uval_eq_toNat, BitVec.ofInt_natCast, BitVec.ofNat_toNat, BitVec.setWidth_eq]

theorem tyMin_le_tyMax (ty : Nat) : tyMin ty ≤ tyMax ty := by
  have hhalf : 0 < 2 ^ (tyWidth ty - 1) := Nat.two_pow_pos _
  have hfull : 0 < 2 ^ tyWidth ty := Nat.two_pow_pos _
  unfold tyMin tyMax
  split <;> omega

theorem satInt_eq_clamp {lo hi : Int} (h : lo ≤ hi) (i : Int) : satInt i lo hi = max lo (min hi i) := by
  unfold satInt
  omega

/-- Under `.sat` a result is clamped, else it wraps (R162). -/
theorem fitInt_eq (ty sub : Nat) (i : Int) : fitInt ty (sub == 1) i = if sub = 1 then clamped ty i else ofInt (tyWidth ty) i := by
  unfold fitInt clamped
  rw [satInt_eq_clamp (tyMin_le_tyMax ty)]
  by_cases hsat : sub = 1 <;> simp [hsat]

theorem fitInt_eq_of_wraps {ty : Nat} {i : Int} {x : Word} (sub : Nat) (h : BitVec.ofInt (tyWidth ty) i = x.setWidth (tyWidth ty)) :
    fitInt ty (sub == 1) i = if sub = 1 then clamped ty i else lowBits (tyWidth ty) x := by
  rw [fitInt_eq, ofInt_eq_lowBits h]

section

variable (ty : Nat) (x y z : Word)

theorem wraps_add : BitVec.ofInt (tyWidth ty) (tyVal ty x + tyVal ty y) = (x + y).setWidth (tyWidth ty) := by
  rw [BitVec.ofInt_add, ofInt_tyVal, ofInt_tyVal, BitVec.setWidth_add _ _ (tyWidth_le ty)]

theorem wraps_neg : BitVec.ofInt (tyWidth ty) (-tyVal ty x) = (-x).setWidth (tyWidth ty) := by
  rw [BitVec.ofInt_neg, ofInt_tyVal, BitVec.setWidth_neg_of_le (tyWidth_le ty)]

theorem wraps_sub : BitVec.ofInt (tyWidth ty) (tyVal ty x - tyVal ty y) = (x - y).setWidth (tyWidth ty) := by
  rw [Int.sub_eq_add_neg, BitVec.ofInt_add, wraps_neg, ofInt_tyVal, BitVec.sub_eq_add_neg, BitVec.setWidth_add _ _ (tyWidth_le ty)]

theorem wraps_mul : BitVec.ofInt (tyWidth ty) (tyVal ty x * tyVal ty y) = (x * y).setWidth (tyWidth ty) := by
  rw [BitVec.ofInt_mul, ofInt_tyVal, ofInt_tyVal, BitVec.setWidth_mul _ _ (tyWidth_le ty)]

theorem wraps_mad : BitVec.ofInt (tyWidth ty) (tyVal ty x * tyVal ty y + tyVal ty z) = (x * y + z).setWidth (tyWidth ty) := by
  rw [BitVec.ofInt_add, wraps_mul, ofInt_tyVal, BitVec.setWidth_add _ _ (tyWidth_le ty)]

theorem wraps_scaled_add (n : Nat) :
    BitVec.ofInt (tyWidth ty) (tyVal ty x + tyVal ty y * (n : Nat)) = (x + y * BitVec.ofNat 64 n).setWidth (tyWidth ty) := by
  rw [BitVec.ofInt_add, BitVec.ofInt_mul, ofInt_tyVal, ofInt_tyVal, BitVec.ofInt_natCast, BitVec.setWidth_add _ _ (tyWidth_le ty),
    BitVec.setWidth_mul _ _ (tyWidth_le ty), BitVec.setWidth_ofNat_of_le (tyWidth_le ty)]

theorem wraps_natAbs :
    BitVec.ofInt (tyWidth ty) (tyVal ty x).natAbs = (if tyVal ty x < 0 then -x else x).setWidth (tyWidth ty) := by
  split
  next hneg => rw [Int.ofNat_natAbs_of_nonpos (Int.le_of_lt hneg), wraps_neg]
  next hpos => rw [Int.natAbs_of_nonneg (Int.not_lt.mp hpos), ofInt_tyVal]

theorem wraps_ite (p : Prop) [Decidable p] :
    BitVec.ofInt (tyWidth ty) (if p then tyVal ty x else tyVal ty y) = (if p then x else y).setWidth (tyWidth ty) := by
  split <;> exact ofInt_tyVal ty _

/-- The quotient of the least value by -1 wraps to the least value itself. -/
theorem wraps_neg_tyMin (h : tySigned ty = true) : ofInt (tyWidth ty) (-tyMin ty) = ofInt (tyWidth ty) (tyMin ty) := by
  have hhalf := mul_pow_sub_one (tyWidth_pos ty).ne' 2
  have hstep : -tyMin ty = tyMin ty + (2 ^ tyWidth ty : Nat) := by
    rw [tyMin, if_pos h]
    omega
  rw [hstep, ofInt_add_two_pow]

/-- div of R162, its two borderline cases included. -/
theorem ofInt_divInt : ofInt (tyWidth ty) (divInt ty (tyVal ty x) (tyVal ty y)) =
    if tyVal ty y = 0 then lowBits (tyWidth ty) (BitVec.allOnes 64) else ofInt (tyWidth ty) ((tyVal ty x).tdiv (tyVal ty y)) := by
  unfold divInt
  split
  case isTrue =>
    refine ofInt_eq_lowBits ?_
    rw [← BitVec.neg_one_eq_allOnes, BitVec.setWidth_neg_of_le (tyWidth_le ty), BitVec.ofInt_neg, BitVec.setWidth_ofNat_of_le (tyWidth_le ty)]
    rfl
  case isFalse =>
    split
    case isTrue h =>
      obtain ⟨hsigned, hmin, hone⟩ := h
      rw [hmin, hone, Int.tdiv_neg, Int.tdiv_one, wraps_neg_tyMin ty hsigned]
    case isFalse => rfl

/-- rem of R162, its two borderline cases included. -/
theorem ofInt_remInt : ofInt (tyWidth ty) (remInt ty (tyVal ty x) (tyVal ty y)) =
    if tyVal ty y = 0 then lowBits (tyWidth ty) x else ofInt (tyWidth ty) ((tyVal ty x).tmod (tyVal ty y)) := by
  unfold remInt
  split
  case isTrue => exact ofInt_eq_lowBits (ofInt_tyVal ty x)
  case isFalse =>
    split
    case isTrue h =>
      obtain ⟨-, -, hone⟩ := h
      rw [hone, Int.tmod_neg, Int.tmod_one]
    case isFalse => rw [Int.tmod_def]

end

/-- Byte k as dp4 reads it (R162). -/
theorem byte_eq_byteOf (ty : Nat) (x : Word) (k : Nat) :
    (if ty = 4 then sval 8 (BitVec.ofNat 64 (field x (8 * k) 8)) else uval 8 (BitVec.ofNat 64 (field x (8 * k) 8))) = byteOf ty x k := by
  have hbyte : (BitVec.ofNat 64 (field x (8 * k) 8)).setWidth 8 = BitVec.ofNat 8 (x.toNat >>> (8 * k)) := by
    rw [BitVec.setWidth_ofNat_of_le (by decide), field, Nat.shiftRight_eq_div_pow]
    exact BitVec.eq_of_toNat_eq (by simp)
  rw [sval_eq_toInt (by decide), uval_eq_toNat, hbyte, byteOf]

theorem dp4Sum_eq (ty : Nat) (x y : Word) :
    dp4Sum ty x y = byteOf ty x 0 * byteOf ty y 0 + byteOf ty x 1 * byteOf ty y 1 + byteOf ty x 2 * byteOf ty y 2
      + byteOf ty x 3 * byteOf ty y 3 := by
  simp only [dp4Sum, List.foldl_cons, List.foldl_nil, byte_eq_byteOf, Int.zero_add]

theorem fitInt_dp4Sum (ty : Nat) (x y z : Word) (sub : Nat) : fitInt ty (sub == 1) (tyVal ty z + dp4Sum ty x y) =
    if sub = 1 then clamped ty (tyVal ty z + byteOf ty x 0 * byteOf ty y 0 + byteOf ty x 1 * byteOf ty y 1 + byteOf ty x 2 * byteOf ty y 2
      + byteOf ty x 3 * byteOf ty y 3)
    else ofInt (tyWidth ty) (tyVal ty z + byteOf ty x 0 * byteOf ty y 0 + byteOf ty x 1 * byteOf ty y 1 + byteOf ty x 2 * byteOf ty y 2
      + byteOf ty x 3 * byteOf ty y 3) := by
  simp only [fitInt_eq, dp4Sum_eq, Int.add_assoc]

/-! ## Results computed lane by lane (R154) -/

theorem runOp_value {o : Op} {f : Form} {s : State} {v : View} (h : Executes o f s v) {F G : Args → Word → Word → Word → Word}
    (heq : ∀ x y z, F (f.args o) x y z = G (f.args o) x y z) :
    runOp o f s (ownChecks o f) (valBody F) = .next (valueNext o f v G) :=
  runOp_done h (congrArg (fun r => Out.done (View.put _ _ _ _ r)) (funext fun _ => heq _ _ _))

theorem runOp_int {o : Op} {f : Form} {s : State} {v : View} (h : Executes o f s v) {F : Args → Int → Int → Int → Word}
    {G : Args → Word → Word → Word → Word}
    (heq : ∀ x y z,
      let a := f.args o
      F a (tyVal a.ty x) (tyVal a.ty y) (tyVal a.ty z) = G a x y z) :
    runOp o f s (ownChecks o f) (intBody F) = .next (valueNext o f v G) :=
  runOp_value h heq

/-- Settles O1: a wrapped result is one of machine words (`wraps_add` and its like), and the borderline quotients and remainders of R162 are those of
truncation. -/
theorem integerArithmeticResults : Obligations.IntegerArithmeticResults := by
  unfold Obligations.IntegerArithmeticResults
  intro f s v
  refine ⟨fun h => ?add, fun h => ?sub, fun h => ?mul, fun h => ?mulhi, fun h => ?mad, fun h => ?div, fun h => ?rem, fun h => ?min,
    fun h => ?max, fun h => ?abs, fun h => ?neg, fun h => ?dp4, fun h => ?lea⟩
  case add =>
    show execAdd f s = _
    exact runOp_int h fun x y _ => fitInt_eq_of_wraps _ (wraps_add _ x y)
  case sub =>
    show execSub f s = _
    exact runOp_int h fun x y _ => fitInt_eq_of_wraps _ (wraps_sub _ x y)
  case mul =>
    show execMul f s = _
    exact runOp_int h fun x y _ => ofInt_eq_lowBits (wraps_mul _ x y)
  case mulhi =>
    show execMulhi f s = _
    exact runOp_int h fun x y _ => congrArg (ofInt _) (Int.shiftRight_eq_div_pow _ _).symm
  case mad =>
    show execMad f s = _
    exact runOp_int h fun x y z => fitInt_eq_of_wraps _ (wraps_mad _ x y z)
  case div =>
    show execDiv f s = _
    exact runOp_int h fun x y _ => ofInt_divInt _ x y
  case rem =>
    show execRem f s = _
    exact runOp_int h fun x y _ => ofInt_remInt _ x y
  case min =>
    show execMin f s = _
    exact runOp_int h fun x y _ => ofInt_eq_lowBits (wraps_ite _ x y _)
  case max =>
    show execMax f s = _
    exact runOp_int h fun x y _ => ofInt_eq_lowBits (wraps_ite _ y x _)
  case abs =>
    show execAbs f s = _
    exact runOp_int h fun x _ _ => ofInt_eq_lowBits (wraps_natAbs _ x)
  case neg =>
    show execNeg f s = _
    exact runOp_int h fun x _ _ => ofInt_eq_lowBits (wraps_neg _ x)
  case dp4 =>
    show execDp4 f s = _
    exact runOp_value h fun x y z => fitInt_dp4Sum _ x y z _
  case lea =>
    show execLea f s = _
    exact runOp_int h fun x y _ => ofInt_eq_lowBits (wraps_scaled_add _ x y _)

end Sys2Proof.Proofs

/-! PROOFS. Logic and bits (R163, R164): the numbers that the model computes and the words of the statement have the same bits. -/

namespace Sys2Proof.Proofs

open Sys2Proof.Machine Sys2Proof.Safety Sys2Proof.Laws

/-! ## The bits of the low part of a word -/

@[simp] theorem getLsbD_lowBits (w : Nat) (x : Word) (i : Nat) : (lowBits w x).getLsbD i = (decide (i < w) && x.getLsbD i) := by
  rw [lowBits, BitVec.getLsbD_ofNat, Nat.testBit_mod_two_pow, BitVec.testBit_toNat]
  by_cases hi : i < 64
  · rw [decide_eq_true hi, Bool.true_and]
  · rw [BitVec.getLsbD_of_ge _ _ (Nat.not_lt.mp hi), Bool.and_false, Bool.and_false]

@[simp] theorem testBit_uval (w : Nat) (x : Word) (i : Nat) : (uval w x).testBit i = (decide (i < w) && x.getLsbD i) := by
  rw [uval, Nat.testBit_mod_two_pow, BitVec.testBit_toNat]

theorem uval_lt (w : Nat) (x : Word) : uval w x < 2 ^ w := Nat.mod_lt _ (Nat.two_pow_pos w)

/-- The low w bits of n make a word that has the same bits. -/
theorem ofNat_mod_eq_of_bits {w n : Nat} {z : Word} (h : ∀ i < 64, (decide (i < w) && n.testBit i) = z.getLsbD i) :
    BitVec.ofNat 64 (n % 2 ^ w) = z :=
  BitVec.eq_of_getLsbD_eq fun i hi => by
    rw [BitVec.getLsbD_ofNat, Nat.testBit_mod_two_pow, decide_eq_true hi, Bool.true_and, h i hi]

theorem ofNat_mod_eq_lowBits {w n : Nat} {z : Word} (h : ∀ i < w, n.testBit i = z.getLsbD i) :
    BitVec.ofNat 64 (n % 2 ^ w) = lowBits w z :=
  ofNat_mod_eq_of_bits fun i _ => by
    rw [getLsbD_lowBits]
    by_cases hi : i < w <;> simp [hi, h]

theorem ofNat_mod_of_le {w n : Nat} (h : n ≤ w) : BitVec.ofNat 64 (n % 2 ^ w) = BitVec.ofNat 64 n := by
  rw [Nat.mod_eq_of_lt (h.trans_lt Nat.lt_two_pow_self)]

/-! ## Each operation on the low parts, bit by bit -/

section

variable {w : Nat} (hw : w ≤ 64) (x y : Word)

theorem ofNat_land_uval : BitVec.ofNat 64 (Nat.land (uval w x) (uval w y) % 2 ^ w) = lowBits w (x &&& y) :=
  ofNat_mod_eq_lowBits fun i hi => by
    change (uval w x &&& uval w y).testBit i = _
    simp [hi]

theorem ofNat_lor_uval : BitVec.ofNat 64 (Nat.lor (uval w x) (uval w y) % 2 ^ w) = lowBits w (x ||| y) :=
  ofNat_mod_eq_lowBits fun i hi => by
    change (uval w x ||| uval w y).testBit i = _
    simp [hi]

theorem ofNat_xor_uval : BitVec.ofNat 64 (Nat.xor (uval w x) (uval w y) % 2 ^ w) = lowBits w (x ^^^ y) :=
  ofNat_mod_eq_lowBits fun i hi => by
    change (uval w x ^^^ uval w y).testBit i = _
    simp [hi]

include hw in
theorem ofNat_not_uval : BitVec.ofNat 64 ((2 ^ w - 1 - uval w x) % 2 ^ w) = lowBits w (~~~x) :=
  ofNat_mod_eq_lowBits fun i hi => by
    rw [Nat.sub_sub, Nat.add_comm 1, Nat.testBit_two_pow_sub_succ (uval_lt w x)]
    simp [hi, hi.trans_le hw]

include hw in
theorem ofNat_shl_uval (n : Nat) : BitVec.ofNat 64 ((if n < w then uval w x * 2 ^ n else 0) % 2 ^ w) = lowBits w (x <<< n) :=
  ofNat_mod_eq_lowBits fun i hi => by
    rw [BitVec.getLsbD_shiftLeft]
    split
    next hn =>
      rw [Nat.testBit_mul_two_pow, testBit_uval, decide_eq_true (hi.trans_le hw), decide_eq_true ((Nat.sub_le i n).trans_lt hi)]
      by_cases hni : n ≤ i <;> simp [hni]
    next hn => simp [hi.trans_le (Nat.not_lt.mp hn)]

theorem ofNat_shr_uval (n : Nat) : BitVec.ofNat 64 ((if n < w then uval w x / 2 ^ n else 0) % 2 ^ w) = lowBits w x >>> n :=
  ofNat_mod_eq_of_bits fun i _ => by
    rw [BitVec.getLsbD_ushiftRight, getLsbD_lowBits, Nat.add_comm n]
    split
    next hn =>
      rw [Nat.testBit_div_two_pow, testBit_uval]
      by_cases hi : i + n < w
      · simp [hi, (Nat.le_add_right i n).trans_lt hi]
      · simp [hi]
    next hn => simp [show ¬ i + n < w by omega]

include hw in
/-- The two parts of a rotated word share no bit. -/
theorem ofNat_rotl_uval (n : Nat) (hn : n < w) :
    BitVec.ofNat 64 ((uval w x * 2 ^ n % 2 ^ w + uval w x / 2 ^ (w - n)) % 2 ^ w)
      = lowBits w ((lowBits w x <<< n) ||| (lowBits w x >>> (w - n))) := by
  have hsplit : 2 ^ w = 2 ^ (w - n) * 2 ^ n := by rw [← Nat.pow_add, Nat.sub_add_cancel hn.le]
  have hlow : uval w x / 2 ^ (w - n) < 2 ^ n := Nat.div_lt_of_lt_mul (hsplit ▸ uval_lt w x)
  refine ofNat_mod_eq_lowBits fun i hi => ?_
  rw [BitVec.getLsbD_or, BitVec.getLsbD_shiftLeft, BitVec.getLsbD_ushiftRight, hsplit, Nat.mul_mod_mul_right, Nat.mul_comm _ (2 ^ n),
    Nat.two_pow_add_eq_or_of_lt hlow, Nat.testBit_or, Nat.testBit_two_pow_mul, Nat.testBit_div_two_pow, Nat.testBit_mod_two_pow,
    Nat.add_comm i]
  simp only [testBit_uval, getLsbD_lowBits, decide_eq_true (hi.trans_le hw), decide_eq_true ((Nat.sub_le i n).trans_lt hi), Bool.true_and]
  by_cases hni : n ≤ i
  · simp [hni, hni.not_gt, show i - n < w - n by omega]
  · simp [hni]

theorem onesOf_le (w n : Nat) : onesOf w n ≤ w := (List.length_filter_le _ _).trans_eq List.length_range

theorem ofNat_onesOf_uval : BitVec.ofNat 64 (onesOf w (uval w x) % 2 ^ w) =
    BitVec.ofNat 64 ((List.range w).filter (fun i => x.getLsbD i)).length := by
  have hbits : (List.range w).filter (fun i => (uval w x).testBit i) = (List.range w).filter (fun i => x.getLsbD i) :=
    List.filter_congr fun i hi => by rw [testBit_uval, decide_eq_true (List.mem_range.mp hi), Bool.true_and]
  rw [ofNat_mod_of_le (onesOf_le w _), onesOf, hbits]

include hw in
theorem toNat_lowBits : (lowBits w x).toNat = uval w x :=
  (BitVec.toNat_ofNat _ _).trans (Nat.mod_eq_of_lt ((uval_lt w x).trans_le (Nat.pow_le_pow_right (by decide) hw)))

include hw in
theorem lowBits_eq_zero_iff : lowBits w x = 0 ↔ uval w x = 0 := by
  rw [← toNat_lowBits hw]
  exact BitVec.toNat_eq

include hw in
theorem ofNat_clz_uval : BitVec.ofNat 64 ((if uval w x = 0 then w else w - 1 - Nat.log2 (uval w x)) % 2 ^ w) =
    BitVec.ofNat 64 (w - (if lowBits w x = 0 then 0 else Nat.log2 (uval w x) + 1)) := by
  rw [ofNat_mod_of_le (by split <;> omega)]
  simp only [lowBits_eq_zero_iff hw]
  split
  · rfl
  · rw [Nat.sub_sub, Nat.add_comm 1]

/-- The number whose bits below w are p's, and no bit above. -/
def numberOf (p : Nat → Bool) (w : Nat) : Nat := (List.range w).foldl (fun r i => if p i then r + 2 ^ i else r) 0

theorem numberOf_succ (p : Nat → Bool) (w : Nat) : numberOf p (w + 1) = 2 ^ w * (p w).toNat + numberOf p w := by
  unfold numberOf
  rw [List.range_succ, List.foldl_append, List.foldl_cons, List.foldl_nil]
  cases p w <;> simp [Nat.add_comm]

theorem numberOf_lt (p : Nat → Bool) (w : Nat) : numberOf p w < 2 ^ w := by
  induction w with
  | zero => exact Nat.one_pos
  | succ w ih =>
    have hbit := Nat.mul_le_mul_left (2 ^ w) (Bool.toNat_le (p w))
    rw [numberOf_succ, Nat.pow_succ]
    omega

theorem testBit_numberOf (p : Nat → Bool) (w j : Nat) : (numberOf p w).testBit j = (decide (j < w) && p j) := by
  induction w with
  | zero => simp [numberOf]
  | succ w ih =>
    rw [numberOf_succ, Nat.testBit_two_pow_mul_add _ (numberOf_lt p w), ih, Nat.testBit_bool_toNat]
    rcases Nat.lt_trichotomy j w with hj | rfl | hj
    · simp [hj, hj.trans (Nat.lt_succ_self w)]
    · simp
    · simp [hj.not_gt, Nat.sub_ne_zero_of_lt hj, Nat.not_lt.mpr (Nat.succ_le_of_lt hj)]

theorem revBits_eq_numberOf (w n : Nat) : revBits w n = numberOf (fun i => n.testBit (w - 1 - i)) w := rfl

include hw in
theorem ofNat_revBits_uval : BitVec.ofNat 64 (revBits w (uval w x) % 2 ^ w) = (lowBits w x).reverse >>> (64 - w) :=
  ofNat_mod_eq_of_bits fun i hi => by
    rw [revBits_eq_numberOf, testBit_numberOf, BitVec.getLsbD_ushiftRight, BitVec.getLsbD_reverse, BitVec.getMsbD_eq_getLsbD,
      testBit_uval, getLsbD_lowBits]
    by_cases hiw : i < w
    · rw [show 64 - 1 - (64 - w + i) = w - 1 - i by omega]
      simp [hiw, show 64 - w + i < 64 by omega]
    · simp [hiw, show ¬ 64 - w + i < 64 by omega]

theorem fieldPos_add_fieldLen_le (w f : Nat) : fieldPos w f + fieldLen w f ≤ w := by
  have hpos : fieldPos w f ≤ w := Nat.min_le_right _ _
  have hlen : fieldLen w f ≤ w - fieldPos w f := Nat.min_le_right _ _
  omega

include hw in
theorem ofNat_bfi_uval (n p : Nat) (hnp : p + n ≤ w) :
    BitVec.ofNat 64 ((uval w x % 2 ^ p + uval w y % 2 ^ n * 2 ^ p + uval w x / 2 ^ (p + n) * 2 ^ (p + n)) % 2 ^ w) =
      lowBits w ((x &&& ~~~BitVec.ofNat 64 ((2 ^ n - 1) * 2 ^ p)) ||| ((y <<< p) &&& BitVec.ofNat 64 ((2 ^ n - 1) * 2 ^ p))) := by
  refine ofNat_mod_eq_lowBits fun i hi => ?_
  have hsum : uval w x % 2 ^ p + uval w y % 2 ^ n * 2 ^ p + uval w x / 2 ^ (p + n) * 2 ^ (p + n) =
      2 ^ p * (2 ^ n * (uval w x / 2 ^ (p + n)) + uval w y % 2 ^ n) + uval w x % 2 ^ p := by
    rw [Nat.pow_add]; ring
  have hmask : (BitVec.ofNat 64 ((2 ^ n - 1) * 2 ^ p)).getLsbD i = (decide (p ≤ i) && decide (i - p < n)) := by
    rw [BitVec.getLsbD_ofNat, Nat.testBit_mul_two_pow, Nat.testBit_two_pow_sub_one, decide_eq_true (hi.trans_le hw), Bool.true_and]
  rw [hsum, Nat.testBit_two_pow_mul_add _ (Nat.mod_lt _ (Nat.two_pow_pos p)), Nat.testBit_two_pow_mul_add _ (Nat.mod_lt _ (Nat.two_pow_pos n)),
    BitVec.getLsbD_or, BitVec.getLsbD_and, BitVec.getLsbD_and, BitVec.getLsbD_not, hmask, BitVec.getLsbD_shiftLeft]
  simp only [Nat.testBit_mod_two_pow, Nat.testBit_div_two_pow, testBit_uval, decide_eq_true (hi.trans_le hw), Bool.true_and]
  split
  next hlow => simp [hlow, hi, Nat.not_le.mpr hlow]
  next hnotlow =>
    have hpi : p ≤ i := Nat.not_lt.mp hnotlow
    have hback : i - p - n + (p + n) = i ∨ i - p < n := by omega
    split
    next hmid => simp [hpi, hmid, hnotlow, show i - p < w by omega]
    next hhigh => simp [hpi, hhigh, hnotlow, hi, hback.resolve_right hhigh]

/-! ## Signed values of a few bits -/

theorem ofInt_natCast (w n : Nat) : ofInt w n = BitVec.ofNat 64 (n % 2 ^ w) := rfl

include hw in
theorem uval_shr_lowBits (n p : Nat) : uval n (lowBits w x >>> p) = uval w x / 2 ^ p % 2 ^ n := by
  rw [uval, BitVec.toNat_ushiftRight, toNat_lowBits hw, Nat.shiftRight_eq_div_pow]

theorem testBit_msb {n v : Nat} (hn : 0 < n) (hv : v < 2 ^ n) : v.testBit (n - 1) = decide (2 ^ (n - 1) ≤ v) := by
  by_cases hle : 2 ^ (n - 1) ≤ v
  · rw [decide_eq_true hle, Nat.testBit_of_two_pow_le_and_two_pow_add_one_gt hle (by rwa [Nat.sub_add_cancel hn])]
  · rw [decide_eq_false hle, Nat.testBit_lt_two_pow (Nat.not_le.mp hle)]

/-- A field of n bits with its sign extended to w bits (R164). -/
theorem ofNat_extended_field {n : Nat} (hn : 0 < n) (hnw : n ≤ w) :
    BitVec.ofNat 64 ((if (uval n x).testBit (n - 1) then uval n x + 2 ^ w - 2 ^ n else uval n x) % 2 ^ w) = ofInt w (sval n x) := by
  have hle : 2 ^ n ≤ 2 ^ w := Nat.pow_le_pow_right (by decide) hnw
  have hsval : sval n x = if uval n x < 2 ^ (n - 1) then (uval n x : Int) else (uval n x : Int) - (2 ^ n : Nat) := rfl
  rw [testBit_msb hn (uval_lt n x), ← ofInt_natCast, hsval]
  by_cases hmsb : 2 ^ (n - 1) ≤ uval n x
  · rw [if_pos (decide_eq_true hmsb), if_neg (Nat.not_lt.mpr hmsb), ← ofInt_add_two_pow w (_ - _)]
    congr 1
    omega
  · rw [if_neg (by simpa using hmsb), if_pos (Nat.not_le.mp hmsb)]

include hw in
theorem ofNat_bfxVal_uval (signed : Bool) (f : Nat) :
    BitVec.ofNat 64 (bfxVal w signed (uval w x) f % 2 ^ w) =
      if signed = true ∧ fieldLen w f ≠ 0 then ofInt w (sval (fieldLen w f) (lowBits w x >>> fieldPos w f))
      else lowBits (fieldLen w f) (lowBits w x >>> fieldPos w f) := by
  have hlen : fieldLen w f ≤ w := (Nat.min_le_right _ _).trans (Nat.sub_le _ _)
  have hle : 2 ^ fieldLen w f ≤ 2 ^ w := Nat.pow_le_pow_right (by decide) hlen
  unfold bfxVal
  dsimp only
  rw [← uval_shr_lowBits hw]
  by_cases hext : signed = true ∧ fieldLen w f ≠ 0
  · obtain ⟨hsigned, hlong⟩ := hext
    have hpos := Nat.pos_of_ne_zero hlong
    rw [hsigned, if_pos (show true = true ∧ _ from ⟨rfl, hlong⟩), ← ofNat_extended_field _ hpos hlen, decide_eq_true hpos, Bool.true_and,
      Bool.true_and]
  · have hplain : (signed && decide (0 < fieldLen w f)) = false := by simpa [Nat.pos_iff_ne_zero] using hext
    rw [if_neg hext, hplain, Bool.false_and, if_neg Bool.false_ne_true, Nat.mod_eq_of_lt ((uval_lt _ _).trans_le hle)]
    rfl

theorem ediv_of_small {z D : Int} (hlow : -D ≤ z) (hhigh : z < D) : z / D = if z < 0 then -1 else 0 := by
  have hD : 0 < D := by omega
  split
  · exact le_antisymm (Int.le_of_lt_add_one ((Int.ediv_lt_iff_lt_mul hD).mpr (by omega))) ((Int.le_ediv_iff_mul_le hD).mpr (by omega))
  · exact Int.ediv_eq_zero_of_lt (by omega) hhigh

theorem sval_bounds (hpos : 0 < w) : -(2 ^ (w - 1) : Nat) ≤ sval w x ∧ sval w x < (2 ^ (w - 1) : Nat) := by
  have hhalf := mul_pow_sub_one hpos.ne' 2
  have hlt : x.toNat % 2 ^ w < 2 ^ w := uval_lt w x
  unfold sval
  constructor <;> (dsimp only; split <;> omega)

/-- Shifting right by w - 1 already leaves the sign alone (R163). -/
theorem sval_shr (hpos : 0 < w) (n : Nat) : sval w x / (2 ^ Nat.min n (w - 1) : Nat) = sval w x >>> n := by
  rw [Int.shiftRight_eq_div_pow]
  rcases Nat.le_total n (w - 1) with hn | hn
  · rw [show Nat.min n (w - 1) = n from Nat.min_eq_left hn]
  · obtain ⟨hlow, hhigh⟩ := sval_bounds x hpos
    have hle : 2 ^ (w - 1) ≤ 2 ^ n := Nat.pow_le_pow_right (by decide) hn
    rw [show Nat.min n (w - 1) = w - 1 from Nat.min_eq_right hn, ediv_of_small hlow hhigh, ediv_of_small (by omega) (by omega)]

end

theorem runOp_bits {o : Op} {f : Form} {s : State} {v : View} (h : Executes o f s v) {F : Nat → Args → Nat → Nat → Nat → Nat}
    {G : Args → Word → Word → Word → Word}
    (heq : ∀ x y z,
      let a := f.args o
      let w := tyWidth a.ty
      BitVec.ofNat 64 (F w a (uval w x) (uval w y) (uval w z) % 2 ^ w) = G a x y z) :
    runOp o f s (ownChecks o f) (bitBody F) = .next (valueNext o f v G) :=
  runOp_value h heq

/-- Settles O2: each effect on the naturals below 2^w has the bits of the statement's words. -/
theorem logicAndBitResults : Obligations.LogicAndBitResults := by
  unfold Obligations.LogicAndBitResults
  intro f s v
  refine ⟨fun h => ?and, fun h => ?or, fun h => ?xor, fun h => ?not, fun h => ?shl, fun h => ?shr, fun h => ?sar, fun h => ?rotl,
    fun h => ?popc, fun h => ?clz, fun h => ?brev, fun h => ?bfx, fun h => ?bfi⟩
  case and =>
    show execAnd f s = _
    exact runOp_bits h fun x y _ => ofNat_land_uval x y
  case or =>
    show execOr f s = _
    exact runOp_bits h fun x y _ => ofNat_lor_uval x y
  case xor =>
    show execXor f s = _
    exact runOp_bits h fun x y _ => ofNat_xor_uval x y
  case not =>
    show execNot f s = _
    exact runOp_bits h fun x _ _ => ofNat_not_uval (tyWidth_le _) x
  case shl =>
    show execShl f s = _
    exact runOp_bits h fun x y _ => ofNat_shl_uval (tyWidth_le _) x _
  case shr =>
    show execShr f s = _
    exact runOp_bits h fun x y _ => ofNat_shr_uval x _
  case sar =>
    show execSar f s = _
    exact runOp_value h fun x y _ => congrArg (ofInt _) (sval_shr x (tyWidth_pos _) _)
  case rotl =>
    show execRotl f s = _
    exact runOp_bits h fun x y _ => ofNat_rotl_uval (tyWidth_le _) x _ (Nat.mod_lt _ (tyWidth_pos _))
  case popc =>
    show execPopc f s = _
    exact runOp_bits h fun x _ _ => ofNat_onesOf_uval x
  case clz =>
    show execClz f s = _
    exact runOp_bits h fun x _ _ => ofNat_clz_uval (tyWidth_le _) x
  case brev =>
    show execBrev f s = _
    exact runOp_bits h fun x _ _ => ofNat_revBits_uval (tyWidth_le _) x
  case bfx =>
    show execBfx f s = _
    exact runOp_bits h fun x y _ => ofNat_bfxVal_uval (tyWidth_le _) x _ _
  case bfi =>
    show execBfi f s = _
    exact runOp_bits h fun x y z => ofNat_bfi_uval (tyWidth_le _) x y _ _ (fieldPos_add_fieldLen_le _ _)

end Sys2Proof.Proofs

/-! PROOFS. Moves, selections, comparisons and predicates (R165 to R169). -/

namespace Sys2Proof.Proofs

open Sys2Proof.Machine Sys2Proof.Safety Sys2Proof.Laws

theorem cmpInt_eq (sub : Nat) (x y : Int) : cmpInt sub x y =
    match sub with
    | 0 => decide (x = y)
    | 1 => decide (x ≠ y)
    | 2 => decide (x < y)
    | 3 => decide (x ≤ y)
    | 4 => decide (x > y)
    | _ => decide (x ≥ y) := by
  match sub with
  | 0 | 2 | 3 | 4 | _ + 5 => rfl
  | 1 => exact (decide_not ..).symm

/-- Settles O3: each effect is retired as it stands, but that `setp` compares by Bool. -/
theorem moveSelectPredicateResults : Obligations.MoveSelectPredicateResults := by
  unfold Obligations.MoveSelectPredicateResults
  intro f s v
  refine ⟨fun h hpred => ?movPred, fun h hval hd => ?movValue, fun h hval hd => ?movFlags, fun h => ?movi, fun h hpred => ?selPred,
    fun h hval => ?selValue, fun h => ?setp, fun h => ?pand, fun h => ?por, fun h => ?pxor, fun h => ?pnot⟩
  case movPred => exact runOp_done h (body := movBody) (if_pos hpred)
  case movValue => exact runOp_done h (body := movBody) ((if_neg hval).trans (if_neg hd))
  case movFlags => exact runOp_done h (body := movBody) ((if_neg hval).trans (if_pos hd))
  case movi => exact runOp_done h (body := moviBody) rfl
  case selPred => exact runOp_done h (body := selBody) (if_pos hpred)
  case selValue => exact runOp_done h (body := selBody) (if_neg hval)
  case setp =>
    exact runOp_done h (body := setpBody) (congrArg (fun p => Out.done (View.putPred _ _ _ (maskOf p))) (funext fun _ => cmpInt_eq _ _ _))
  case pand => exact runOp_done h (body := predBody fun x y _ => x &&& y) rfl
  case por => exact runOp_done h (body := predBody fun x y _ => x ||| y) rfl
  case pxor => exact runOp_done h (body := predBody fun x y _ => x ^^^ y) rfl
  case pnot => exact runOp_done h (body := predBody fun x _ _ => ~~~x) rfl

end Sys2Proof.Proofs

/-! PROOFS. Floating arithmetic (R170, R171): each function of the exact operands is rounded once, and fabs and fneg change one bit. -/

namespace Sys2Proof.Proofs

open Sys2Proof.Machine Sys2Proof.Safety Sys2Proof.Laws

/-! ## The sign bit (R99) -/

theorem signBit_eq_two_pow (ty : Nat) : ∃ k, signBit ty = 2 ^ k := by
  unfold signBit
  split
  exacts [⟨15, rfl⟩, ⟨15, rfl⟩, ⟨31, rfl⟩, ⟨7, rfl⟩, ⟨7, rfl⟩, ⟨3, rfl⟩]

theorem add_or_sub_two_pow_eq_xor (n k : Nat) : (if n / 2 ^ k % 2 = 1 then n - 2 ^ k else n + 2 ^ k) = n ^^^ 2 ^ k := by
  have hpos := Nat.two_pow_pos k
  have hsplit : n ^^^ 2 ^ k = 2 ^ k * (n / 2 ^ k ^^^ 1) + n % 2 ^ k := by
    rw [← Nat.div_add_mod (n ^^^ 2 ^ k) (2 ^ k), Nat.xor_div_two_pow, Nat.xor_mod_two_pow, Nat.div_self hpos, Nat.mod_self, Nat.xor_zero]
  have hn := Nat.div_add_mod n (2 ^ k)
  rw [hsplit]
  split
  next hodd =>
    rw [Nat.xor_one_of_odd (Nat.odd_iff.mpr hodd), Nat.mul_sub_one]
    have := Nat.le_mul_of_pos_right (2 ^ k) (Nat.odd_iff.mpr hodd).pos
    omega
  next heven =>
    rw [Nat.xor_one_of_even (Nat.even_iff.mpr (Nat.mod_two_ne_one.mp heven)), Nat.mul_succ]
    omega

theorem ofNat_signChange (neg : Bool) (ty : Nat) (x : Word) :
    BitVec.ofNat 64 (if neg then (if x.toNat / signBit ty % 2 = 1 then x.toNat - signBit ty else x.toNat + signBit ty)
      else x.toNat % signBit ty) =
    if neg then x ^^^ BitVec.ofNat 64 (signBit ty) else x &&& BitVec.ofNat 64 (signBit ty - 1) := by
  obtain ⟨k, hk⟩ := signBit_eq_two_pow ty
  rw [hk, add_or_sub_two_pow_eq_xor, ← Nat.and_two_pow_sub_one_eq_mod]
  split
  · rw [BitVec.ofNat_xor, BitVec.ofNat_toNat, BitVec.setWidth_eq]
  · rw [BitVec.ofNat_and, BitVec.ofNat_toNat, BitVec.setWidth_eq]

theorem bounded_scale_eq (b : Int) : (if b < -20000 then -20000 else if 20000 < b then 20000 else b) = max (-20000) (min 20000 b) := by
  omega

section

variable {o : Op} {f : Form} {s : State} {v : View}

/-- A floating function rounds once (`floatElem`). -/
theorem runOp_float (h : Executes o f s v) (fn : FloatFn) :
    runOp o f s (ownChecks o f) (floatBody fn) = .next (flaggedNext o f v (f.args o).ty (fun w a l =>
      rounded w.sp.fmt a.rm a.ty (fn (effRm w.sp.fmt a.rm) (fop w a.a a.ty l) (fop w a.b a.ty l) (fop w a.c a.ty l)))) :=
  runOp_flagged h rfl

/-- A packed function does so in each half (R173). -/
theorem runOp_packed (h : Executes o f s v) (fn : FloatFn) :
    runOp o f s (ownChecks o f) (packedBody fn) = .next (flaggedNext o f v (f.args o).ty (fun w a l =>
      let el := fun k => rounded w.sp.fmt a.rm (packedElem a.ty)
        (fn (effRm w.sp.fmt a.rm) (half w a.a a.ty l k) (half w a.b a.ty l k) (half w a.c a.ty l k))
      packed (el 0) (el 1))) :=
  runOp_flagged h rfl

end

/-- Settles O4: a function of the exact operands goes through the one rounding of `floatElem`, and fabs and fneg change the sign bit alone. -/
theorem floatArithmeticResults : Obligations.FloatArithmeticResults := by
  unfold Obligations.FloatArithmeticResults
  intro f s v
  refine ⟨fun h => ?fadd, fun h => ?fsub, fun h => ?fmul, fun h => ?ffma, fun h => ?fdiv, fun h => ?fsqrt, fun h => ?frcp, fun h => ?frsq,
    fun h => ?fex2, fun h => ?flg2, fun h => ?fmin, fun h => ?fmax, fun h => ?fabs, fun h => ?fneg, fun h => ?fscale⟩
  case fadd => exact runOp_float h _
  case fsub => exact runOp_float h _
  case fmul => exact runOp_float h _
  case ffma => exact runOp_float h _
  case fdiv => exact runOp_float h _
  case fsqrt => exact runOp_float h _
  case frcp => exact runOp_float h _
  case frsq => exact runOp_float h _
  case fex2 => exact runOp_float h _
  case flg2 => exact runOp_float h _
  case fmin => exact runOp_flagged h (body := minMaxBody false) rfl
  case fmax => exact runOp_flagged h (body := minMaxBody true) rfl
  case fabs =>
    show execFabs f s = _
    exact runOp_value h fun x _ _ => ofNat_signChange false _ x
  case fneg =>
    show execFneg f s = _
    exact runOp_value h fun x _ _ => ofNat_signChange true _ x
  case fscale => exact runOp_flagged h (body := fscaleBody) (by simp only [fscaleBody, bounded_scale_eq]; rfl)

end Sys2Proof.Proofs

/-! PROOFS. Floating comparison, class, rounding, conversion and packed arithmetic (R172, R173). -/

namespace Sys2Proof.Proofs

open Sys2Proof.Machine Sys2Proof.Safety Sys2Proof.Laws

theorem maskOf_congr {p q : Nat → Bool} (h : ∀ l < 32, p l = q l) : maskOf p = maskOf q :=
  List.foldl_ext _ _ _ fun m l hl => by rw [h l (List.mem_range.mp hl)]

/-- What fsetp finds in a lane (R172). -/
def comparedLane (v : View) (a : Args) (l : Nat) : Bool × Flags := fcmp a.sub (fop v a.a a.ty l) (fop v a.b a.ty l)

/-- `fsetpBody` answers from its table what the comparison gives in each lane. -/
theorem fsetpBody_eq (v : View) (a : Args) (e : Mask) :
    fsetpBody v a e = .done ((v.flag ((lanesOf e).foldl (fun acc l => Flags.join acc (comparedLane v a l).2) 0)).putPred a.d e
      (maskOf (fun l => (comparedLane v a l).1))) := by
  have htable : ∀ l < 32, (tab32 (comparedLane v a)).getD l (false, 0) = comparedLane v a l := fun l hl => by rw [getD_tab32, if_pos hl]
  have hflags : (lanesOf e).foldl (fun acc l => Flags.join acc ((tab32 (comparedLane v a)).getD l (false, 0)).2) 0
      = (lanesOf e).foldl (fun acc l => Flags.join acc (comparedLane v a l).2) 0 :=
    List.foldl_ext _ _ _ fun _ l hl => by rw [htable l (lt_of_mem_lanesOf hl)]
  have hmask : maskOf (fun l => ((tab32 (comparedLane v a)).getD l (false, 0)).1) = maskOf (fun l => (comparedLane v a l).1) :=
    maskOf_congr fun l hl => by rw [htable l hl]
  rw [← hflags, ← hmask]
  rfl

theorem zero_join (b : Flags) : Flags.join 0 b = b := Nat.zero_or b

/-- The sum of fdot2 raises its own flags and those of its one rounding (R173). -/
theorem fdot2Body_eq (v : View) (a : Args) (e : Mask) :
    fdot2Body v a e = flagBody (fun l =>
      let p := fun k => (half v a.a a.ty l k).mul (half v a.b a.ty l k)
      let d := dotSum (effRm v.sp.fmt a.rm) (p 0).1 (p 1).1 (fop v a.c 10 l)
      let r := rounded v.sp.fmt a.rm 10 (d.1, 0)
      (r.1, Flags.join (Flags.join (p 0).2 (p 1).2) (Flags.join d.2 r.2))) v a 10 e := by
  simp only [rounded, zero_join]
  rfl

/-- Settles O5: fsetp keeps its comparisons in a table (`fsetpBody_eq`), and every other instruction rounds lane by lane, or half by half. -/
theorem floatCompareConvertPackedResults : Obligations.FloatCompareConvertPackedResults := by
  unfold Obligations.FloatCompareConvertPackedResults
  intro f s v
  refine ⟨fun h => ?fsetp, fun h => ?fclass, fun h => ?frnd, fun h => ?fcvt, fun h => ?f2i, fun h => ?i2f, fun h => ?fadd2, fun h => ?fmul2,
    fun h => ?ffma2, fun h => ?fdot2⟩
  case fsetp => exact runOp_done h (body := fsetpBody) (fsetpBody_eq _ _ _)
  case fclass => exact runOp_done h (body := fclassBody) rfl
  case frnd => exact runOp_flagged h (body := frndBody) rfl
  case fcvt => exact runOp_flagged h (body := fcvtBody) rfl
  case f2i => exact runOp_flagged h (body := f2iBody) rfl
  case i2f => exact runOp_flagged h (body := i2fBody) rfl
  case fadd2 => exact runOp_packed h _
  case fmul2 => exact runOp_packed h _
  case ffma2 => exact runOp_packed h _
  case fdot2 => exact runOp_flagged h (body := fdot2Body) (fdot2Body_eq _ _ _)

end Sys2Proof.Proofs

/-! PROOFS. The conditions of an instruction (R194, R447, R448): the first in the order of classes and details is least in it, and `runOp`
raises it in place of the instruction's own effect. -/

namespace Sys2Proof.Proofs

open Sys2Proof.Machine Sys2Proof.Safety Sys2Proof.Laws

/-- What R448 puts first among conditions is one of them, and none of them stands before it. -/
theorem first_is_least (l : List Raise) (hl : l ≠ []) :
    ∃ x, Raise.first l = some x ∧ x ∈ l ∧ ∀ y ∈ l, causeRank x.cause ≤ causeRank y.cause := by
  induction l with
  | nil => exact absurd rfl hl
  | cons r rs ih =>
    rcases eq_or_ne rs [] with rfl | hrs
    · exact ⟨r, rfl, List.mem_singleton_self r, by simp⟩
    · obtain ⟨q, hq, hmem, hleast⟩ := ih hrs
      simp only [Raise.first, hq]
      by_cases hrank : causeRank r.cause ≤ causeRank q.cause
      · rw [if_pos hrank]
        exact ⟨r, rfl, List.mem_cons_self, List.forall_mem_cons.mpr ⟨le_rfl, fun y hy => hrank.trans (hleast y hy)⟩⟩
      · rw [if_neg hrank]
        exact ⟨q, rfl, List.mem_cons_of_mem r hmem, List.forall_mem_cons.mpr ⟨(not_le.mp hrank).le, hleast⟩⟩

/-- Where a lane executes and a condition holds, the first one is raised and the effect is never reached. -/
theorem runOp_condition {o : Op} {f : Form} {s : State} {v : View} {x : Raise} (hopen : View.open s = some v)
    (hformed : Form.problem o f = none) (hlane : lanes o f v ≠ 0)
    (hfirst : Raise.first ((v.enter o f).conditions o f (ownChecks o f)) = some x) (body : View → Args → Mask → Out) :
    runOp o f s (ownChecks o f) body = .next ((v.enter o f).fail f.slot x) := by
  unfold runOp
  rw [hopen]
  simp only [hformed]
  rw [if_neg (show ¬ (v.enter o f).active f = 0 from hlane), hfirst]

/-- Settles O43: the order is that of `first_is_least`, and every encoded instruction is `runOp` around an effect of its own. -/
theorem conditionsAreRaisedInOrder : Obligations.ConditionsAreRaisedInOrder := by
  unfold Obligations.ConditionsAreRaisedInOrder
  refine ⟨first_is_least, ?_⟩
  intro o f s v x hopen hformed hlane hfirst
  obtain ⟨body, hexec⟩ := exec_ofOp_eq_runOp o f
  rw [hexec s]
  exact runOp_condition hopen hformed hlane hfirst body

end Sys2Proof.Proofs

/-! PROOFS. SIG steps (R226, R227, R533): the number that the model adds to the rotated SIG is the word of the instruction's code. -/

namespace Sys2Proof.Proofs

open Sys2Proof.Machine Sys2Proof.Safety Sys2Proof.Laws

/-- Two words side by side, the second below: its bits do not meet those of the shifted first. -/
theorem toNat_append_eq_add {m n : Nat} (x : BitVec m) (y : BitVec n) : (x ++ y).toNat = x.toNat * 2 ^ n + y.toNat := by
  rw [BitVec.toNat_append, ← Nat.shiftLeft_add_eq_or_of_lt y.isLt, Nat.shiftLeft_eq]

/-- The word of a SIG step holds OP, FN and TY in its upper bits, and 1 (R226). -/
theorem sigX_eq_fields (o : Op) {ty : Nat} (hty : ty < 16) :
    sigX o ty = BitVec.ofNat 8 o.code.1 ++ BitVec.ofNat 6 o.code.2 ++ BitVec.ofNat 4 ty ++ 0#45 ++ 1#1 := by
  obtain ⟨hop, hfn⟩ := opCode_lt o
  apply BitVec.eq_of_toNat_eq
  simp only [sigX, toNat_append_eq_add, BitVec.toNat_ofNat]
  omega

theorem stepSig_sig_of_steps {v : View} {o : Op} (ty : Nat) (hjv : v.native = false) (hsteps : o.stepsSig = true) :
    (v.stepSig o ty).sp.sig = v.sp.sig.rotateLeft 13 ^^^ sigX o ty := by
  simp [View.stepSig, hjv, hsteps, sigStep, rotl64]

theorem stepSig_of_native {v : View} {o : Op} (ty : Nat) (hnative : v.native = true) : v.stepSig o ty = v := by
  simp [View.stepSig, hnative]

theorem stepSig_of_no_step {v : View} {o : Op} (ty : Nat) (hno : o.stepsSig = false) : v.stepSig o ty = v := by
  simp [View.stepSig, hno]

/-- Only sigset and chksig leave SIG as it is (R227). -/
theorem stepsSig_eq_false_iff {o : Op} : o.stepsSig = false ↔ o = .sigset ∨ o = .chksig := by cases o <;> decide

/-- Settles O54: `ready` makes the step of `View.stepSig`, whose word is that of `sigX_eq_fields`. -/
theorem signatureStepsWithEveryInstruction : Obligations.SignatureStepsWithEveryInstruction := by
  unfold Obligations.SignatureStepsWithEveryInstruction
  intro o f v hty
  refine ⟨fun ho => ?steps, fun ho => ?still, fun g => ?native⟩
  case steps =>
    have hsteps : o.stepsSig = true := by
      rw [← Bool.not_eq_false, stepsSig_eq_false_iff]
      exact not_or.mpr ho
    rw [← sigX_eq_fields o hty]
    exact stepSig_sig_of_steps f.ty rfl hsteps
  case still =>
    rw [ready, stepSig_of_no_step _ (stepsSig_eq_false_iff.mpr ho)]
    rfl
  case native =>
    rw [ready, stepSig_of_native _ rfl]
    rfl

end Sys2Proof.Proofs

/-! PROOFS. Loads and stores (R191 to R195, R260, R261, R304, R308): what is left of each effect where no lane's page has to be waited for
and no poison is read, and of a gated store by the room that the sequencer's entries have. -/

namespace Sys2Proof.Proofs

open Sys2Proof.Machine Sys2Proof.Safety Sys2Proof.Laws

/-! ## Loads -/

/-- A load of lanes whose places are there and hold no poison. -/
theorem loadBody_of_clean {once : Bool} {v : View} {a : Args} {e : Mask}
    (hpark : ∀ l ∈ v.accessLanes a e once, v.parkOf a.spc (v.addr a l) false = none)
    (hnear : ∀ l ∈ v.accessLanes a e once, v.nearPoison a.spc (v.addr a l) (tyBytes a.ty) = false)
    (hfar : a.spc = 3 → ∀ l ∈ v.accessLanes a e once,
      v.s.dmPoison v.t.core v.t.asid (v.addr a l) (tyBytes a.ty) (a.acq && a.wide || a.pol != 0) = false) :
    loadBody once v a e =
      let ls := v.accessLanes a e once
      let m := v.loadTimes a (a.acq && a.wide) ls
      let r := (m.2.acquire (a.acq && a.wide)).loadAll a ls (tyBytes a.ty) (a.acq && a.wide)
      .done (({ (if v.native then r.1.record a ls (tyBytes a.ty) else r.1) with due := m.1 }.put a.d a.ty e (laneVal r.2)).holdUntil m.1) := by
  have hplace : (v.accessLanes a e once).findSome? (fun l => v.parkOf a.spc (v.addr a l) false) = none :=
    List.findSome?_eq_none_iff.mpr hpark
  have hpoison : (v.accessLanes a e once).find? (fun l => v.nearPoison a.spc (v.addr a l) (tyBytes a.ty)
      || (a.spc = 3 && v.s.dmPoison v.t.core v.t.asid (v.addr a l) (tyBytes a.ty) (a.acq && a.wide || a.pol != 0))) = none := by
    rw [List.find?_eq_none]
    intro l hl
    have hfar := fun h3 => hfar h3 l hl
    simpa [hnear l hl] using hfar
  simp only [loadBody, hplace, hpoison]

/-! ## Stores -/

section Stores

variable {v : View} {a : Args} {e : Mask}

theorem not_meetsEntry (h : v.native = true → ∀ d ∈ v.sp.adt, ∀ x ∈ laneStores v a e, d.meets a.spc x.1 (tyBytes a.ty) = false) :
    ¬ MeetsEntry v a e := by
  unfold MeetsEntry
  simpa using h

/-- A store that is performed at once: lane by lane behind the release, the context held while another package answers. -/
theorem storeBody_of_places (hentry : ¬ MeetsEntry v a e) (hungated : v.native = true → a.rel = true)
    (hpark : ∀ l ∈ lanesOf e, v.parkOf a.spc (v.addr a l) true = none) :
    storeBody v a e =
      let w := (laneStores v a e).foldl (fun u x => u.store a.spc a.pol (a.rel && a.wide) x.1 x.2.1) (v.release (a.rel && a.wide))
      .done (({ w with sp := w.sp.countStore } : View).holdUntil ((laneStores v a e).foldl (fun t x => Nat.max t (v.farTime a.spc x.1)) 0)) := by
  have hplace : (lanesOf e).findSome? (fun l => v.parkOf a.spc (v.addr a l) true) = none := List.findSome?_eq_none_iff.mpr hpark
  have heq : storeBody v a e = _ := (if_neg hentry).trans (if_neg (by simpa using hungated))
  rw [heq]
  simp only [hplace]
  rfl

/-- The split with one more gated store, which its entries of spec loads have counted down (R304, R309). -/
def gatedSplit (v : View) (a : Args) (e : Mask) : Split :=
  (laneStores v a e).foldl (fun (sp : Split) x => sp.gate a.spc a.pol x.1 x.2.2 x.2.1) v.sp.countStore

section Gated

variable (hentry : ¬ MeetsEntry v a e) (hnative : v.native = true) (hrel : a.rel = false)
include hentry hnative hrel

/-- A gated store goes by the entries that its own context and the sequencer's others then hold. -/
theorem storeBody_eq_of_gated :
    storeBody v a e =
      if 64 < (gatedSplit v a e).gated.length then .raise { cause := 771, info := 0, addr := 0 }
      else if 64 < (gatedSplit v a e).gated.length + v.othersGated then
        .park v (.buffer ((gatedSplit v a e).gated.length - v.sp.gated.length))
      else .done { v with sp := gatedSplit v a e } :=
  (if_neg hentry).trans (if_pos (by simp [hnative, hrel]))

theorem storeBody_of_full_interval (hfull : 64 < (gatedSplit v a e).gated.length) :
    storeBody v a e = .raise { cause := 771, info := 0, addr := 0 } :=
  (storeBody_eq_of_gated hentry hnative hrel).trans (if_pos hfull)

variable (hown : (gatedSplit v a e).gated.length ≤ 64)
include hown

theorem storeBody_of_full_sequencer (hfull : 64 < (gatedSplit v a e).gated.length + v.othersGated) :
    storeBody v a e = .park v (.buffer ((gatedSplit v a e).gated.length - v.sp.gated.length)) :=
  (storeBody_eq_of_gated hentry hnative hrel).trans ((if_neg hown.not_gt).trans (if_pos hfull))

theorem storeBody_of_room (hroom : (gatedSplit v a e).gated.length + v.othersGated ≤ 64) :
    storeBody v a e = .done { v with sp := gatedSplit v a e } :=
  (storeBody_eq_of_gated hentry hnative hrel).trans ((if_neg hown.not_gt).trans (if_neg hroom.not_gt))

end Gated

end Stores

/-- Settles O10: the loads by `loadBody_of_clean`, a store that is performed at once, and a gated one in each of its three cases. -/
theorem loadAndStoreResults : Obligations.LoadAndStoreResults := by
  unfold Obligations.LoadAndStoreResults
  intro f s v
  refine ⟨?ld, ?ldu, ?performed, ?gated⟩
  case ld =>
    intro h a w e ls n home m r hpark hnear hfar
    exact runOp_done h (body := loadBody false) (loadBody_of_clean hpark hnear hfar)
  case ldu =>
    intro h a w e ls n home m r hpark hnear hfar
    exact runOp_done h (body := loadBody true) (loadBody_of_clean hpark hnear hfar)
  case performed =>
    intro h a w e n vals u hungated hentry hpark
    exact runOp_done h (body := storeBody) (storeBody_of_places (not_meetsEntry hentry) hungated hpark)
  case gated =>
    intro h a w e n vals sp1 hnative hrel hentry
    have hentry := not_meetsEntry fun _ => hentry
    refine ⟨fun hown hroom => ?_, fun hown hfull => ?_, fun hfull => ?_⟩
    · exact runOp_done h (body := storeBody) (storeBody_of_room hentry hnative hrel hown hroom)
    · exact runOp_park h (body := storeBody) (storeBody_of_full_sequencer hentry hnative hrel hown hfull)
    · exact runOp_raise h (body := storeBody) (storeBody_of_full_interval hentry hnative hrel hfull)

end Sys2Proof.Proofs

/-! PROOFS. Fences, prefetches and codeload (R201, R202, R204, R205, R261). -/

namespace Sys2Proof.Proofs

open Sys2Proof.Machine Sys2Proof.Safety Sys2Proof.Laws

/-- A codeload of a valid region that can be read: the context waits for its translation. -/
theorem codeloadBody_of_valid {v : View} {a : Args} {e : Mask} {x n : Nat} {u : View} (hx : (v.rdU a.a 7).toNat = x)
    (hn : uval 32 (v.rdU a.b 5) = n) (hu : v.onState (fun s => s.dropRange v.t.core v.t.asid x n) = u)
    (hpark : ∀ y ∈ blocksOf x n, v.parkOf 3 y false = none)
    (hclean : ∀ i < n / 8, u.s.dmPoison v.t.core v.t.asid (x + 8 * i) 8 true = false)
    (hvalid : regionFault (n / 8) (declTotal v.t.kern.decls) 0 (u.s.wordsAt v.t.asid x n) = none) :
    codeloadBody v a e = .done { u with
      t := u.t.escape
      sp := { u.sp with wait := .codeload a.d (v.locsOf a.d 32) x (u.s.wordsAt v.t.asid x n), waitStart := v.s.ptp } } := by
  have hplace : (blocksOf x n).findSome? (fun y => v.parkOf 3 y false) = none := List.findSome?_eq_none_iff.mpr hpark
  have hpoison : (List.range (n / 8)).find? (fun i => u.s.dmPoison v.t.core v.t.asid (x + 8 * i) 8 true) = none := by
    rw [List.find?_eq_none]
    intro i hi
    simp [hclean i (List.mem_range.mp hi)]
  simp only [codeloadBody, hx, hn, hu, hplace, hpoison, hvalid]

/-- Settles O12: fence and pref are their effects, and a codeload that nothing stops is that of `codeloadBody_of_valid`. -/
theorem fencePrefetchCodeloadResults : Obligations.FencePrefetchCodeloadResults := by
  unfold Obligations.FencePrefetchCodeloadResults
  intro f s v
  refine ⟨?fence, ?pref, ?codeload⟩
  case fence => exact fun h => runOp_done h (body := fenceBody) rfl
  case pref => exact fun h => runOp_done h (body := prefBody) rfl
  case codeload =>
    intro h a w x n u hpark hclean hvalid
    exact runOp_done h (body := codeloadBody) (codeloadBody_of_valid rfl rfl rfl hpark hclean hvalid)

end Sys2Proof.Proofs

/-! PROOFS. System instructions (R222 to R232, R435): traps and handlers, counters, breakpoints and launch. -/

namespace Sys2Proof.Proofs

open Sys2Proof.Machine Sys2Proof.Safety Sys2Proof.Laws

/-- An effect that completes and raises a cause behind itself. -/
theorem runOp_raiseAfter {o : Op} {f : Form} {s : State} {v w : View} {x : Raise} (h : Executes o f s v) {body : View → Args → Mask → Out}
    (hb : body (ready o f v) (f.args o) (lanes o f v) = .raiseAfter w x) :
    runOp o f s (ownChecks o f) body =
      let u := w.complete.advance f.bytes
      .next (u.close.deliver x { u.faultAt with
        after := true, slot := f.slot
        npc := if (ready o f v).native then BitVec.ofNat 64 (v.sp.pc - bundleBytes v.t.core.kind) else Config.nativePc v.t.kern.handle v.t.core.kind v.sp.pc }) := by
  rw [runOp_executes h, hb, ready_native]

section System

variable {v : View} {a : Args} {e : Mask} {f : Form}

/-- A counter other than the free one of native code (R232). -/
theorem prfrdBody_of_counter (h : v.native = true → v.num a ≠ 0) :
    prfrdBody v a e = .done (v.putUni a.d 7 (BitVec.ofNat 64 (match v.num a with
      | 0 => v.issuedNow
      | 1 => v.t.residentNs + (v.s.ptp - v.t.placedAt)
      | 2 => v.t.haulStall
      | 3 => v.t.prefUseful
      | 4 => v.t.prefLate
      | 5 => v.t.prefUnused
      | _ => v.g.conflicts))) :=
  if_neg (by simpa using h)

/-- The context as selector 0 of native code leaves it: its count raised to that of `View.stepsHere`, and one more such read. -/
def countedHere (v : View) : View :=
  { v with sp := { v.sp with steps := Nat.max v.sp.steps v.stepsHere, counts := v.sp.counts + 1 } }

theorem prfrdBody_of_native_count (hnative : v.native = true) (hnum : v.num a = 0) :
    prfrdBody v a e = .done ((countedHere v).putUni a.d 7 (BitVec.ofNat 64 (countedHere v).issuedNow)) :=
  if_pos (by simp [hnative, hnum])

theorem brkptBody_of_no_debugging (h : v.t.dbg = false) : brkptBody f v a e = .done v :=
  if_neg (by simp [h])

theorem brkptBody_of_debugging (h : v.t.dbg = true) :
    brkptBody f v a e = .done { v with t := { v.t with
      status := v.t.status.atBreak (v.num a, v.gang, if v.native then v.t.rjvpc v.sp else v.t.kern.jvOffset (v.fall f)) } } :=
  if_pos h

theorem tretBody_of_frame (h : v.s.frameWait v.t v.g = none) : tretBody v a e = .state (v.complete.close.endHandler v.t.rid v.gang) := by
  simp only [tretBody, h]

theorem tretBody_of_frameWait {p : Wait} (h : v.s.frameWait v.t v.g = some p) : tretBody v a e = .park v p := by
  simp only [tretBody, h]

end System

/-- Settles O13: each effect retired, or the end that the instruction has in its place; prfrd, brkpt and tret by their cases. -/
theorem systemInstructionResults : Obligations.SystemInstructionResults := by
  unfold Obligations.SystemInstructionResults
  intro f s v
  refine ⟨?tvec, ?query, ?qkind, ?ptime, ?counter, ?nativeCount, ?chksig, ?sigset, ?noDebugging, ?debugging, ?mig, ?trap, ?tret⟩
  case tvec => exact fun h => runOp_done h (body := tvecBody) rfl
  case query => exact fun h => runOp_done h (body := queryBody) rfl
  case qkind => exact fun h => runOp_done h (body := qkindBody) rfl
  case ptime => exact fun h => runOp_done h (body := ptimeBody) rfl
  case counter => exact fun h hcounter => runOp_done h (body := prfrdBody) (prfrdBody_of_counter hcounter)
  case nativeCount => exact fun h hnative hnum => runOp_done h (body := prfrdBody) (prfrdBody_of_native_count hnative hnum)
  case chksig => exact fun h => runOp_done h (body := fun v _ _ => .done v) rfl
  case sigset => exact fun h => runOp_done h (body := sigsetBody) rfl
  case noDebugging => exact fun h hdbg => runOp_done h (body := brkptBody f) (brkptBody_of_no_debugging hdbg)
  case debugging => exact fun h hdbg => runOp_done h (body := brkptBody f) (brkptBody_of_debugging hdbg)
  case mig => exact fun h => runOp_state h (body := migBody) rfl
  case trap => exact fun h => runOp_raiseAfter h (body := trapBody) rfl
  case tret =>
    exact fun h => ⟨fun hframe => runOp_state h (body := tretBody) (tretBody_of_frame hframe),
      fun p hwait => runOp_park h (body := tretBody) (tretBody_of_frameWait hwait)⟩

/-! ## launch (R230, R343) -/

/-- launch with its packet read and its queue there: full or with a free slot. -/
theorem launchBody_of_read {v : View} {a : Args} {e : Mask} {q : Queue} (hqueue : launchQueue v a = some q)
    (hplace : v.parkOf 3 (v.rdU a.a 7).toNat false = none)
    (hclean : v.s.dmPoison v.t.core v.t.asid (v.rdU a.a 7).toNat 64 true = false) :
    launchBody v a e =
      let u := v.release true
      let r := u.close.homeRead v.t.core v.t.asid (v.rdU a.a 7).toNat 64
      let u2 := (u.onState (fun _ => r.2)).holdUntil (v.farTime 3 (v.rdU a.a 7).toNat)
      if q.size ≤ q.pending then .done (u2.putNow a 1)
      else .done ((u2.onState (fun z =>
        let z1 := z.putPkg q.asid (q.ring + 64 * (q.wr.toNat % q.size)) r.1
        { z1 with hub := { z1.hub with queues := updFirst (fun (x : Queue) => x.num == q.num) (fun (x : Queue) => { x with wr := x.wr + 1 }) z1.hub.queues } })).putNow a 0) := by
  simp only [launchBody, hplace, hqueue]
  exact if_neg (by simp [hclean])

/-- Settles O14: what is left of launch, with a full queue and with a free slot. -/
theorem deviceLaunchResult : Obligations.DeviceLaunchResult := by
  unfold Obligations.DeviceLaunchResult
  intro f s v h q a w p hqueue hplace hclean u r u2
  have hread := launchBody_of_read (e := lanes .launch f v) hqueue hplace hclean
  refine ⟨fun hfull => ?full, fun hslot => ?free⟩
  case full => exact runOp_done h (body := launchBody) (hread.trans (if_pos hfull))
  case free => exact runOp_done h (body := launchBody) (hread.trans (if_neg hslot.not_ge))

end Sys2Proof.Proofs

/-! PROOFS. The issue of haul jobs (R206 to R219): with a queue entry free in the team's reservation, an effect that describes a job issues it. -/

namespace Sys2Proof.Proofs

open Sys2Proof.Machine Sys2Proof.Safety Sys2Proof.Laws

/-- An instruction whose effect is to issue a job issues it where a queue entry is free (R89, R206). -/
theorem runOp_issue {o : Op} {f : Form} {s : State} {v : View} {body : View → Args → Mask → Out} {kind : JobKind} {src dst : Side}
    {n tok scope : Nat} {notify : Option (Side × Word)} {lost taintAll : Bool} {taint : List Nat} (h : Executes o f s v)
    (hfree : (ready o f v).t.haulsUsed < (ready o f v).t.hauls)
    (hbody : body (ready o f v) (f.args o) (lanes o f v) = (ready o f v).issueJob f kind src dst n tok scope notify lost taintAll taint) :
    runOp o f s (ownChecks o f) body =
      .next (issued (ready o f v) f (newJob (ready o f v) f kind src dst n tok scope notify lost taintAll taint)) :=
  runOp_done h (hbody.trans (if_neg hfree.not_ge))

section Lists

variable {v : View} {a : Args} {e : Mask} {f : Form}

theorem htensBody_of_readable {store : Bool} (hmap : v.listHeld (v.rdU a.a 7).toNat 128 = none) :
    htensBody f store v a e =
      let ws := v.mapWords a
      let m := TMap.ofWords ws
      v.issueJob f (.tens ws store (v.originOf a m.dims)) (.va v.t.asid m.base) (v.sideB a)
        (if ws.isEmpty then 0 else productOf (m.wins.take m.dims)) (token a) a.scp (v.notifyOf a) ws.isEmpty (v.mapTaint a) [] := by
  simp only [htensBody, hmap]

theorem rowsBody_of_readable {store : Bool} (hmap : v.listHeld (v.rdU a.a 7).toNat 128 = none)
    (hlist : v.listHeld (v.rdU a.c 7).toNat (4 * v.haulK a) = none) :
    rowsBody f store v a e =
      let lst := v.s.listAt v.t.asid (v.rdU a.c 7).toNat (4 * v.haulK a)
      let ws := v.mapWords a
      let m := TMap.ofWords ws
      v.issueJob f (.rows ws store ((List.range (v.haulK a)).map (fun i => ofBytesLE (((lst.getD []).drop (4 * i)).take 4))))
        (.va v.t.asid m.base) (v.sideB a) (if ws.isEmpty then 0 else m.wins.getD 0 0 * v.haulK a) (token a) a.scp (v.notifyOf a)
        (ws.isEmpty || lst.isNone) (v.mapTaint a) (v.listTaint (v.rdU a.c 7).toNat (v.haulK a) 4) := by
  simp only [rowsBody, hmap, hlist, Option.orElse_none]

theorem hmcastBody_of_readable (hlist : v.listHeld (v.rdU a.b 7).toNat (8 * v.haulK a) = none) :
    hmcastBody f v a e =
      let ts := v.targets a
      v.issueJob f (.mcast (if ts.isEmpty then List.replicate (v.haulK a) 0 else ts)) (v.sideA a) (v.sideA a) (v.count64 a.c) (token a) a.scp
        (v.notifyOf a) ts.isEmpty false (v.listTaint (v.rdU a.b 7).toNat ts.length 8) := by
  simp only [hmcastBody, hlist]

end Lists

/-- Settles O19: each instruction issues its job by `runOp_issue`, those with a map or a list once these can be read. -/
theorem haulJobIssueResults : Obligations.HaulJobIssueResults := by
  unfold Obligations.HaulJobIssueResults
  intro f s v
  refine ⟨?hcopy, ?hcopyCk, ?htens, ?htensSt, ?hgath, ?hscat, ?hred, ?hmcast, ?hfill, ?ckpack, ?ckpackUnpk⟩
  case hcopy => exact fun h hfree => runOp_issue h (body := hcopyBody f .copy) hfree rfl
  case hcopyCk => exact fun h hfree => runOp_issue h (body := hcopyBody f .copyCk) hfree rfl
  case htens => exact fun h hfree hmap => runOp_issue h (body := htensBody f false) hfree (htensBody_of_readable hmap)
  case htensSt => exact fun h hfree hmap => runOp_issue h (body := htensBody f true) hfree (htensBody_of_readable hmap)
  case hgath => exact fun h hfree hmap hlist => runOp_issue h (body := rowsBody f false) hfree (rowsBody_of_readable hmap hlist)
  case hscat => exact fun h hfree hmap hlist => runOp_issue h (body := rowsBody f true) hfree (rowsBody_of_readable hmap hlist)
  case hred => exact fun h hfree => runOp_issue h (body := hcopyBody f .red) hfree rfl
  case hmcast => exact fun h hfree hlist => runOp_issue h (body := hmcastBody f) hfree (hmcastBody_of_readable hlist)
  case hfill => exact fun h hfree => runOp_issue h (body := hfillBody f) hfree rfl
  case ckpack => exact fun h hfree => runOp_issue h (body := ckpackBody f false) hfree rfl
  case ckpackUnpk => exact fun h hfree => runOp_issue h (body := ckpackBody f true) hfree rfl

end Sys2Proof.Proofs

/-! PROOFS. Tile operations besides mma and accst: setting up, reading and re-anchoring tiles, constant operands, the crosscut and the assay's
counts (R245, R246, R249 to R254, R256). -/

namespace Sys2Proof.Proofs

open Sys2Proof.Machine Sys2Proof.Safety Sys2Proof.Laws

section Tiles

variable {v : View} {a : Args} {e : Mask}

/-- A tile without poison whose carried sums agree is read (R490). -/
theorem readTile_of_clean {o : Operand} {k : Nat} {t : Tile} {go : Out} (hpoison : t.poison = false) (hsum : t.misSum = none) :
    readTile o k t go = go := by
  simp [readTile, hpoison, hsum]

/-- The elements that accld reads from the bytes of its block, each converted at the anchor (R246). -/
def loadedElems (v : View) (a : Args) (bytes : List Byte) : List (Int × Nat × Flags) :=
  (List.range (64 * accRows a)).map (fun i =>
    accldElem a.ty (fmtAnchor v.sp.fmt) (BitVec.ofNat 64 (ofBytesLE ((bytes.drop (i * accWidth a.ty)).take (accWidth a.ty)))))

/-- Tile k as accz leaves it: all zero at FMT's anchor, with its tolerance (R245). -/
def clearedTile (v : View) (k : Nat) : Tile :=
  { Tile.zero with
    anchor := fmtAnchor v.sp.fmt, tol := (v.tile k).tol, rowSums := List.replicate 64 0, colSums := List.replicate 64 0 }

/-- A load of a tile whose block is there and holds no poison: the tile is that of the loaded elements, and the context is held until the last
line has come. -/
theorem accldBody_of_clean {x n : Nat} (hx : v.accAddr a e = x) (hn : 64 * accRows a * accWidth a.ty = n)
    (hplace : ∀ y ∈ blocksOf x n, v.parkOf a.spc y false = none) (hnear : v.nearPoison a.spc x n = false)
    (hfar : a.spc = 3 → ∀ p ∈ lineRuns (n / 128 + 2) x (List.replicate n 0),
      v.s.dmPoison v.t.core v.t.asid p.1 p.2.length (a.acq && a.wide || a.pol != 0) = false) :
    accldBody v a e =
      let due := v.blockTime a x n
      let r := (due.2.acquire (a.acq && a.wide)).readBlock a x n
      let el := loadedElems v a r.1
      .done (((r.2.flag (el.foldl (fun z i => Flags.join z i.2.2) 0)).setTile (v.tileOf a.d)
        ((clearedTile v (v.tileOf a.d)).setElems (fun i => match el[i]? with | some z => (z.1, z.2.1) | none => (0, 0)))).holdUntil due.1) := by
  have hheld : (blocksOf x n).findSome? (fun y => v.parkOf a.spc y false) = none := List.findSome?_eq_none_iff.mpr hplace
  have hpoison : ¬ (v.nearPoison a.spc x n || (a.spc = 3 && (lineRuns (n / 128 + 2) x (List.replicate n 0)).any (fun p =>
      v.s.dmPoison v.t.core v.t.asid p.1 p.2.length (a.acq && a.wide || a.pol != 0)))) = true := by
    simpa [hnear] using hfar
  simp only [accldBody, hx, hn, hheld]
  exact if_neg hpoison

/-- A tile that is read is re-anchored at b, from the list el of its elements re-anchored one by one (R250). -/
theorem accancBody_of_clean {t : Tile} {b : Int} {el : List ((Int × Flags) × Nat)} (ht : v.tile (v.tileOf a.d) = t)
    (hb : sval 32 (v.rdU a.a 4) = b)
    (hel : el = (List.range 4096).map (fun i => (reanchor (t.elem i).1 t.anchor b, (t.elem i).2)))
    (hpoison : t.poison = false) (hsum : t.misSum = none) :
    accancBody v a e =
      .done ((v.flag (el.foldl (fun z i => Flags.join z i.1.2) 0)).setTile (v.tileOf a.d)
        { t.setElems (fun i => match el[i]? with | some z => (z.1.1, z.2) | none => (0, 0)) with anchor := b }) := by
  simp only [accancBody, ht, hb, ← hel]
  exact readTile_of_clean hpoison hsum

theorem asstStBody_of_clean (hpoison : (v.firstTile (v.tileOf a.a)).poison = false) :
    asstStBody v a e =
      let t := v.firstTile (v.tileOf a.a)
      .done ((v.logTile (v.tileOf a.a)).put a.d 7 e (fun _ => BitVec.ofNat 64 (t.grp + t.rows * 2 ^ 32 + t.mis * 2 ^ 48))) :=
  if_neg (by simp [hpoison])

end Tiles

/-- Settles O17: an operation that reads a tile does so without poison and, but for asst.st, with sums that agree (`readTile_of_clean`); accld has its
block there (`accldBody_of_clean`); the others have their effect in every state. -/
theorem tileResults : Obligations.TileResults := by
  unfold Obligations.TileResults
  intro f s v
  refine ⟨?accz, ?accld, ?accmax, ?accanc, ?tri, ?xcut, ?asstSt, ?asstTol, ?asstClr⟩
  case accz => exact fun h => runOp_done h (body := acczBody) rfl
  case accld =>
    intro h a w e k x wd n due r el base hplace hnear hfar
    exact runOp_done h (body := accldBody) (accldBody_of_clean rfl rfl hplace hnear hfar)
  case accmax => exact fun h hpoison hsum => runOp_done h (body := accmaxBody) (readTile_of_clean hpoison hsum)
  case accanc =>
    intro h a w k b el hpoison hsum
    clear_value (hel : el = _)
    exact runOp_done h (body := accancBody) (accancBody_of_clean rfl rfl hel hpoison hsum)
  case tri => exact fun h => runOp_done h (body := triBody) rfl
  case xcut => exact fun h => runOp_done h (body := xcutBody) rfl
  case asstSt => exact fun h hpoison => runOp_done h (body := asstStBody) (asstStBody_of_clean hpoison)
  case asstTol => exact fun h => runOp_done h (body := asstTolBody) rfl
  case asstClr => exact fun h => runOp_done h (body := asstClrBody) rfl

end Sys2Proof.Proofs

/-! PROOFS. Native slot words (R278 to R280, R286, R287): what each field of the encoded word holds, that the decoder reads the form back from
it, and the predicate p0, which no write reaches. -/

namespace Sys2Proof.Proofs

open Sys2Proof.Machine

/-! ## The slot word (R278, R286) -/

theorem opc_lt (o : Op) : o.opc < 2 ^ 10 := by cases o <;> decide

/-- Only nop has opc 0 (R279). -/
theorem opc_eq_zero_iff (o : Op) : o.opc = 0 ↔ o = .nop := by cases o <;> decide

/-- Each field of the slot word holds what R278 places there. -/
theorem encodeSlot_fields (o : Op) (f : NatForm) :
    field (encodeSlot o f) 54 10 = o.opc ∧ field (encodeSlot o f) 50 4 = f.g.toNat ∧
    field (encodeSlot o f) 49 1 = (if f.gn then 1 else 0) ∧ field (encodeSlot o f) 42 7 = f.d.toNat ∧
    field (encodeSlot o f) 35 7 = f.a.toNat ∧ field (encodeSlot o f) 28 7 = f.b.toNat ∧
    field (encodeSlot o f) 21 7 = f.c.toNat ∧ field (encodeSlot o f) 0 21 = f.x.toNat := by
  have hopc := opc_lt o
  have hg := f.g.isLt
  have hgn : (if f.gn then 1 else 0) < 2 := by split <;> decide
  have hd := f.d.isLt
  have ha := f.a.isLt
  have hb := f.b.isLt
  have hc := f.c.isLt
  have hx := f.x.isLt
  simp only [field, encodeSlot, BitVec.toNat_ofNat]
  omega

theorem natFields_encodeSlot (o : Op) (f : NatForm) : natFields f.kind f.slot (encodeSlot o f) = f := by
  obtain ⟨-, hg, hgn, hd, ha, hb, hc, hx⟩ := encodeSlot_fields o f
  have hbit : ((if f.gn then 1 else 0) == 1) = f.gn := by cases f.gn <;> rfl
  simp only [natFields, hg, hgn, hd, ha, hb, hc, hx, hbit, BitVec.ofNat_toNat, BitVec.setWidth_eq]

theorem natWf_iff (o : Op) (f : NatForm) :
    f.wf o = true ↔ f.slot < slotCount f.kind ∧ (o ≠ .nop → natOp f o.opc = some o) ∧ f.problems o = [] := by
  by_cases ho : o = .nop <;> simp [NatForm.wf, ho, and_assoc]

/-- R279: the word of nop is 0. -/
theorem encodeSlot_nop {f : NatForm} (h : f.problems .nop = []) : encodeSlot .nop f = 0 := by
  have hzero : f.g = 0 ∧ f.gn = false ∧ f.d = 0 ∧ f.a = 0 ∧ f.b = 0 ∧ f.c = 0 ∧ f.x = 0 := by
    simpa [NatForm.problems] using h
  obtain ⟨hg, hgn, hd, ha, hb, hc, hx⟩ := hzero
  simp only [encodeSlot, hg, hgn, hd, ha, hb, hc, hx]
  rfl

/-- The decoder finds every field as the encoder wrote it; nop is known by its word alone, and any other operation by its opc, with the form's own
conditions, which none meets. -/
theorem decodeSlot_encodeSlot {o : Op} {f : NatForm} (h : f.wf o = true) : decodeSlot f.kind f.slot (encodeSlot o f) = .ok (o, f) := by
  obtain ⟨-, hcode, hproblems⟩ := (natWf_iff o f).mp h
  obtain ⟨hopc, -⟩ := encodeSlot_fields o f
  simp only [decodeSlot, natFields_encodeSlot, hopc]
  by_cases ho : o = .nop
  · subst ho
    rw [if_pos ((opc_eq_zero_iff _).mpr rfl), if_pos (encodeSlot_nop hproblems)]
  · rw [if_neg (mt (opc_eq_zero_iff o).mp ho)]
    simp only [hcode ho, hproblems, Problem.first]

/-- Settles O33: what the encoder writes in each field the decoder reads there (`decodeSlot_encodeSlot`). -/
theorem slotFormsRoundTrip : Obligations.SlotFormsRoundTrip := by
  unfold Obligations.SlotFormsRoundTrip
  exact fun _ _ h => decodeSlot_encodeSlot h

/-! ## The predicate p0 (R280) -/

theorem putPred_p0 (v : View) (e m : Mask) : v.putPred (.preg 0) e m = v := rfl

/-- A result that lands at p0's location is dropped. -/
theorem put_p0 (r : NatRegs) (kind : CoreKind) (e : Mask) (x : Lanes) : r.put kind 192 e x = r := rfl

/-- Settles O55: each of the three puts p0 apart from the other predicates. -/
theorem predicateZeroIsAlwaysTrue : Obligations.PredicateZeroIsAlwaysTrue := by
  unfold Obligations.PredicateZeroIsAlwaysTrue
  exact ⟨fun _ => rfl, putPred_p0, put_p0⟩

end Sys2Proof.Proofs

/-! PROOFS. The native-only operations (R297 to R301, R533) and the commit points (R302, R305, R307). -/

namespace Sys2Proof.Proofs

open Sys2Proof.Machine Sys2Proof.Safety Sys2Proof.Laws

section NativeOnly

variable {v : View} {a : Args} {e : Mask}

/-- Where LR is 0, loop falls through after its step (R300). -/
theorem loopBody_of_zero (hlr : v.sp.lr = 0) : loopBody v a e = .jump (loopStep v a) := by
  simp [loopBody, loopStep, hlr]

/-- Where LR was above 0, loop branches after its step (R300). -/
theorem loopBody_of_ne_zero (hlr : v.sp.lr ≠ 0) : loopBody v a e = .jump ((loopStep v a).goto (v.label a.a)) := by
  have htaken : (v.sp.lr != 0) = true := bne_iff_ne.mpr hlr
  simp only [loopBody, loopStep, htaken, hlr, if_true, if_false, ne_eq, not_false_eq_true, true_and, Bool.true_and, decide_eq_true_eq]

theorem equivalent_of_quiet {r : Record} (htail : v.sp.tailings = []) (hflight : ∀ x ∈ v.sp.flight, x.remain ≤ 1)
    (hrrb : v.sp.rrb = r.rrb) : v.equivalent r = true := by
  simpa [View.equivalent, htail, hrrb] using hflight

/-- A commit point whose record is sound, and which nothing else holds up, is taken (R305, R307). -/
theorem commitBody_of_sound {equiv : Bool} {r : Record}
    (hrecord : v.useRecord (v.t.natCode.bind (fun c => c.indexed[a.off.toNat]?)) = .ok r)
    (hequiv : equiv = true → v.equivalent r = true) (hgated : v.gatedCheck = none) :
    commitBody equiv v a e = .done ((v.commit v.sp.pc (some r) none).endInterval r) := by
  simp only [commitBody, hrecord, hgated]
  exact if_neg (by simpa using hequiv)

end NativeOnly

/-- Settles O15: each effect retired; loop by whether LR was 0 (`loopStep`), cmt and eqp where their check finds nothing (`commitBody_of_sound`). -/
theorem nativeOperationResults : Obligations.NativeOperationResults := by
  unfold Obligations.NativeOperationResults
  intro f s v
  refine ⟨?taken, ?falls, ?rrbset, ?movx, ?sigadv, ?nop, ?cmt, ?eqp⟩
  case taken =>
    intro h a w u hu hlr
    subst hu
    exact runOp_jump h (body := loopBody) (loopBody_of_ne_zero hlr)
  case falls =>
    intro h a w u hu hlr
    subst hu
    exact runOp_jump h (body := loopBody) (loopBody_of_zero hlr)
  case rrbset => exact fun h => runOp_done h (body := rrbsetBody) rfl
  case movx => exact fun h => runOp_done h (body := movxBody) rfl
  case sigadv => exact fun h => runOp_done h (body := sigadvBody) rfl
  case nop => exact fun h => runOp_done h (body := fun v _ _ => .done v) rfl
  case cmt =>
    intro h a w r hrecord hgated
    exact runOp_done h (body := commitBody false) (commitBody_of_sound hrecord (fun hfalse => absurd hfalse Bool.false_ne_true) hgated)
  case eqp =>
    intro h a w r hrecord htail hflight hrrb hgated
    exact runOp_done h (body := commitBody true)
      (commitBody_of_sound hrecord (fun _ => equivalent_of_quiet htail hflight hrrb) hgated)

end Sys2Proof.Proofs

/-! PROOFS. The lode: what obtaining an entry comes to, and each event of it where its condition enables it (R329, R331, R332, R335, R477). -/

namespace Sys2Proof.Proofs

open Sys2Proof.Machine

section Obtain

variable {s : State} {e : LodeEntry} (hheld : s.hub.lode.any (fun (x : LodeEntry) => x.key == e.key) = false)
include hheld

theorem obtain_of_late {a : PeerAsk} (hask : s.hub.asks.find? (fun (a : PeerAsk) => a.want.key == e.key) = some a) (hlate : a.late = true) :
    s.obtain e = ((s.dropAsk e.key).lodeAdd e).nextFree := by
  simp [State.obtain, hheld, hask, hlate]

theorem obtain_of_alone (hask : s.hub.asks.find? (fun (a : PeerAsk) => a.want.key == e.key) = none) (halone : s.hub.config.packages ≤ 1) :
    s.obtain e = (s.lodeAdd e).nextFree := by
  simp [State.obtain, hheld, hask, halone]

theorem obtain_of_peers (hask : s.hub.asks.find? (fun (a : PeerAsk) => a.want.key == e.key) = none) (hpeers : 1 < s.hub.config.packages) :
    s.obtain e = { s with hub := { s.hub with asks := s.hub.asks ++ [{ want := e, since := s.ptp, late := false }] } } := by
  simp [State.obtain, hheld, hask, Nat.not_le.mpr hpeers]

end Obtain

section Lode

variable {s : State} {handle package : Nat} {kind : CoreKind} {key : BitVec 256} {k : Kernel} {dbg : Bool}

theorem execTiarloTranslate_of_missing (hmiss : s.misses handle kind = some (k, dbg)) (hready : s.hub.ready.getLsbD 2 = true) :
    execTiarloTranslate handle kind s = .next (s.obtain (s.newEntry k kind dbg)) := by
  simp only [execTiarloTranslate, hmiss]
  exact when_of_enabled hready

theorem execLodePeerQuery_of_peer (hin : package < s.hub.config.packages) (hother : package ≠ s.hub.config.package)
    (hready : s.hub.ready.getLsbD 2 = true) : execLodePeerQuery package key s = .next (s.readKey key) :=
  when_of_enabled (by simp [hin, hother, hready])

section Asked

variable {a : PeerAsk} (hask : s.hub.asks.find? (fun (a : PeerAsk) => a.want.key == key && !a.late) = some a)
include hask

theorem execLodePeerReply_of_asked (hin : package < s.hub.config.packages) (hother : package ≠ s.hub.config.package) :
    execLodePeerReply package key true s = .next ((s.dropAsk key).lodeAdd a.want) := by
  simp only [execLodePeerReply, hask]
  exact when_of_enabled (by simp [hin, hother])

theorem execLodePeerTimeout_of_late (hlate : a.since + 50000 ≤ s.ptp) :
    execLodePeerTimeout key s = .next { s with hub := { s.hub with
      asks := s.hub.asks.map (fun (b : PeerAsk) => if b.want.key = key then { b with late := true } else b) } } := by
  simp only [execLodePeerTimeout, hask]
  exact when_of_enabled (decide_eq_true hlate)

end Asked

/-- A reply whose digest does not match is ignored, asked for or not (R332). -/
theorem execLodePeerReply_of_badDigest : execLodePeerReply package key false s = .next s := by
  unfold execLodePeerReply
  split
  · simp [when]
  · rfl

theorem execReoptimise_of_hot {e : LodeEntry} (hfind : s.hub.lode.find? (fun (e : LodeEntry) => e.key == key && (s.hot e).isSome) = some e)
    (hhot : s.hot e = some (k, kind, dbg)) (hready : s.hub.ready.getLsbD 2 = true) :
    execReoptimise key s = .next ((s.lodeAdd (s.newEntry k kind dbg)).nextFree) := by
  simp only [execReoptimise, hfind, Option.bind_some, hhot]
  exact when_of_enabled hready

end Lode

/-- Settles O27: a missing translation is obtained in one of three ways (`obtain_of_late`, `obtain_of_alone`, `obtain_of_peers`), and every other event
of the lode has its effect where its condition holds. -/
theorem lodeServesAndTranslates : Obligations.LodeServesAndTranslates := by
  unfold Obligations.LodeServesAndTranslates
  intro s
  refine ⟨?translate, ?query, ?reply, ?badReply, ?lapse, ?renew⟩
  case translate =>
    intro handle kind k dbg hmiss hready e held
    have htranslate := execTiarloTranslate_of_missing hmiss hready
    refine ⟨?late, ?alone, ?peers⟩
    case late => exact fun a hheld hask hlate => htranslate.trans (congrArg Host.Outcome.next (obtain_of_late hheld hask hlate))
    case alone => exact fun hheld hask halone => htranslate.trans (congrArg Host.Outcome.next (obtain_of_alone hheld hask halone))
    case peers => exact fun hheld hask hpeers => htranslate.trans (congrArg Host.Outcome.next (obtain_of_peers hheld hask hpeers))
  case query => exact fun _ _ hin hother hready => execLodePeerQuery_of_peer hin hother hready
  case reply => exact fun _ _ _ hin hother hask => execLodePeerReply_of_asked hask hin hother
  case badReply => exact fun _ _ => execLodePeerReply_of_badDigest
  case lapse => exact fun _ _ hask hlate => execLodePeerTimeout_of_late hask hlate
  case renew => exact fun _ _ _ _ _ hfind hhot hready => execReoptimise_of_hot hfind hhot hready

end Sys2Proof.Proofs

/-! PROOFS. An ill-formed instruction (R445 to R451): `runOp` answers for it before it asks for lanes. -/

namespace Sys2Proof.Proofs

open Sys2Proof.Machine Sys2Proof.Safety

/-- An ill-formed instruction raises its class 1 condition; neither its guard nor its other conditions are reached. -/
theorem runOp_problem {o : Op} {f : Form} {s : State} {v : View} {p : Problem} (hopen : View.open s = some v) (hbad : Form.problem o f = some p)
    (checks : View → Args → Mask → List Raise) (body : View → Args → Mask → Out) :
    runOp o f s checks body = .next ((v.enter o f).fail f.slot (classOne p)) := by
  unfold runOp
  simp only [hopen, hbad]

/-- Settles O42: every encoded instruction is `runOp` around an effect of its own, and `runOp` raises a class 1 condition first. -/
theorem illFormedInstructionsRaise : Obligations.IllFormedInstructionsRaise := by
  unfold Obligations.IllFormedInstructionsRaise
  intro o f s v p hopen hbad
  obtain ⟨body, hexec⟩ := exec_ofOp_eq_runOp o f
  rw [hexec s]
  exact runOp_problem hopen hbad _ body

end Sys2Proof.Proofs

/-! PROOFS. Changes of one team, one gang and one split as a later reader sees them, what a dropped frame leaves, and a split rolled back to its
commit point (R424, R427). -/

namespace Sys2Proof.Proofs

open Sys2Proof.Machine Sys2Proof.Safety Sys2Proof.Laws

/-! ## A team, a gang and a split after a change -/

section Changes

variable {s : State} {rid gang k : Nat} {t : Team} {g : Gang} {sp : Split}

theorem rid_of_team? (ht : s.team? rid = some t) : t.rid = rid := by
  simpa using List.find?_some (show s.teams.find? (fun t => t.rid == rid) = some t from ht)

/-- The team that has been changed, where the change leaves it its number. -/
theorem team?_updTeam {f : Team → Team} (hf : ∀ x, (f x).rid = x.rid) (ht : s.team? rid = some t) : (s.updTeam rid f).team? rid = some (f t) := by
  have ht' : s.teams.find? (fun t => t.rid == rid) = some t := ht
  rw [State.team?, State.updTeam, find?_updFirst_same (fun x hx => by rw [hf x]; exact hx), ht', Option.map_some]

theorem updFirst_congr {α : Type} {p : α → Bool} {f f' : α → α} {x : α} {l : List α} (hx : l.find? p = some x) (h : f x = f' x) :
    updFirst p f l = updFirst p f' l := by
  induction l with
  | nil => rfl
  | cons y r ih =>
    rw [updFirst, updFirst]
    cases hy : p y with
    | true =>
      have hyx : y = x := by simpa [List.find?_cons, hy] using hx
      simp [hyx, h]
    | false =>
      simp only [List.find?_cons, hy] at hx
      simp [ih hx]

/-- Two changes of a team that agree on the team as it stands are one. -/
theorem updTeam_congr {f f' : Team → Team} (ht : s.team? rid = some t) (h : f t = f' t) : s.updTeam rid f = s.updTeam rid f' := by
  rw [State.updTeam, State.updTeam, updFirst_congr ht h]

theorem updGang_of_gang {f : Gang → Gang} (hg : t.gangs[gang]? = some g) : t.updGang gang f = { t with gangs := t.gangs.set gang (f g) } := by
  rw [Team.updGang, hg]

theorem getElem?_set_of_some {α : Type} {l : List α} {i : Nat} {x y : α} (hx : l[i]? = some x) : (l.set i y)[i]? = some y := by
  obtain ⟨hlt, -⟩ := List.getElem?_eq_some_iff.mp hx
  simp [hlt]

theorem gangs_updGang {f : Gang → Gang} (hg : t.gangs[gang]? = some g) : (t.updGang gang f).gangs[gang]? = some (f g) := by
  rw [updGang_of_gang hg]
  exact getElem?_set_of_some hg

end Changes

/-! ## A frame whose lines are dropped (R429, R435) -/

section Frame

variable (s : State) (c : CoreId) (asid frame : Nat)

@[simp] theorem dropFrame_pages : (s.dropFrame c asid frame).pages = s.pages :=
  foldl_keeps State.pages (fun _ _ => dropLine_pages ..) _ s

theorem dropFrame_quiet : Quiet s (s.dropFrame c asid frame) :=
  List.foldlRecOn (motive := fun u => Quiet s u) _ _ (Quiet.of_same rfl rfl) (fun _ h _ _ => h.trans (dropLine_quiet ..))

end Frame

@[simp] theorem putVa_teams (s : State) (asid va : Nat) (bs : List Byte) : (s.putVa asid va bs).teams = s.teams := by
  unfold State.putVa
  split
  · split
    · rfl
    · refine foldl_keeps State.teams (fun s a => ?_) _ s
      split <;> rfl
  · rfl

/-! ## Rollback (R424) -/

/-- A context with a commit point of its own that performs nothing stands there again. -/
theorem rollback_of_snap {g : Gang} {k : Nat} {sp : Split} {n : Snapshot} (hk : g.splits[k]? = some sp) (hsnap : sp.snap = some n)
    (hused : sp.used = true) (hperf : sp.performing = false) :
    ∃ q, (g.rollback k).splits[k]? = some q ∧ q.pc = n.pc ∧ q.mask = n.mask ∧ q.fmt = n.fmt ∧ q.sig = n.sig ∧ q.ret = n.ret ∧ q.lr = n.lr ∧ q.rrb = n.rrb ∧
      q.flight = [] ∧ q.tailings = n.flight ∧ q.loads = [] ∧ q.gated = [] ∧ q.held = 0 ∧
      (g.rollback k).nregs = g.nregs.restore n.regs sp.mask (sp.restores n) := by
  simp only [Gang.rollback, hk, hsnap, hused, hperf, Bool.not_true, Bool.or_self, Bool.false_eq_true, if_false]
  exact ⟨_, getElem?_set_of_some hk, rfl, rfl, rfl, rfl, rfl, rfl, rfl, rfl, rfl, rfl, rfl, rfl, trivial⟩

/-- Only requests of the gang that read and nothing else are dropped. -/
theorem mem_dropReads {s : State} {rid gang : Nat} {q : FaceReq} :
    q ∈ (s.dropReads rid gang).faceReqs ↔ q ∈ s.faceReqs ∧ ¬(q.rid = rid ∧ q.gang = gang ∧ ∀ x ∈ q.parts, x.2.2 = .read) := by
  rw [State.dropReads, List.mem_filter, Bool.not_eq_true', ← Bool.not_eq_true]
  exact and_congr_right (fun _ => not_congr (by simp [and_assoc]))

end Sys2Proof.Proofs

/-! PROOFS. Faults of delivery H (R423, R427): the checks of their delivery in order, and what the entry to a handler waits for, meets and leaves
(R425 to R433). -/

namespace Sys2Proof.Proofs

open Sys2Proof.Machine Sys2Proof.Safety Sys2Proof.Laws

/-! ## The gang that holds a fault -/

/-- The fault as the gang holds it: with the number of the faulting split's gated entries. -/
def countedFault (g : Gang) (fa : FaultAt) : FaultAt :=
  { fa with gcnt := if fa.gcnt = 0 then (g.splits[fa.split]?.map (fun sp => sp.gated.length)).getD 0 else fa.gcnt }

/-- The gang at its commit points, with the fault held. -/
def holding (g : Gang) (r : Raise) (fa : FaultAt) : Gang := { g.rollbackAll with entering := some (r, countedFault g fa) }

/-- The machine in which the gang holds the fault; native code's reads on their way are gone. -/
def heldState (s : State) (t : Team) (g : Gang) (r : Raise) (fa : FaultAt) : State :=
  let back := s.updTeam t.rid (fun (y : Team) => y.updGang fa.gang (fun _ => holding g r fa))
  if t.native then back.dropReads t.rid fa.gang else back

section Delivery

variable {s : State} {r : Raise} {fa : FaultAt} {t : Team} {g : Gang} (ht : s.team? fa.rid = some t) (hg : t.gangs[fa.gang]? = some g)
include ht hg

theorem deliverH_of_no_handler (hvec : g.tvec = 0) :
    s.deliverH r fa = s.terminateAt t.rid r.cause 0 fa.gang ((g.splits[fa.split]?.map t.rjvpc).getD 0) r.addr := by
  simp only [State.deliverH, ht, hg, if_pos hvec]

theorem deliverH_of_masked (hvec : g.tvec ≠ 0) (hmasked : g.handler.isSome = true) :
    s.deliverH r fa = s.terminate t.rid 961 r.cause fa.gang ((g.splits[fa.split]?.map t.rjvpc).getD 0) := by
  simp only [State.deliverH, ht, hg, if_neg hvec, if_pos hmasked]

theorem deliverH_of_entering (hvec : g.tvec ≠ 0) (hopen : g.handler = none) (hheld : g.entering.isSome = true) : s.deliverH r fa = s := by
  simp only [State.deliverH, ht, hg, if_neg hvec, hopen, Option.isSome_none, Bool.false_eq_true, if_false, if_pos hheld]

theorem deliverH_of_open (hvec : g.tvec ≠ 0) (hopen : g.handler = none) (hnone : g.entering = none) :
    s.deliverH r fa = if t.deliverable then (heldState s t g r fa).tryEnter t.rid fa.gang else heldState s t g r fa := by
  have hback : s.updTeam t.rid (fun t => t.updGang fa.gang (fun g' => { g'.rollbackAll with entering := some (r, countedFault g fa) })) =
      s.updTeam t.rid (fun (y : Team) => y.updGang fa.gang (fun _ => holding g r fa)) :=
    updTeam_congr (by rw [rid_of_team? ht, ht]) (by rw [updGang_of_gang hg, updGang_of_gang hg]; rfl)
  simp only [State.deliverH, ht, hg, if_neg hvec, hopen, hnone, Option.isSome_none, Bool.false_eq_true, if_false]
  rw [heldState, ← hback]
  rfl

end Delivery

theorem heldState_team? {s : State} {t : Team} {fa : FaultAt} (ht : s.team? fa.rid = some t) (g : Gang) (r : Raise) :
    (heldState s t g r fa).team? t.rid = some (t.updGang fa.gang (fun _ => holding g r fa)) := by
  have ht' : s.team? t.rid = some t := by rw [rid_of_team? ht, ht]
  have hback := team?_updTeam (f := fun (y : Team) => y.updGang fa.gang (fun _ => holding g r fa)) (fun _ => rfl) ht'
  unfold heldState
  dsimp only
  split
  · exact hback
  · exact hback

/-! ## The entry to the handler (R426, R427) -/

section Entry

variable {s : State} {rid gang : Nat} {t : Team} {g : Gang} {r : Raise} {fa : FaultAt}
  (ht : s.team? rid = some t) (hg : t.gangs[gang]? = some g) (hheld : g.entering = some (r, fa))
include ht hg hheld

theorem tryEnter_of_waits (hwaits : s.entryWaits t gang g = true) : s.tryEnter rid gang = s := by
  simp only [State.tryEnter, ht, hg, hheld, if_pos hwaits]

theorem tryEnter_of_no_frame {c : Nat} (hclear : s.entryWaits t gang g = false) (hframe : s.frameAccess t.asid (g.tframe + 16384 * gang) = .raise c) :
    s.tryEnter rid gang = s.terminate rid 964 0 gang ((g.splits[fa.split]?.map t.rjvpc).getD 0) := by
  simp only [State.tryEnter, ht, hg, hheld, hclear, Bool.false_eq_true, if_false, hframe]

theorem tryEnter_of_frame {x : Nat} (hclear : s.entryWaits t gang g = false) (hframe : s.frameAccess t.asid (g.tframe + 16384 * gang) = .ok x) :
    s.tryEnter rid gang = s.enterHandler t g r fa := by
  simp only [State.tryEnter, ht, hg, hheld, hclear, Bool.false_eq_true, if_false, hframe]

end Entry

/-- No frame is written over an object's read-only bytes (R325, R427). -/
theorem frameAccess_of_readOnly {s : State} {asid frame : Nat} {o : Object} (ho : o ∈ s.hub.objects) (hasid : o.asid = asid)
    (hmeets : ∃ x ∈ o.ranges, 0 < x.2 ∧ x.1 < frame + 16384 ∧ frame < x.1 + x.2) : s.frameAccess asid frame = .raise 194 := by
  have hro : (s.hub.objects.any (fun o => o.asid == asid
      && o.ranges.any (fun r => decide (0 < r.2) && decide (r.1 < frame + 16384) && decide (frame < r.1 + r.2)))) = true := by
    obtain ⟨x, hx, hlen, hlo, hhi⟩ := hmeets
    exact List.any_eq_true.mpr ⟨o, ho, by simpa [hasid] using ⟨x.1, x.2, hx, ⟨hlen, hlo⟩, hhi⟩⟩
  exact if_pos hro

/-- Settles O50: the checks of `deliverH` in their order, then the entry's own (`tryEnter_of_waits`, `tryEnter_of_no_frame`) on the machine in which
the gang holds the fault. -/
theorem faultDeliveryChecks : Obligations.FaultDeliveryChecks := by
  unfold Obligations.FaultDeliveryChecks
  refine ⟨?deliver, fun s asid frame o ho hasid hmeets => frameAccess_of_readOnly ho hasid hmeets,
    fun g k sp n hk hsnap hused hperf => rollback_of_snap hk hsnap hused hperf, fun s rid gang q => mem_dropReads⟩
  intro s r fa t g ht hg
  refine ⟨deliverH_of_no_handler ht hg, deliverH_of_masked ht hg, deliverH_of_entering ht hg, fun hvec hopen hnone => ?_⟩
  have hdeliver := deliverH_of_open (r := r) ht hg hvec hopen hnone
  have hteam : ∀ u1, (heldState s t g r fa).team? t.rid = some u1 → u1.asid = t.asid ∧ u1.gangs[fa.gang]? = some (holding g r fa) := by
    intro u1 hu1
    rw [heldState_team? ht, Option.some.injEq] at hu1
    subst hu1
    exact ⟨rfl, gangs_updGang hg⟩
  refine ⟨fun haway => ?away, fun hhere u1 hu1 hwaits => ?waits, fun hhere u1 c hu1 hclear hframe => ?noFrame⟩
  case away =>
    rw [hdeliver, haway]
    rfl
  case waits =>
    rw [hdeliver, hhere, if_pos rfl]
    exact tryEnter_of_waits hu1 (hteam u1 hu1).2 rfl hwaits
  case noFrame =>
    rw [hdeliver, hhere, if_pos rfl]
    exact tryEnter_of_no_frame (g := holding g r fa) (fa := countedFault g fa) hu1 (hteam u1 hu1).2 rfl hclear (by rw [(hteam u1 hu1).1]; exact hframe)

/-! ## The frame's first word (R430) -/

theorem putBytes_mem (s : State) (a : Nat) (bs : List Byte) : (s.putBytes a bs).mem = s.mem.writeN a bs := rfl

theorem readN_writeN_prefix {m : Memory} {a n : Nat} {bs : List Byte} (hm : m.wf = true) (hn : n ≤ bs.length) : (m.writeN a bs).readN a n = bs.take n := by
  refine List.ext_getElem (by simp [Memory.readN, hn]) (fun i h1 h2 => ?_)
  simp only [Memory.readN, List.getElem_map, List.getElem_range, List.getElem_take]
  exact Memory_read_writeN_same bs m a i hm _

/-- Word 0 of a frame: the cause, the faulting split, the core's kind and what else is pending. -/
def frameWord0 (t : Team) (g : Gang) (r : Raise) (fa : FaultAt) (tails : List Flight) : Nat :=
  r.cause + fa.split * 2 ^ 10 + (if t.core.kind = .dcore then 2 ^ 12 else 0) + (if fa.after then 2 ^ 13 else 0)
    + tails.length * 2 ^ 14 + fa.gcnt * 2 ^ 20
    + (List.range 4).foldl (fun m k => if (g.splits[k]?.map (fun sp => sp.used)).getD false then m + 2 ^ k else m) 0 * 2 ^ 27
    + r.info % 2 ^ 32 * 2 ^ 32

theorem frameBytes_starts (t : Team) (g : Gang) (r : Raise) (fa : FaultAt) (tails : List Flight) :
    ∃ rest, frameBytes t g r fa tails =
      BitVec.ofNat 8 (mkWord (frameWord0 t g r fa tails)).toNat :: BitVec.ofNat 8 ((mkWord (frameWord0 t g r fa tails)).toNat / 256) :: rest :=
  ⟨_, rfl⟩

/-- The cause stands in the lowest ten bits, the split in the next two; everything else of the word is a multiple of 2^12. -/
theorem frameWord0_mod (t : Team) (g : Gang) {r : Raise} {fa : FaultAt} (tails : List Flight) (hcause : r.cause < 1024) (hsplit : fa.split < 4) :
    frameWord0 t g r fa tails % 4096 = r.cause + 1024 * fa.split := by
  unfold frameWord0
  generalize List.foldl _ 0 _ = live
  split <;> split <;> omega

theorem ofBytesLE_frameBytes (t : Team) (g : Gang) {r : Raise} {fa : FaultAt} (tails : List Flight) (hcause : r.cause < 1024) (hsplit : fa.split < 4) :
    ofBytesLE ((frameBytes t g r fa tails).take 2) % 4096 = r.cause + 1024 * fa.split := by
  obtain ⟨rest, hrest⟩ := frameBytes_starts t g r fa tails
  have hmod := frameWord0_mod t g tails hcause hsplit
  rw [hrest]
  simp only [List.take_succ_cons, List.take_zero, ofBytesLE, BitVec.toNat_ofNat, mkWord]
  omega

/-! ## The handler's state (R429, R433) -/

theorem fromMap_keeps (g : Gang) (t : Team) (kind : CoreKind) (n : Snapshot) (m : Mask) (e : MapEntry) :
    ((g.fromMap t kind n m e).splits, (g.fromMap t kind n m e).rcs) = (g.splits, g.rcs) := by
  unfold Gang.fromMap
  dsimp only
  split
  · rfl
  · split <;> rfl
  · rfl
  · rfl

/-- The JV registers of a native gang are made from its snapshots, which stay as they are. -/
theorem materialise_keeps (g : Gang) (t : Team) (k : Nat) : ((g.materialise t k).splits, (g.materialise t k).rcs) = (g.splits, g.rcs) := by
  unfold Gang.materialise
  split
  · rfl
  · refine foldl_keeps (fun g : Gang => (g.splits, g.rcs)) (fun g j => ?_) _ g
    split
    · split
      · split
        · split
          · exact foldl_keeps (fun g : Gang => (g.splits, g.rcs)) (fun g e => fromMap_keeps g t _ _ _ e) _ g
          · rfl
        · rfl
      · rfl
    · rfl

section Entered

variable {s : State} {t : Team} {g : Gang} {r : Raise} {fa : FaultAt} {sp : Split}

/-- The frame's lines leave the core's L1, and where native code ran free values are used up for the JV registers. -/
def frameCleared (s : State) (t : Team) (frame : Nat) : State :=
  let s1 := s.dropFrame t.core t.asid frame
  if t.native then { s1 with free := s.free + deadSpan t.kern.decls } else s1

theorem frameCleared_pages (s : State) (t : Team) (frame : Nat) : (frameCleared s t frame).pages = s.pages := by
  unfold frameCleared
  dsimp only
  split <;> simp

theorem frameCleared_mem (s : State) (t : Team) (frame : Nat) : (frameCleared s t frame).mem = (s.dropFrame t.core t.asid frame).mem := by
  unfold frameCleared
  dsimp only
  split <;> simp only

theorem frameCleared_teams (s : State) (t : Team) (frame : Nat) : (frameCleared s t frame).teams = (s.dropFrame t.core t.asid frame).teams := by
  unfold frameCleared
  dsimp only
  split <;> simp only

/-- The frame is written, and the gang runs its handler with traps masked; its team is no longer idempotent. -/
theorem enterHandler_eq (hsp : g.splits[fa.split]? = some sp) :
    ∃ hg h q, s.enterHandler t g r fa =
        ((((frameCleared s t (g.tframe + 16384 * fa.gang)).putVa t.asid (g.tframe + 16384 * fa.gang) (frameBytes t g r fa sp.tailings)).updTeam t.rid
          (fun t => { t with idempotent := false })).updTeam t.rid (fun t => t.updGang fa.gang (fun _ => hg))) ∧
      hg.handler = some h ∧ hg.entering = none ∧ h.split = fa.split ∧ h.saved = g.splits ∧ hg.rcs = g.rcs ∧ hg.splits[fa.split]? = some q ∧
      q.pc = g.tvec % 2 ^ 56 ∧ q.mask = sp.mask ∧ q.fmt = sp.fmt ∧ q.sig = 0 ∧ q.ret = [] := by
  have hkeeps : ∀ g1 : Gang, g1 = (if t.native then { g with jregs := freeRegs t.kern.decls s.free }.materialise t fa.split else g) →
      (g1.splits, g1.rcs) = (g.splits, g.rcs) := by
    rintro g1 rfl
    split
    · exact materialise_keeps ..
    · rfl
  obtain ⟨hsplits, hrcs⟩ := Prod.mk.inj (hkeeps _ rfl)
  unfold State.enterHandler
  rw [hsp]
  refine ⟨_, _, _, rfl, rfl, rfl, rfl, rfl, hrcs, getElem?_set_of_some (by rw [hsplits]; exact hsp), rfl, rfl, rfl, rfl, rfl⟩

end Entered

/-- Settles O51: nothing holds the entry back and its frame can be written, so `tryEnter` is `enterHandler`; the frame's first bytes read back. -/
theorem handlerEntryState : Obligations.HandlerEntryState := by
  unfold Obligations.HandlerEntryState
  intro s r fa t g sp p x hm ht hg hheld hcause hsplit frame hsp hclear hp hfit hframe u
  obtain ⟨hgang, h, q, henter, hhandler, hentering, hhsplit, hsaved, hrcs, hq, hpc, hmask, hfmt, hsig, hret⟩ := enterHandler_eq (s := s) (t := t) (r := r) hsp
  have hu : u = s.enterHandler t g r fa := tryEnter_of_frame ht hg hheld hclear hframe
  have hrid : t.rid = fa.rid := rid_of_team? ht
  have hp1 : (frameCleared s t frame).page? t.asid frame = some p := by rw [page?_congr (frameCleared_pages ..), hp]
  have hput : (frameCleared s t frame).putVa t.asid frame (frameBytes t g r fa sp.tailings) =
      (frameCleared s t frame).putBytes (p.flat frame) (frameBytes t g r fa sp.tailings) := putVa_within_page hp1 hfit
  have hlen : 2 ≤ (frameBytes t g r fa sp.tailings).length := by
    obtain ⟨rest, hrest⟩ := frameBytes_starts t g r fa sp.tailings
    rw [hrest]
    simp
  refine ⟨?bytes, ?team⟩
  case bytes =>
    have hup : u.page? t.asid frame = some p := by
      rw [hu, henter, ← hp1]
      exact page?_congr (by rw [updTeam_pages, updTeam_pages, hput, putBytes_pages]) ..
    have hmem : u.mem = (s.dropFrame t.core t.asid frame).mem.writeN (p.flat frame) (frameBytes t g r fa sp.tailings) := by
      rw [hu, henter, updTeam_mem, updTeam_mem, hput, putBytes_mem, frameCleared_mem]
    have hwf : (s.dropFrame t.core t.asid frame).mem.wf = true := hm.dropFrame
    rw [vaBytes_within_page hup (by omega), hmem, readN_writeN_prefix hwf hlen]
    exact ofBytesLE_frameBytes t g sp.tailings hcause hsplit
  case team =>
    obtain ⟨y, hy, hsame⟩ := (dropFrame_quiet s t.core t.asid frame).teams t.rid t (by rw [hrid]; exact ht)
    have hy1 : ((frameCleared s t frame).putVa t.asid frame (frameBytes t g r fa sp.tailings)).team? t.rid = some y := by
      rw [State.team?, putVa_teams, frameCleared_teams]
      exact hy
    have hyg : ({ y with idempotent := false } : Team).gangs[fa.gang]? = some g := by
      rw [← hg, ← hsame.gangs]
    refine ⟨({ y with idempotent := false } : Team).updGang fa.gang (fun _ => hgang), hgang, h, q, ?_, gangs_updGang hyg, hhandler, hentering, hhsplit, hsaved, hrcs, hq, hpc, hmask, hfmt, hsig, hret⟩
    rw [hu, henter]
    exact team?_updTeam (f := fun t => t.updGang fa.gang (fun _ => hgang)) (fun _ => rfl)
      (team?_updTeam (f := fun t => { t with idempotent := false }) (fun _ => rfl) hy1)

end Sys2Proof.Proofs

/-! PROOFS. The end of a handler (R430, R435, R436): each split of the frame as it stood at the entry, and in native code the JV registers placed
where the maps of the resume records say. -/

namespace Sys2Proof.Proofs

open Sys2Proof.Machine Sys2Proof.Safety Sys2Proof.Laws

/-! ## One map entry (R435) -/

section MapEntries

variable {g : Gang} {kind : CoreKind} {k : Nat} {sp : Split}

/-- The half of a JV register that a map entry places. -/
def entryValue (g : Gang) (e : MapEntry) : Lanes := jvHalf (Tab.get (JvVal.uni 0) g.jregs e.jvreg) e.hi

/-- A map entry that names a register of the native files. -/
def namesRegister (e : MapEntry) : Bool := e.kind == 0 && e.loc != 208

/-- No register name rotates to LR's location. -/
theorem physLoc_ne_lr {rrb loc : Nat} (hloc : loc ≠ 208) : physLoc kind rrb loc ≠ 208 := by
  cases kind <;> (simp only [physLoc, rotate]; split_ifs <;> omega)

@[simp] theorem cleared_placing (g : Gang) (key : Nat) (wide : Bool) (m : Mask) :
    (g.cleared key wide m).rcs = g.rcs ∧ (g.cleared key wide m).flg = g.flg ∧ (g.cleared key wide m).handler = g.handler ∧
      (g.cleared key wide m).jregs = g.jregs ∧ (g.cleared key wide m).tspill = g.tspill := by
  unfold Gang.cleared
  split <;> exact ⟨rfl, rfl, rfl, rfl, rfl⟩

/-- A register entry writes its register in the split's lanes. -/
theorem toMap_reg {e : MapEntry} (hk : g.splits[k]? = some sp) (hkind : e.kind = 0) (hloc : e.loc ≠ 208) :
    g.toMap kind k e = g.setLoc kind k (physLoc kind sp.rrb e.loc) sp.mask (entryValue g e) := by
  simp only [Gang.toMap, hk, hkind, if_neg hloc, entryValue]

theorem toMap_lr {e : MapEntry} (hk : g.splits[k]? = some sp) (hkind : e.kind = 0) (hloc : e.loc = 208) :
    g.toMap kind k e = { g with splits := g.splits.set k { sp with lr := (laneOf (entryValue g e) 0).truncate 32 } } := by
  simp only [Gang.toMap, hk, hkind, if_pos hloc, entryValue]

theorem toMap_spilled_uni {e : MapEntry} {w : Word} (hk : g.splits[k]? = some sp) (hkind : e.kind = 3)
    (huni : Tab.get (JvVal.uni 0) g.jregs e.jvreg = .uni w) :
    g.toMap kind k e = { g with tspill := g.tspill.writeN (8 * e.loc) (toBytesLE 8 (laneOf (entryValue g e) 0).toNat) } := by
  simp only [Gang.toMap, hk, hkind, entryValue, huni]

/-- What a map entry can do to a gang: write a register, change LR or the tailings of its split, or write a spill slot. -/
theorem toMap_cases (g : Gang) (kind : CoreKind) (k : Nat) (e : MapEntry) (hk : g.splits[k]? = some sp) :
    (namesRegister e = true ∧ g.toMap kind k e = g.setLoc kind k (physLoc kind sp.rrb e.loc) sp.mask (entryValue g e)) ∨
    (namesRegister e = false ∧ ∃ lr tails tspill,
      g.toMap kind k e = { g with splits := g.splits.set k { sp with lr := lr, tailings := tails }, tspill := tspill }) := by
  have hself : ({ sp with lr := sp.lr, tailings := sp.tailings } : Split) = sp := rfl
  have hset : g.splits.set k sp = g.splits := by
    obtain ⟨hlt, hget⟩ := List.getElem?_eq_some_iff.mp hk
    rw [← hget]
    exact List.set_getElem_self hlt
  by_cases hzero : e.kind = 0
  · by_cases hloc : e.loc = 208
    · exact Or.inr ⟨by simp [namesRegister, hloc], _, sp.tailings, g.tspill, toMap_lr hk hzero hloc⟩
    · exact Or.inl ⟨by simp [namesRegister, hzero, hloc], toMap_reg hk hzero hloc⟩
  · refine Or.inr ⟨by simp [namesRegister, hzero], ?_⟩
    simp only [Gang.toMap, hk]
    split
    next h => exact absurd h hzero
    next => exact ⟨sp.lr, _, g.tspill, rfl⟩
    next => exact ⟨sp.lr, sp.tailings, _, by rw [hself, hset]⟩
    next => exact ⟨sp.lr, sp.tailings, g.tspill, by rw [hself, hset]⟩

/-- A gang without the split has nothing placed. -/
theorem toMap_of_no_split {e : MapEntry} (hk : g.splits[k]? = none) : g.toMap kind k e = g := by
  simp only [Gang.toMap, hk]

/-- What a placement leaves of a gang: where its splits resume and in which lanes, and all its other state but registers and spill area. -/
def resumption (g : Gang) : List (Nat × List (Nat × Nat × Nat) × Mask) × List RcsEntry × BitVec 6 × Option Handler :=
  (g.splits.map (fun sp => (sp.pc, sp.ret, sp.mask)), g.rcs, g.flg, g.handler)

theorem toMap_resumption (g : Gang) (kind : CoreKind) (k : Nat) (e : MapEntry) : resumption (g.toMap kind k e) = resumption g := by
  cases hk : g.splits[k]? with
  | none => rw [toMap_of_no_split hk]
  | some sp =>
    obtain ⟨hreg, heq⟩ | ⟨-, lr, tails, tspill, heq⟩ := toMap_cases g kind k e hk
    · have hloc : physLoc kind sp.rrb e.loc ≠ 208 := physLoc_ne_lr (by simp [namesRegister] at hreg; exact hreg.2)
      rw [heq]
      simp [resumption, Gang.setLoc, hloc]
    · obtain ⟨hlt, hget⟩ := List.getElem?_eq_some_iff.mp hk
      have hmap : (g.splits.map (fun sp => (sp.pc, sp.ret, sp.mask))).set k (sp.pc, sp.ret, sp.mask) = g.splits.map (fun sp => (sp.pc, sp.ret, sp.mask)) := by
        rw [← hget]
        refine List.ext_getElem (by simp) (fun i h1 h2 => ?_)
        by_cases hik : k = i <;> simp [hik]
      rw [heq]
      simp [resumption, List.map_set, hmap]

/-- The registers after one entry, and the split under whose mask and RRB the next is placed. -/
theorem toMap_step (g : Gang) (kind : CoreKind) (k : Nat) (e : MapEntry) (hk : g.splits[k]? = some sp) :
    (g.toMap kind k e).nregs = (if namesRegister e then g.nregs.put kind (physLoc kind sp.rrb e.loc) sp.mask (entryValue g e) else g.nregs) ∧
      (g.toMap kind k e).jregs = g.jregs ∧ (∀ j, j ≠ k → (g.toMap kind k e).splits[j]? = g.splits[j]?) ∧
      ∃ q, (g.toMap kind k e).splits[k]? = some q ∧ q.rrb = sp.rrb ∧ q.mask = sp.mask := by
  obtain ⟨hreg, heq⟩ | ⟨hreg, lr, tails, tspill, heq⟩ := toMap_cases g kind k e hk
  · have hloc : physLoc kind sp.rrb e.loc ≠ 208 := physLoc_ne_lr (by simp [namesRegister] at hreg; exact hreg.2)
    rw [heq, if_pos hreg, setLoc_nregs, setLoc_splits _ _ _ _ _ hloc]
    exact ⟨rfl, by simp [Gang.setLoc, hloc], fun _ _ => rfl, sp, hk, rfl, rfl⟩
  · rw [heq, hreg]
    exact ⟨rfl, rfl, fun j hj => List.getElem?_set_ne (Ne.symm hj), _, getElem?_set_of_some hk, rfl, rfl⟩

/-- The entries of one record, placed in order: each register entry writes its register, from the JV registers as they were. -/
theorem foldl_toMap (kind : CoreKind) (k : Nat) (l : List MapEntry) : ∀ (g : Gang) (sp : Split), g.splits[k]? = some sp →
    let g' := l.foldl (fun g e => g.toMap kind k e) g
    g'.nregs = (l.filter namesRegister).foldl (fun y e => y.put kind (physLoc kind sp.rrb e.loc) sp.mask (entryValue g e)) g.nregs ∧
      ∀ j, j ≠ k → g'.splits[j]? = g.splits[j]? := by
  induction l with
  | nil => exact fun g sp hk => ⟨rfl, fun _ _ => rfl⟩
  | cons e l ih =>
    intro g sp hk
    obtain ⟨hnregs, hjregs, hothers, q, hq, hrrb, hmask⟩ := toMap_step g kind k e hk
    obtain ⟨hrest, hrestOthers⟩ := ih _ q hq
    have hvalues : ∀ e', entryValue (g.toMap kind k e) e' = entryValue g e' := fun e' => by rw [entryValue, entryValue, hjregs]
    refine ⟨?_, fun j hj => (hrestOthers j hj).trans (hothers j hj)⟩
    simp only [List.foldl_cons, hrest, hnregs, hrrb, hmask, hvalues]
    cases hreg : namesRegister e <;> simp [hreg]

end MapEntries

/-! ## The splits of a native gang -/

/-- tret's placement of one split: by the record of its resume point, where it is in use. -/
def placeSplit (t : Team) (c : NatCode) (g : Gang) (k : Nat) : Gang :=
  match g.splits[k]? with
  | some sp => (match sp.snap.bind (fun n => n.record) with
      | some r => if sp.used then (c.valuesOf r).foldl (fun g e => g.toMap t.core.kind k e) g else g
      | none => g)
  | none => g

section Placement

variable {t : Team} {c : NatCode} {g : Gang} {k : Nat} {sp : Split}

theorem placeSplit_of_record {r : Record} (hk : g.splits[k]? = some sp) (hrecord : sp.snap.bind (fun n => n.record) = some r) (hused : sp.used = true) :
    placeSplit t c g k = (c.valuesOf r).foldl (fun g e => g.toMap t.core.kind k e) g := by
  simp only [placeSplit, hk, hrecord, hused, if_true]

theorem placeSplit_of_unused (hunused : ∀ sp, g.splits[k]? = some sp → sp.used = false) : placeSplit t c g k = g := by
  unfold placeSplit
  split
  next sp hk =>
    split
    · rw [hunused sp hk]
      rfl
    · rfl
  · rfl

theorem placeSplit_resumption (t : Team) (c : NatCode) (g : Gang) (k : Nat) : resumption (placeSplit t c g k) = resumption g := by
  unfold placeSplit
  split
  · split
    · split
      · exact foldl_keeps resumption (fun g e => toMap_resumption g _ k e) _ g
      · rfl
    · rfl
  · rfl

/-- Where one split alone is in use, it alone is placed. -/
theorem foldl_placeSplit_of_one {r : Record} (hk : g.splits[k]? = some sp) (hrecord : sp.snap.bind (fun n => n.record) = some r) (hused : sp.used = true)
    (hothers : ∀ j, j ≠ k → ∀ q, g.splits[j]? = some q → q.used = false) (l : List Nat) (hl : l.Nodup) (hmem : k ∈ l) :
    l.foldl (placeSplit t c) g = placeSplit t c g k := by
  have hplaced : ∀ j, j ≠ k → placeSplit t c (placeSplit t c g k) j = placeSplit t c g k := fun j hj => by
    refine placeSplit_of_unused (fun q hq => hothers j hj q ?_)
    rw [placeSplit_of_record hk hrecord hused, (foldl_toMap t.core.kind k _ g sp hk).2 j hj] at hq
    exact hq
  have hrest : ∀ l : List Nat, k ∉ l → l.foldl (placeSplit t c) (placeSplit t c g k) = placeSplit t c g k := by
    intro l
    induction l with
    | nil => exact fun _ => rfl
    | cons j l ih =>
      intro hnot
      rw [List.mem_cons, not_or] at hnot
      obtain ⟨hj, hl⟩ := hnot
      rw [List.foldl_cons, hplaced j (Ne.symm hj), ih hl]
  induction l with
  | nil => exact absurd hmem List.not_mem_nil
  | cons j l ih =>
    obtain ⟨hj, hl⟩ := List.nodup_cons.mp hl
    rw [List.foldl_cons]
    by_cases hjk : j = k
    · subst hjk
      exact hrest l hj
    · rw [placeSplit_of_unused (hothers j hjk)]
      exact ih hl ((List.mem_cons.mp hmem).resolve_left (Ne.symm hjk))

end Placement

/-! ## The gang as its handler leaves it -/

section Return

/-- A split as the handler's end restores it from what was saved and from the frame in memory at x. -/
def splitBack (s : State) (t : Team) (g : Gang) (h : Handler) (cleared : Mask) (m : Memory) (x k : Nat) : Split :=
  let was := h.saved.getD k Split.unused
  let now := g.splits.getD k Split.unused
  let rd (off n : Nat) : Nat := m.readLE (x + off) n
  if !was.used then Split.unused
  else
    let sp := if k = h.split then { was with mask := was.mask &&& ~~~cleared, sinceSel := now.sinceSel } else now
    { sp with fmt := mkWord (rd (64 + 64 * k + 16) 8 % 2 ^ 24 / 2 ^ 16 * 2 ^ 16 + rd (64 + 64 * k + 16) 8 % 2 ^ 14)
              sig := mkWord (rd (64 + 64 * k + 24) 8)
              wait := s.waitAfter t g sp.wait, stamp := s.now }

/-- The gang with its splits, its stack and its FLG back, and traps unmasked. -/
def gangBack (s : State) (t : Team) (g : Gang) (h : Handler) (cleared : Mask) (m : Memory) (x : Nat) : Gang :=
  { g.setRcs (g.rcs.drop (g.rcs.length - h.rcsBase)) with
    flg := BitVec.ofNat 6 (m.readLE (x + 32) 1), splits := (List.range 4).map (splitBack s t g h cleared m x), handler := none
    selAt := if t.status == .suspending then h.split else g.selAt }

/-- In native code its splits are placed. -/
def gangPlaced (t : Team) (g : Gang) : Gang :=
  match t.native, t.natCode with
  | true, some c => (List.range 4).foldl (placeSplit t c) g
  | _, _ => g

/-- And stand at snapshots of that state. -/
def gangResnapped (t : Team) (g : Gang) : Gang := if t.native then { g with splits := g.splits.map (fun sp => sp.resnap g.nregs) } else g

variable {s : State} {rid gang k x : Nat} {t : Team} {g : Gang} {h : Handler} {sp : Split} {cleared : Mask} {m : Memory}

theorem leaveHandler_of_frame (ht : s.team? rid = some t) (hg : t.gangs[gang]? = some g) (hh : g.handler = some h)
    (hframe : (s.dropFrame t.core t.asid h.frame).access t.asid h.frame false = .ok x) :
    let s1 := s.dropFrame t.core t.asid h.frame
    s.leaveHandler rid gang cleared =
      (s1.updTeam rid (fun t' => t'.updGang gang (fun _ => gangResnapped t (gangPlaced t (gangBack s t g h cleared s1.mem x))))).remakeLost t gang
        (gangBack s t g h cleared s1.mem x).splits := by
  simp only [State.leaveHandler, ht, hg, hh, hframe]
  rfl

theorem remakeLost_team? (s : State) (t : Team) (gang : Nat) (splits : List Split) (rid : Nat) :
    (s.remakeLost t gang splits).team? rid = s.team? rid := by
  unfold State.remakeLost
  dsimp only
  split
  · rfl
  · split <;> rfl

/-- A split that was in use stands where it stood, the faulting one without the lanes that have left. -/
theorem splitBack_of_saved (hsaved : h.saved[k]? = some sp) (hused : sp.used = true) (hstill : k ≠ h.split → g.splits[k]? = some sp) :
    let q := splitBack s t g h cleared m x k
    q.pc = sp.pc ∧ q.ret = sp.ret ∧ q.mask = (if k = h.split then sp.mask &&& ~~~cleared else sp.mask) ∧ q.rrb = sp.rrb ∧ q.snap = sp.snap ∧ q.used = true := by
  have hwas : h.saved.getD k Split.unused = sp := by rw [List.getD_eq_getElem?_getD, hsaved, Option.getD_some]
  unfold splitBack
  simp only [hwas, hused, Bool.not_true, Bool.false_eq_true, if_false]
  by_cases hk : k = h.split
  · simp [hk]
  · simp [hk, hstill hk, hused]

theorem splitBack_of_unused (hunused : ∀ y, h.saved[k]? = some y → y.used = false) : (splitBack s t g h cleared m x k).used = false := by
  have hwas : (h.saved.getD k Split.unused).used = false := by
    rw [List.getD_eq_getElem?_getD]
    cases hk : h.saved[k]? with
    | none => rfl
    | some y => exact hunused y hk
  unfold splitBack
  simp only [hwas, Bool.not_false, if_true]
  rfl

theorem gangBack_split (hk : k < 4) : (gangBack s t g h cleared m x).splits[k]? = some (splitBack s t g h cleared m x k) := by
  simp [gangBack, hk]

@[simp] theorem setRcs_rcs (g : Gang) (l : List RcsEntry) : (g.setRcs l).rcs = l := by
  unfold Gang.setRcs
  dsimp only
  split <;> rfl

@[simp] theorem setRcs_registers (g : Gang) (l : List RcsEntry) :
    (g.setRcs l).nregs = g.nregs ∧ (g.setRcs l).jregs = g.jregs ∧ (g.setRcs l).tspill = g.tspill := by
  unfold Gang.setRcs
  dsimp only
  split <;> exact ⟨rfl, rfl, rfl⟩

theorem gangBack_registers : (gangBack s t g h cleared m x).nregs = g.nregs ∧ (gangBack s t g h cleared m x).jregs = g.jregs ∧
    (gangBack s t g h cleared m x).tspill = g.tspill := setRcs_registers ..

theorem gangPlaced_resumption (t : Team) (g : Gang) : resumption (gangPlaced t g) = resumption g := by
  unfold gangPlaced
  split
  next c _ _ => exact foldl_keeps resumption (fun g k => placeSplit_resumption t c g k) _ g
  · rfl

theorem gangResnapped_resumption (t : Team) (g : Gang) : resumption (gangResnapped t g) = resumption g := by
  unfold gangResnapped
  split
  · simp only [resumption, List.map_map]
    rfl
  · rfl

@[simp] theorem gangResnapped_memories (t : Team) (g : Gang) : (gangResnapped t g).nregs = g.nregs ∧ (gangResnapped t g).tspill = g.tspill := by
  unfold gangResnapped
  split <;> exact ⟨rfl, rfl⟩

/-- Of a gang's resumption, what it says of one split. -/
theorem split_of_resumption {g g' : Gang} {k : Nat} {sp : Split} (h : resumption g' = resumption g) (hk : g.splits[k]? = some sp) :
    ∃ q, g'.splits[k]? = some q ∧ q.pc = sp.pc ∧ q.ret = sp.ret ∧ q.mask = sp.mask := by
  have hmap : g'.splits.map (fun sp => (sp.pc, sp.ret, sp.mask)) = g.splits.map (fun sp => (sp.pc, sp.ret, sp.mask)) := (Prod.mk.inj h).1
  have hget := congrArg (fun l => l[k]?) hmap
  simp only [List.getElem?_map, hk, Option.map_some, Option.map_eq_some_iff, Prod.mk.injEq] at hget
  obtain ⟨q, hq, hpc, hret, hmask⟩ := hget
  exact ⟨q, hq, hpc, hret, hmask⟩

theorem gangResnapped_lr {q : Split} (hq : (gangResnapped t g).splits[k]? = some q) : ∃ q', g.splits[k]? = some q' ∧ q'.lr = q.lr := by
  unfold gangResnapped at hq
  split at hq
  · simp only [List.getElem?_map, Option.map_eq_some_iff] at hq
    obtain ⟨q', hq', rfl⟩ := hq
    exact ⟨q', hq', rfl⟩
  · exact ⟨q, hq, rfl⟩

end Return

/-- Settles O52: what a handler's end leaves of the splits is kept by every placement (`resumption`), and with one split in use the placement is
that of its record's entries in order (`foldl_placeSplit_of_one`, `foldl_toMap`). -/
theorem handlerReturnState : Obligations.HandlerReturnState := by
  unfold Obligations.HandlerReturnState
  intro s rid gang x k t g h sp cleared ht hg hh hsaved hk hused hstill _ s1 mask hframe
  let back := gangBack s t g h cleared s1.mem x
  let g' := gangResnapped t (gangPlaced t back)
  have hleave : s.leaveHandler rid gang cleared = (s1.updTeam rid (fun t' => t'.updGang gang (fun _ => g'))).remakeLost t gang back.splits :=
    leaveHandler_of_frame ht hg hh hframe
  obtain ⟨hpc, hret, hmask, hrrb, hsnap, hused'⟩ := splitBack_of_saved (s := s) (t := t) (cleared := cleared) (m := s1.mem) (x := x) hsaved hused hstill
  have hback : back.splits[k]? = some (splitBack s t g h cleared s1.mem x k) := gangBack_split hk
  obtain ⟨hnregs, hjregs, htspill⟩ : back.nregs = g.nregs ∧ back.jregs = g.jregs ∧ back.tspill = g.tspill := gangBack_registers
  have hresume : resumption g' = resumption back := (gangResnapped_resumption t _).trans (gangPlaced_resumption t _)
  obtain ⟨q, hq, hqpc, hqret, hqmask⟩ := split_of_resumption hresume hback
  obtain ⟨-, hrest⟩ := Prod.mk.inj hresume
  obtain ⟨hrcs, hrest⟩ := Prod.mk.inj hrest
  obtain ⟨hflg, hhandler⟩ := Prod.mk.inj hrest
  obtain ⟨hregs', hspill'⟩ := gangResnapped_memories t (gangPlaced t back)
  obtain ⟨y, hy, hsame⟩ := (dropFrame_quiet s t.core t.asid h.frame).teams rid t ht
  have hyg : y.gangs[gang]? = some g := by rw [← hg, ← hsame.gangs]
  have hteam : (s.leaveHandler rid gang cleared).team? rid = some (y.updGang gang (fun _ => g')) := by
    rw [hleave, remakeLost_team?]
    exact team?_updTeam (f := fun t' => t'.updGang gang (fun _ => g')) (fun _ => rfl) hy
  refine ⟨_, g', q, hteam, gangs_updGang hyg, hhandler, hflg, hrcs.trans (setRcs_rcs ..), hq, hqpc.trans hpc, hqret.trans hret, hqmask.trans hmask, ?jv, ?native⟩
  case jv =>
    intro hjv
    have hplaced : gangPlaced t back = back := by simp [gangPlaced, hjv]
    rw [hregs', hplaced, hnregs]
  case native =>
    intro c n r hnative hcode hsnap' hrecord hothers value
    have hvalue : ∀ e, entryValue back e = value e := fun e => by rw [entryValue, hjregs]
    have hrecord' : (splitBack s t g h cleared s1.mem x k).snap.bind (fun n => n.record) = some r := by rw [hsnap, hsnap', Option.bind_some, hrecord]
    have hunused : ∀ j, j ≠ k → ∀ q, back.splits[j]? = some q → q.used = false := by
      intro j hj q hq
      have hj4 : j < 4 := by
        obtain ⟨hlt, -⟩ := List.getElem?_eq_some_iff.mp hq
        simpa [back, gangBack] using hlt
      rw [gangBack_split hj4, Option.some.injEq] at hq
      rw [← hq]
      exact splitBack_of_unused (hothers j hj)
    have hplaced : gangPlaced t back = (c.valuesOf r).foldl (fun g e => g.toMap t.core.kind k e) back := by
      simp only [gangPlaced, hnative, hcode]
      rw [foldl_placeSplit_of_one hback hrecord' hused' hunused _ List.nodup_range (List.mem_range.mpr hk), placeSplit_of_record hback hrecord' hused']
    refine ⟨?regs, ?lr, ?spilled⟩
    case regs =>
      rw [hregs', hplaced, (foldl_toMap t.core.kind k _ back _ hback).1, hnregs, hrrb, hmask]
      simp only [hvalue]
      rfl
    case lr =>
      intro e hone hkind hloc
      obtain ⟨q', hq', hlr⟩ := gangResnapped_lr hq
      rw [hplaced, hone, List.foldl_cons, List.foldl_nil, toMap_lr hback hkind hloc, getElem?_set_of_some hback, Option.some.injEq] at hq'
      rw [← hlr, ← hq', hvalue]
    case spilled =>
      intro e w hone hkind huni
      rw [hspill', hplaced, hone, List.foldl_cons, List.foldl_nil, toMap_spilled_uni hback hkind (by rw [hjregs]; exact huni), hvalue, htspill]

end Sys2Proof.Proofs

/-! PROOFS. Dispatch (R355 to R366, R440, R480): what a dispatcher picks is placed or resumed, preloads are read, switched in and dropped, victims are
suspended together, and a masked gang holds up the save of its team. -/

namespace Sys2Proof.Proofs

open Sys2Proof.Machine Sys2Proof.Safety Sys2Proof.Laws

/-! ## Placing and resuming (R355 to R358) -/

section Picks

variable {s : State} {die : Nat}

theorem execTeamPlace_of_start {k : Task} {i : Nat} {core : CoreId} {u : State} (hpick : s.nextPick die = some (.start k i core))
    (hstart : s.startTeam k i core false = some u) : execTeamPlace die s = .next u := by
  simp only [execTeamPlace, hpick, hstart]

/-- The core that a die's dispatcher has picked for the team. -/
def resumeCoreOn (s : State) (rid d : Nat) : Option CoreId :=
  match s.nextPick d with
  | some (.resume r c) => if r = rid then some c else none
  | _ => none

theorem execTeamResume_eq (rid : Nat) (s : State) :
    execTeamResume rid s = match (List.range 4).findSome? (resumeCoreOn s rid) with
      | some c => Host.Outcome.next (s.resumeFull rid c)
      | none => Host.Outcome.next s := rfl

theorem resumeCoreOn_of_pick {rid : Nat} {core : CoreId} (hpick : s.nextPick die = some (.resume rid core)) : resumeCoreOn s rid die = some core := by
  simp only [resumeCoreOn, hpick, if_true]

theorem resumeCoreOn_of_other {rid : Nat} (hother : ∀ p, s.nextPick die = some p → ∀ r x, p = .resume r x → r ≠ rid) : resumeCoreOn s rid die = none := by
  unfold resumeCoreOn
  split
  next r c hpick => exact if_neg (hother _ hpick r c rfl)
  · rfl

/-- The first die whose dispatcher has picked the team. -/
theorem findSome?_range_of_first {β : Type} {f : Nat → Option β} {b : β} {n i : Nat} (hi : i < n) (hb : f i = some b) (hbefore : ∀ j < i, f j = none) :
    (List.range n).findSome? f = some b := by
  obtain ⟨m, rfl⟩ : ∃ m, n = i + 1 + m := ⟨n - (i + 1), by omega⟩
  rw [List.range_add, List.range_succ, List.append_assoc, List.findSome?_append, List.findSome?_eq_none_iff.mpr (fun j hj => hbefore j (List.mem_range.mp hj))]
  simp [hb]

theorem execTeamResume_of_first {rid : Nat} {core : CoreId} (hpick : s.nextPick die = some (.resume rid core))
    (hbefore : ∀ d < die, ∀ p, s.nextPick d = some p → ∀ r x, p = .resume r x → r ≠ rid) (hdie : die < 4) :
    execTeamResume rid s = .next (s.resumeFull rid core) := by
  have hfirst : (List.range 4).findSome? (resumeCoreOn s rid) = some core :=
    findSome?_range_of_first hdie (resumeCoreOn_of_pick hpick) (fun d hd => resumeCoreOn_of_other (hbefore d hd))
  simp only [execTeamResume_eq, hfirst]

end Picks

/-! ## Preloads (R359 to R361, R480) -/

section Preloads

variable {s : State} {core : CoreId} {p : Preload} {k : Task}

/-- A preload reads its team's translation, and takes hold where the read leaves the task alive and the copies are sound. -/
theorem execPreload_of_next (hempty : (s.coreOf core).preload = none) (hnext : s.nextFor core = some p)
    (htask : s.hub.tasks.find? (fun (k : Task) => k.id == p.task) = some k)
    (halive : (s.readHeld k core.kind).hub.tasks.any (fun (k : Task) => k.id == p.task && !k.ended) = true) :
    execPreload core s =
      .next (if s.preloadBad p then s.readHeld k core.kind
        else (s.readHeld k core.kind).setCore { (s.readHeld k core.kind).coreOf core with preload := some p }) := by
  simp only [execPreload, hempty, hnext, htask, halive, Bool.true_and]
  cases s.preloadBad p <;> rfl

variable (hheld : (s.coreOf core).preload = some p) (htask : s.hub.tasks.find? (fun (k : Task) => k.id == p.task && !k.ended) = some k)
include hheld htask

theorem switchIn_of_suspended {rid : Nat} {t : Team} (hrid : p.rid = some rid) (ht : s.team? rid = some t) (hwaits : t.waits = true)
    (hkind : (s.resumeKinds t).contains core.kind = true) (hfits : s.fits core t.kern = true) (hcoop : k.coop = false ∨ s.coopFits k = true) :
    s.switchIn core =
      let u := (s.setCore { s.coreOf core with preload := none }).resumeBrought rid core true p.bank.isSome
      match p.bank with
      | some b => u.updTeam rid (fun (u : Team) => { u with bank := b, scratchAt := 0 })
      | none => u := by
  have hready : (t.waits && (s.resumeKinds t).contains core.kind && s.fits core t.kern && (!k.coop || s.coopFits k)) = true := by
    simp only [hwaits, hkind, hfits, Bool.true_and, Bool.or_eq_true, Bool.not_eq_true']
    exact hcoop
  simp only [State.switchIn, hheld, hrid, htask, ht, if_pos hready] <;> rfl

theorem switchIn_of_unstarted {u : State} (hrid : p.rid = none) (hfits : s.fits core k.kern = true)
    (hspill : s.spillFits (CoreId.die core) (s.spillNeed k core.kind) = true) (hfresh : k.started.contains p.index = false)
    (hstart : (s.setCore { s.coreOf core with preload := none }).startTeam k p.index core true = some u) : s.switchIn core = u := by
  simp only [State.switchIn, hheld, hrid, htask, hfresh, hfits, hspill, Bool.and_self, Bool.false_eq_true, if_false, if_true, hstart, Option.getD_some]

end Preloads

/-! ## Suspensions (R362, R363, R366, R440) -/

section Suspensions

variable {s : State} {rid : Nat} {t : Team} (ht : s.team? rid = some t)
include ht

/-- The victims of one choice are suspended together, and their core is kept for the team that then ranks highest. -/
theorem execNativeSuspend_of_victims {k : Task × Bool} {c : CoreId} {l : List Nat} (hrunning : t.status ≠ .suspending) (hstuck : s.deadlineStuck = some k)
    (hvictims : s.victims k = some (c, l)) (hmem : rid ∈ l) (hready : s.victimsReady l = true) :
    execNativeSuspend rid s = .next (s.preempt (c, l)) := by
  have hstatus : (t.status == TeamStatus.suspending) = false := by simpa using hrunning
  simp only [execNativeSuspend, ht, hstatus, Bool.false_eq_true, if_false, hstuck, Option.bind_some, hvictims]
  exact when_of_enabled (by simp [hmem, hready])

theorem execNativeSuspend_of_unmasked (hstatus : t.status = .suspending) (hopen : t.masked = false) :
    execNativeSuspend rid s = .next (s.finishSuspend t) := by
  simp only [execNativeSuspend, ht, hstatus, beq_self_eq_true, if_true]
  exact when_of_enabled (by rw [hopen]; rfl)

end Suspensions

theorem preempt_eq (s : State) (c : CoreId) (l : List Nat) :
    s.preempt (c, l) = (l.foldl (fun (u : State) r => match u.team? r with
        | some x => if x.status = .resident then u.suspendNative x else u
        | none => u) s).freeCore c := by
  simp only [State.preempt, beq_iff_eq] <;> rfl

theorem freeCore_of_new {s : State} {c : CoreId} (hnew : s.hub.freed.contains c = false) :
    s.freeCore c = { s with hub := { s.hub with freed := s.hub.freed ++ [c] } } := by
  rw [State.freeCore, hnew]
  rfl

@[simp] theorem freeCore_team? (s : State) (c : CoreId) (rid : Nat) : (s.freeCore c).team? rid = s.team? rid := by
  unfold State.freeCore
  split <;> rfl

@[simp] theorem deselect_teams (s : State) (t : Team) : (s.deselect t).teams = s.teams := by
  unfold State.deselect
  dsimp only
  split
  · simp
  · rfl

/-- Contexts that go on leave their gang's handler and their team's status. -/
theorem goOn_masked (t : Team) (now : Nat) : (t.goOn now).masked = t.masked := by
  simp [Team.goOn, Team.wakeIf, Team.masked, List.any_map, Function.comp_def]

/-- The gangs of a suspended team: those that have no handler stop. -/
def gangsStopped (s : State) (t : Team) : List Gang :=
  (t.gangs.zip (List.range t.gangs.length)).map (fun (x : Gang × Nat) => if x.1.handler.isSome then x.1 else s.stopGang t false x.2 x.1)

theorem gangsStopped_masked (s : State) {t : Team} (hmasked : t.masked = true) : (gangsStopped s t).any (fun g => g.handler.isSome) = true := by
  obtain ⟨g, hg, hhandler⟩ := List.any_eq_true.mp hmasked
  obtain ⟨i, hi, hgi⟩ := List.mem_iff_getElem.mp hg
  refine List.any_eq_true.mpr ⟨g, List.mem_map.mpr ⟨(g, i), ?_, if_pos hhandler⟩, hhandler⟩
  rw [List.mem_iff_getElem]
  exact ⟨i, by simpa using hi, by simp [hgi]⟩

/-- A team one of whose gangs is in its handler waits with that gang. -/
theorem suspendOne_of_masked {s : State} {rid : Nat} {t : Team} (ht : s.team? rid = some t) (hmasked : t.masked = true) (hnew : t.rebuild = false) :
    ∃ u : Team, (s.suspendOne rid).team? rid = some u ∧ u.status = .suspending ∧ u.masked = true := by
  have hdrop : s.dropMove t = s := by simp [State.dropMove, hnew]
  have ht1 : (s.deselect t).team? rid = some t := by rw [State.team?, deselect_teams]; exact ht
  refine ⟨({ t with status := .suspending, gangs := gangsStopped s t } : Team).goOn s.now, ?_, rfl, ?_⟩
  · simp only [State.suspendOne, ht, hdrop, Option.getD_some, hmasked, if_true, freeCore_team?]
    exact team?_updTeam (f := fun u => u.goOn s.now) (fun _ => rfl) (team?_updTeam (f := fun u => { u with
      status := .suspending
      gangs := (u.gangs.zip (List.range u.gangs.length)).map (fun (x : Gang × Nat) => if x.1.handler.isSome then x.1 else s.stopGang t false x.2 x.1) })
      (fun _ => rfl) ht1)
  · rw [goOn_masked]
    exact gangsStopped_masked s hmasked

/-- Settles O24: each event's equation for the case that its clause names; a masked gang is what holds up the save (`suspendOne_of_masked`). -/
theorem teamsArePlacedAndResumed : Obligations.TeamsArePlacedAndResumed := by
  unfold Obligations.TeamsArePlacedAndResumed
  intro s
  refine ⟨?place, ?resume, ?preload, ?suspendedIn, ?freshIn, ?dropped, ?victims, ?freed, ?finish, ?masked⟩
  case place => exact fun _ _ _ _ _ hpick hstart => execTeamPlace_of_start hpick hstart
  case resume => exact fun _ _ _ hpick hbefore hdie => execTeamResume_of_first hpick hbefore hdie
  case preload =>
    intro core p k hempty hnext htask s1 halive
    have hpreload : exec (.preload core) s = _ := execPreload_of_next hempty hnext htask halive
    refine ⟨fun hsound => ?_, fun hbad => ?_⟩
    · rw [hpreload, hsound]
      rfl
    · rw [hpreload, hbad]
      rfl
  case suspendedIn =>
    exact fun _ _ _ _ _ hheld hrid htask ht hwaits hkind hfits hcoop =>
      congrArg Host.Outcome.next (switchIn_of_suspended hheld htask hrid ht hwaits hkind hfits hcoop)
  case freshIn =>
    exact fun _ _ _ _ hheld hrid htask hfits hspill hfresh hstart =>
      congrArg Host.Outcome.next (switchIn_of_unstarted hheld htask hrid hfits hspill hfresh hstart)
  case dropped => exact fun _ hheld => when_of_enabled hheld
  case victims =>
    intro rid t k c l ht hrunning hstuck hvictims hmem hready
    exact (execNativeSuspend_of_victims ht hrunning hstuck hvictims hmem hready).trans (congrArg Host.Outcome.next (preempt_eq s c l))
  case freed => exact fun _ hnew => freeCore_of_new hnew
  case finish => exact fun _ _ ht hstatus hopen => execNativeSuspend_of_unmasked ht hstatus hopen
  case masked => exact fun _ _ ht hmasked hnew => suspendOne_of_masked ht hmasked hnew

end Sys2Proof.Proofs

/-! PROOFS. The command processor's packets (R342 to R354, R478, R513): the head of the queue that issues next, the launch on its way to admission, and
the packet that halts its queue. -/

namespace Sys2Proof.Proofs

open Sys2Proof.Machine

/-! ## The packet that issues next (R352 to R354) -/

section Issue

variable {s : State} {q : Queue} {credit : Nat} {ws : List Word} (hserving : s.hub.serving = true) (hnext : s.nextQueue = some (q, credit))
  (hwords : q.headWords = some ws)
include hserving hnext hwords

/-- The packet goes as its type says, in a machine in which its queue's visit has counted it. -/
theorem issue_of_next {type : Nat} (htype : pType ws = type) (go : Queue → List Word → State → Option State) {u : State}
    (hgo : go q ws (s.visited q credit) = some u) : s.issue q.num type go = .next u := by
  simp only [State.issue, hserving, Bool.not_true, Bool.false_eq_true, if_false, hnext, hwords, htype, and_self, if_true, hgo]

theorem execTaskAdmit_of_next (htype : pType ws = 1) {x : Ahead} {k : Kernel} (hhead : q.ahead.head? = some x)
    (hkernel : (s.visited q credit).kernel? q.asid (launchHandle ws) = some k) :
    execTaskAdmit q.num s = .next ((s.visited q credit).admitTask q x k ws) :=
  issue_of_next hserving hnext hwords htype _ (by simp only [hhead, hkernel])

end Issue

/-! ## The launch at the head (R345, R478) -/

section Launch

variable {s : State} {n : Nat} {q : Queue} {x : Ahead} {ws : List Word} (hserving : s.hub.serving = true) (hrunning : q.halted = none)
  (hsound : q.haltReason = none) (htype : pType ws = 1)
include hserving hrunning hsound htype

/-- The issue stage takes the launch up where it has something to do with it. -/
theorem launch_enabled (hstages : s.stages q x ws = true) :
    (s.hub.serving && q.halted.isNone && q.haltReason.isNone && pType ws == 1 && s.stages q x ws) = true := by
  rw [hserving, hrunning, hsound, htype, hstages]
  rfl

variable (hq : s.queue? n = some q) (hhead : q.ahead.head? = some x) (hwords : q.headWords = some ws)
include hq hhead hwords

theorem execLaunchPacket_of_stale (hstale : s.argsStale q x ws = true) (hrereads : s.rereads q x ws = true) :
    execLaunchPacket n s = .next (s.reread q x ws) := by
  have henabled := launch_enabled hserving hrunning hsound htype (x := x) (by rw [State.stages, if_pos hstale, hrereads])
  simp only [execLaunchPacket, hq, hhead, hwords, if_pos henabled, if_pos hstale]

variable (hfresh : s.argsStale q x ws = false)
include hfresh

theorem execLaunchPacket_of_refusal {r : Nat} (hstep : q.staged = false ∨ s.kernel? q.asid (launchHandle ws) = none)
    (hrefusal : s.refusal q x ws = some r) : execLaunchPacket n s = .next (s.refuseLaunch q ws r) := by
  have hstages : s.stages q x ws = true := by
    rcases hstep with hstep | hstep <;> simp [State.stages, hfresh, hstep]
  have henabled := launch_enabled hserving hrunning hsound htype hstages
  simp only [execLaunchPacket, hq, hhead, hwords, if_pos henabled, hfresh, Bool.false_eq_true, if_false, hrefusal]

theorem execLaunchPacket_of_good (hstep : q.staged = false) (hrefusal : s.refusal q x ws = none) :
    execLaunchPacket n s = .next (s.updQueue n (fun (q : Queue) => { q with staged := true })) := by
  have henabled := launch_enabled hserving hrunning hsound htype (x := x) (by simp [State.stages, hfresh, hstep])
  simp only [execLaunchPacket, hq, hhead, hwords, if_pos henabled, hfresh, Bool.false_eq_true, if_false, hrefusal]

end Launch

/-! ## A packet against the rules (R513) -/

theorem execUnassignedPacket_of_halt {s : State} {n r a : Nat} {q : Queue} (hq : s.queue? n = some q) (hreason : q.haltReason = some (r, a))
    (hserving : s.hub.serving = true) (hrunning : q.halted = none) :
    execUnassignedPacket n s = .next ((s.updQueue n (fun (q : Queue) => { q with halted := some r })).log { cause := 0, reason := r, addr := a }) := by
  simp only [execUnassignedPacket, hq, hreason]
  exact when_of_enabled (by rw [hserving, hrunning]; rfl)

/-- Settles O26: each packet's effect is what `issue_of_next` lets go, or the issue stage's equation for the clause's case. -/
theorem packetsAreProcessed : Obligations.PacketsAreProcessed := by
  unfold Obligations.PacketsAreProcessed
  intro s
  refine ⟨?noop, ?call, ?join, ?signal, ?staged, ?launch, ?halts⟩
  case noop =>
    exact fun _ _ _ hserving hnext hwords htype => show execNoopPacket _ s = _ from issue_of_next hserving hnext hwords htype _ rfl
  case call =>
    exact fun _ _ _ hserving hnext hwords htype => show execCallPacket _ s = _ from issue_of_next hserving hnext hwords htype _ rfl
  case join =>
    exact fun _ _ _ hserving hnext hwords htype => show execJoinPacket _ s = _ from issue_of_next hserving hnext hwords htype _ rfl
  case signal =>
    exact fun _ _ _ hserving hnext hwords htype => show execSignalPacket _ s = _ from issue_of_next hserving hnext hwords htype _ rfl
  case staged => exact fun _ _ _ hserving hnext hwords htype _ _ hhead hkernel => execTaskAdmit_of_next hserving hnext hwords htype hhead hkernel
  case launch =>
    intro n q x ws hq hhead hwords hserving hrunning hsound htype
    refine ⟨fun hstale hrereads => ?_, fun r hfresh hstep hrefusal => ?_, fun hfresh hstep hrefusal => ?_⟩
    · exact execLaunchPacket_of_stale hserving hrunning hsound htype hq hhead hwords hstale hrereads
    · exact execLaunchPacket_of_refusal hserving hrunning hsound htype hq hhead hwords hfresh hstep hrefusal
    · exact execLaunchPacket_of_good hserving hrunning hsound htype hq hhead hwords hfresh hstep hrefusal
  case halts => exact fun _ _ _ _ hq hreason hserving hrunning => execUnassignedPacket_of_halt hq hreason hserving hrunning

end Sys2Proof.Proofs

/-! PROOFS. The host port (R342, R385 to R387, R391, R514, R524, R526): doorbells, the accesses through the window as `hostReach` finds their pages, and
the management registers by the range in which an offset lies. -/

namespace Sys2Proof.Proofs

open Sys2Proof.Machine

variable {s : State}

/-! ## Doorbells (R342, R513) -/

section Doorbells

variable {offset : Nat} {value : BitVec 32}

theorem execDoorbell_of_serving (hfirst : s.hub.hostOps = []) (hserving : s.hub.serving = true) :
    execDoorbell offset value s = .next (s.ring offset value) := by
  simp only [execDoorbell, hfirst, List.isEmpty_nil, if_true, State.bell, hserving]

theorem execDoorbell_of_not_serving (hfirst : s.hub.hostOps = []) (hearly : s.hub.serving = false) :
    execDoorbell offset value s = .next { s with hub := { s.hub with heldBells := s.hub.heldBells ++ [(offset, value)] } } := by
  simp only [execDoorbell, hfirst, List.isEmpty_nil, if_true, State.bell, hearly, Bool.false_eq_true, if_false]

theorem execDoorbell_of_waiting (hlater : s.hub.hostOps ≠ []) :
    execDoorbell offset value s = .next { s with hub := { s.hub with hostOps := s.hub.hostOps ++ [.bell offset value] } } := by
  rw [execDoorbell, List.isEmpty_eq_false_iff.mpr hlater]
  rfl

theorem ring_of_no_queue (hq : s.queue? (offset / 64) = none) : s.ring offset value = s.hostRecord 21 offset := by
  simp only [State.ring, hq]

variable {q : Queue} (hq : s.queue? (offset / 64) = some q)
include hq

theorem ring_of_no_doorbell (hbad : q.device = true ∨ offset % 64 ≠ 0) : s.ring offset value = s.hostRecord 21 offset := by
  have hno : (q.device || offset % 64 != 0) = true := by simpa using hbad
  simp only [State.ring, hq, if_pos hno]

variable (hhost : q.device = false) (haligned : offset % 64 = 0)
include hhost haligned

/-- The value of a host queue's doorbell is kept; within the ring it becomes the write index, and beyond it the queue halts. -/
theorem ring_of_host_queue :
    let u : State := { s with hub := { s.hub with doorbells := Tab.set 0 s.hub.doorbells q.num value } }
    s.ring offset value =
      if q.size < (value - q.rd).toNat then
        if q.halted.isSome then u
        else (u.updQueue q.num (fun q => { q with halted := some 22 })).log { cause := 0, reason := 22, addr := value.toNat }
      else u.updQueue q.num (fun q => { q with wr := value }) := by
  have hbell : (q.device || offset % 64 != 0) = false := by simp [hhost, haligned]
  simp only [State.ring, hq, hbell, Bool.false_eq_true, if_false]

end Doorbells

/-! ## The window (R385, R514) -/

section Window

/-- An access that others wait before waits behind them. -/
theorem hostAsk_of_waiting (o : HostOp) (hlater : s.hub.hostOps ≠ []) : s.hostAsk o = { s with hub := { s.hub with hostOps := s.hub.hostOps ++ [o] } } := by
  rw [State.hostAsk, List.isEmpty_eq_false_iff.mpr hlater]
  rfl

variable {o : HostOp} {u : State} (hfirst : s.hub.hostOps = [])
include hfirst

theorem hostAsk_of_done (hdone : s.hostDo o false = (u, true)) : s.hostAsk o = u := by
  simp only [State.hostAsk, hfirst, List.isEmpty_nil, if_true, hdone]

theorem hostAsk_of_wait (hwait : s.hostDo o false = (u, false)) : s.hostAsk o = { u with hub := { u.hub with hostOps := [o], hostSince := s.ptp } } := by
  simp only [State.hostAsk, hfirst, List.isEmpty_nil, if_true, hwait, Bool.false_eq_true, if_false]

end Window

section Reached

variable {offset n asid va : Nat} {bytes : List Byte} {late : Bool} {u : State}

theorem hostLoad_of_ok (hwindow : s.hub.window offset = some (asid, va)) (hreach : s.hostReach offset n false late = (.ok, u)) :
    s.hostLoad offset n late = ({ u with hub := { u.hub with hostRead := u.vaBytes asid va n } }, true) := by
  simp only [State.hostLoad, hreach, hwindow]

theorem hostLoad_of_bad (hreach : s.hostReach offset n false late = (.bad, u)) :
    s.hostLoad offset n late = ({ s.hostRecord 20 offset with hub := { (s.hostRecord 20 offset).hub with hostRead := List.replicate n 0xFF } }, true) := by
  simp only [State.hostLoad, hreach]

theorem hostLoad_of_wait (hreach : s.hostReach offset n false late = (.wait, u)) : s.hostLoad offset n late = (u, false) := by
  simp only [State.hostLoad, hreach]

theorem hostStore_of_ok (hwindow : s.hub.window offset = some (asid, va)) (hreach : s.hostReach offset bytes.length true late = (.ok, u)) :
    s.hostStore offset bytes late = (u.putVa asid va bytes, true) := by
  simp only [State.hostStore, hreach, hwindow]

theorem hostStore_of_bad (hreach : s.hostReach offset bytes.length true late = (.bad, u)) :
    s.hostStore offset bytes late = (s.hostRecord 20 offset, true) := by
  simp only [State.hostStore, hreach]

theorem hostStore_of_wait (hreach : s.hostReach offset bytes.length true late = (.wait, u)) : s.hostStore offset bytes late = (u, false) := by
  simp only [State.hostStore, hreach]

end Reached

/-! ## The management registers (R386, R387, R391, R524, R526) -/

section Registers

variable {value : Word}

theorem execInjctl_of_mission (hmode : s.hub.config.testMode = false) : execInjctl value s = .next (s.hostRecord 20 0x400) := by
  rw [execInjctl, hmode]
  rfl

theorem execInjctl_of_test (hmode : s.hub.config.testMode = true) :
    let kept : Word := value &&& 0x000007FFFFFF1F01
    execInjctl value s = .next { s with hub := { s.hub with
      injCtl := if s.hub.injCtl.getLsbD 1 && !value.getLsbD 1 then kept ||| 2 else kept
      injCount := if value.getLsbD 0 && !s.hub.injCtl.getLsbD 0 then 0 else s.hub.injCount } } := by
  rw [execInjctl, hmode]
  rfl

/-- A write of the injector's key and mask is kept in test mode and dropped out of it. -/
theorem execBar4RegisterWrite_injKey : execBar4RegisterWrite 0x408 value s =
    if s.hub.config.testMode then .next { s with hub := { s.hub with injKey := value } } else .next (s.hostRecord 20 0x408) := rfl

theorem execBar4RegisterWrite_injXor : execBar4RegisterWrite 0x410 value s =
    if s.hub.config.testMode then .next { s with hub := { s.hub with injXor := value } } else .next (s.hostRecord 20 0x410) := rfl

theorem execBar4RegisterWrite_cmdCtl : execBar4RegisterWrite 0x40 value s =
    if value.getLsbD 0 && !s.hub.cmdGo then .next { s with hub := { s.hub with cmdGo := true, cmdSince := s.now } } else .next s := rfl

theorem execBar4RegisterWrite_window {i : Nat} (hi : i < 16) : execBar4RegisterWrite (0x100 + 8 * i) value s =
    .next { s with hub := { s.hub with win := s.hub.win.set i (value &&& 0x00FFFFFFC0000FFF) } } := by
  have hrange : 0x100 ≤ 0x100 + 8 * i ∧ 0x100 + 8 * i < 0x180 ∧ (0x100 + 8 * i) % 8 = 0 := by omega
  have hindex : (0x100 + 8 * i - 0x100) / 8 = i := by omega
  rw [execBar4RegisterWrite, if_neg (by omega), if_neg (by omega), if_neg (by omega), if_pos hrange, hindex]

theorem execBar4RegisterWrite_cmd {i : Nat} (hi : i < 8) : execBar4RegisterWrite (0x1000 + 8 * i) value s =
    if s.hub.cmdGo then .next (s.hostRecord 20 (0x1000 + 8 * i)) else .next { s with hub := { s.hub with cmd := s.hub.cmd.set i value } } := by
  have hrange : 0x1000 ≤ 0x1000 + 8 * i ∧ 0x1000 + 8 * i < 0x1040 ∧ (0x1000 + 8 * i) % 8 = 0 := by omega
  have hindex : (0x1000 + 8 * i - 0x1000) / 8 = i := by omega
  rw [execBar4RegisterWrite, if_neg (by omega), if_neg (by omega), if_neg (by omega), if_neg (by omega), if_neg (by omega), if_neg (by omega),
    if_neg (by omega), if_pos hrange, hindex]

/-- Offsets of registers that can be read and not written (R386, R391). -/
def readOnly (offset : Nat) : Prop :=
  offset = 0 ∨ offset = 8 ∨ offset = 0x10 ∨ offset = 0x18 ∨ offset = 0x20 ∨ offset = 0x48 ∨ offset = 0x58 ∨
    (0x2000 ≤ offset ∧ offset < 0x2800 ∧ offset % 8 = 0)

theorem execBar4RegisterWrite_readOnly {offset : Nat} (h : readOnly offset) : execBar4RegisterWrite offset value s = .next (s.hostRecord 20 offset) := by
  unfold readOnly at h
  rw [execBar4RegisterWrite, if_neg (by omega), if_neg (by omega), if_neg (by omega), if_neg (by omega), if_neg (by omega), if_neg (by omega),
    if_neg (by omega), if_neg (by omega), if_pos h]

theorem execBar4RegisterWrite_elsewhere {offset : Nat}
    (hnone : offset ∉ [0x0, 0x8, 0x10, 0x18, 0x20, 0x40, 0x48, 0x50, 0x58, 0x60, 0x400, 0x408, 0x410])
    (hrange : offset % 8 ≠ 0 ∨ ¬(0x100 ≤ offset ∧ offset < 0x180) ∧ ¬(0x1000 ≤ offset ∧ offset < 0x1040) ∧ ¬(0x2000 ≤ offset ∧ offset < 0x2800)) :
    execBar4RegisterWrite offset value s = .next s := by
  simp only [List.mem_cons, List.not_mem_nil, or_false, not_or] at hnone
  rw [execBar4RegisterWrite, if_neg (by omega), if_neg (by omega), if_neg (by omega), if_neg (by omega), if_neg (by omega), if_neg (by omega),
    if_neg (by omega), if_neg (by omega), if_neg (by omega)]

end Registers

/-- Settles O28: an access is performed, refused or waits as `hostReach` finds its pages, and an offset lies in one range of the registers. -/
theorem hostPortResults : Obligations.HostPortResults := by
  unfold Obligations.HostPortResults
  intro s
  refine ⟨?bell, ?readLater, ?read, ?badRead, ?waitRead, ?writeLater, ?write, ?badWrite, ?waitWrite, rfl, fun _ => ⟨rfl, rfl⟩, ?mission, ?test, ?go,
    fun _ => rfl, fun _ _ hi => execBar4RegisterWrite_window hi, ?cmd, ?readOnly, fun _ _ hnone hrange => execBar4RegisterWrite_elsewhere hnone hrange⟩
  case bell =>
    intro offset value
    refine ⟨execDoorbell_of_serving, execDoorbell_of_not_serving, execDoorbell_of_waiting, ?_, fun q hq hbad => ring_of_no_doorbell hq hbad, ring_of_no_queue⟩
    intro q hq hhost haligned u
    have hring := ring_of_host_queue (value := value) hq hhost haligned
    refine ⟨fun hwithin => ?_, fun hbeyond hrunning => ?_, fun hbeyond hhalted => ?_⟩
    · rw [hring, if_neg (not_lt.mpr hwithin)]
    · rw [hring, if_pos hbeyond, hrunning]
      rfl
    · rw [hring, if_pos hbeyond, if_pos (Option.isSome_iff_ne_none.mpr hhalted)]
  case readLater => exact fun _ _ hlater => congrArg Host.Outcome.next (hostAsk_of_waiting _ hlater)
  case read =>
    exact fun _ _ _ _ _ hfirst hwindow hreach => congrArg Host.Outcome.next (hostAsk_of_done hfirst (hostLoad_of_ok hwindow hreach))
  case badRead => exact fun _ _ _ hfirst hreach => congrArg Host.Outcome.next (hostAsk_of_done hfirst (hostLoad_of_bad hreach))
  case waitRead => exact fun _ _ _ hfirst hreach => congrArg Host.Outcome.next (hostAsk_of_wait hfirst (hostLoad_of_wait hreach))
  case writeLater => exact fun _ _ hlater => congrArg Host.Outcome.next (hostAsk_of_waiting _ hlater)
  case write =>
    exact fun _ _ _ _ _ hfirst hwindow hreach => congrArg Host.Outcome.next (hostAsk_of_done hfirst (hostStore_of_ok hwindow hreach))
  case badWrite => exact fun _ _ _ hfirst hreach => congrArg Host.Outcome.next (hostAsk_of_done hfirst (hostStore_of_bad hreach))
  case waitWrite => exact fun _ _ _ hfirst hreach => congrArg Host.Outcome.next (hostAsk_of_wait hfirst (hostStore_of_wait hreach))
  case mission =>
    intro value hmode
    refine ⟨execInjctl_of_mission hmode, execInjctl_of_mission hmode, ?_, ?_⟩
    · exact execBar4RegisterWrite_injKey.trans (by rw [hmode]; rfl)
    · exact execBar4RegisterWrite_injXor.trans (by rw [hmode]; rfl)
  case test =>
    intro value hmode kept u
    refine ⟨execInjctl_of_test hmode, execInjctl_of_test hmode, ?_, ?_⟩
    · exact execBar4RegisterWrite_injKey.trans (if_pos hmode)
    · exact execBar4RegisterWrite_injXor.trans (if_pos hmode)
  case go =>
    intro value
    refine ⟨fun hbit hidle => ?_, fun hnot => ?_⟩
    · exact execBar4RegisterWrite_cmdCtl.trans (if_pos (by rw [hbit, hidle]; rfl))
    · exact execBar4RegisterWrite_cmdCtl.trans (if_neg (by rcases hnot with h | h <;> rw [h] <;> simp))
  case cmd =>
    intro i value hi
    refine ⟨fun hidle => ?_, fun hruns => ?_⟩
    · exact (execBar4RegisterWrite_cmd hi).trans (by rw [hidle]; rfl)
    · exact (execBar4RegisterWrite_cmd hi).trans (if_pos hruns)
  case readOnly =>
    intro offset hoffset value
    refine execBar4RegisterWrite_readOnly ?_
    simpa [readOnly, or_assoc] using hoffset

end Sys2Proof.Proofs

/-! PROOFS. The management commands (R387 to R390, R396, R403, R509 to R518): what every command does before its own part, and each command's own part
in the cases that the statement tells apart. -/

namespace Sys2Proof.Proofs

open Sys2Proof.Machine Sys2Proof.Safety

variable {s : State}

/-! ## Every command (R387, R510) -/

theorem command_of_not_running {code : Nat} {checks : List (Nat × Bool)} (go : Result) (hruns : s.cmdRuns code = false) :
    s.command code checks go = .next s := by
  rw [State.command, hruns]
  rfl

theorem command_of_offending {code i : Nat} {checks : List (Nat × Bool)} (go : Result) (hruns : s.cmdRuns code = true)
    (hbad : offending (s.zeroAbove 0 8 :: checks) = some i) : s.command code checks go = .next (s.cmdDone 2 i) := by
  simp only [State.command, hruns, Bool.not_true, Bool.false_eq_true, if_false, hbad]

/-- A command that runs with its words in order comes to its own part. -/
theorem command_of_accepted {code : Nat} {checks : List (Nat × Bool)} (go : Result) (h : Accepted s code checks) : s.command code checks go = go := by
  obtain ⟨hruns, hgood⟩ := h
  simp only [State.command, hruns, Bool.not_true, Bool.false_eq_true, if_false, hgood]

/-- Every command checks its code and its words before its own part. -/
theorem exec_of_commandTable : ∀ x ∈ commandTable s, ∃ go : Result, exec x.1 s = s.command x.2.1 x.2.2 go := by
  simp only [commandTable, List.forall_mem_cons]
  exact ⟨⟨_, rfl⟩, ⟨_, rfl⟩, ⟨_, rfl⟩, ⟨_, rfl⟩, ⟨_, rfl⟩, ⟨_, rfl⟩, ⟨_, rfl⟩, ⟨_, rfl⟩, ⟨_, rfl⟩, ⟨_, rfl⟩, ⟨_, rfl⟩, fun _ hx => absurd hx List.not_mem_nil⟩

theorem execUnassignedCommand_of_unnamed (hgo : s.hub.cmdGo = true) (hserving : s.hub.serving = true)
    (hcode : s.cmdField 0 0 8 ∉ [0x01, 0x02, 0x10, 0x11, 0x20, 0x21, 0x30, 0x31, 0x40, 0x50, 0x70]) :
    execUnassignedCommand s = .next (s.cmdDone 1 0) := by
  have hunnamed : [0x01, 0x02, 0x10, 0x11, 0x20, 0x21, 0x30, 0x31, 0x40, 0x50, 0x70].contains (s.cmdField 0 0 8) = false := by
    rw [← Bool.not_eq_true, List.contains_iff_mem]
    exact hcode
  exact when_of_enabled (by rw [hgo, hserving, hunnamed]; rfl)

/-! ## Queues (R388) -/

section Queues

theorem execQcreate_of_taken (h : Accepted s 0x01 s.qcreateWords) (htaken : (s.queue? (s.cmdField 1 0 12)).isSome = true) :
    execQcreate s = .next (s.cmdDone 3 0) := (command_of_accepted _ h).trans (if_pos htaken)

theorem execQcreate_of_free (h : Accepted s 0x01 s.qcreateWords) (hfree : s.queue? (s.cmdField 1 0 12) = none) :
    execQcreate s = .next (({ s with hub := { s.hub with queues := s.hub.queues ++ [s.newQueue] } } : State).cmdDone 0 0) :=
  (command_of_accepted _ h).trans (if_neg (by rw [hfree]; exact Bool.false_ne_true))

variable (h : Accepted s 0x02 (s.zeroAbove 1 12 :: s.zeroFrom 2))
include h

theorem execQdestroy_of_missing (hq : s.queue? (s.cmdField 1 0 12) = none) : execQdestroy s = .next (s.cmdDone 3 0) := by
  simp only [execQdestroy, command_of_accepted _ h, hq]

variable {q : Queue} (hq : s.queue? (s.cmdField 1 0 12) = some q)
include hq

theorem execQdestroy_of_pending (hrunning : q.halted = none) (hpending : q.pending ≠ 0 ∨ q.ahead ≠ [] ∨ q.look ≠ []) :
    execQdestroy s = .next (s.cmdDone 3 0) := by
  have hbusy : ((q.halted.isNone && (q.pending != 0 || !q.ahead.isEmpty || !q.look.isEmpty)) ||
      s.hub.tasks.any (fun (k : Task) => k.queue == s.cmdField 1 0 12)) = true := by
    rw [Bool.or_eq_true]
    exact Or.inl (by simpa [hrunning, or_assoc] using hpending)
  simp only [execQdestroy, command_of_accepted _ h, hq, if_pos hbusy]

theorem execQdestroy_of_task (htask : ∃ k ∈ s.hub.tasks, k.queue = s.cmdField 1 0 12) : execQdestroy s = .next (s.cmdDone 3 0) := by
  have hbusy : ((q.halted.isNone && (q.pending != 0 || !q.ahead.isEmpty || !q.look.isEmpty)) ||
      s.hub.tasks.any (fun (k : Task) => k.queue == s.cmdField 1 0 12)) = true := by
    rw [Bool.or_eq_true]
    exact Or.inr (by simpa using htask)
  simp only [execQdestroy, command_of_accepted _ h, hq, if_pos hbusy]

theorem execQdestroy_of_done (hdone : q.halted.isSome = true ∨ q.pending = 0 ∧ q.ahead = [] ∧ q.look = [])
    (hno : ∀ k ∈ s.hub.tasks, k.queue ≠ s.cmdField 1 0 12) :
    execQdestroy s = .next (({ s with hub := { s.hub with
      queues := s.hub.queues.filter (fun (x : Queue) => x.num != s.cmdField 1 0 12)
      posted := s.hub.posted.filter (fun (p : Posted) => p.queue != s.cmdField 1 0 12) } } : State).cmdDone 0 0) := by
  have hpackets : (q.halted.isNone && (q.pending != 0 || !q.ahead.isEmpty || !q.look.isEmpty)) = false := by
    rcases hdone with hhalted | ⟨hpending, hahead, hlook⟩
    · obtain ⟨r, hr⟩ := Option.isSome_iff_exists.mp hhalted
      rw [hr]
      rfl
    · simp [hpending, hahead, hlook]
  have htasks : s.hub.tasks.any (fun (k : Task) => k.queue == s.cmdField 1 0 12) = false := by simpa using hno
  simp only [execQdestroy, command_of_accepted _ h, hq, hpackets, htasks, Bool.or_self, Bool.false_eq_true, if_false]

end Queues

/-! ## Pages (R388, R390, R509, R512) -/

section Map

variable (h : Accepted s 0x10 s.mapWords)
include h

theorem execMapPages_of_taken (htaken : s.pages.any (meetsPage s.mapCmd.asid s.mapCmd.base (s.mapCmd.count * s.mapCmd.size)) = true) :
    execMapPages s = .next (s.cmdDone 3 0) := (command_of_accepted _ h).trans (if_pos htaken)

variable (hfree : s.pages.any (meetsPage s.mapCmd.asid s.mapCmd.base (s.mapCmd.count * s.mapCmd.size)) = false)
include hfree

theorem execMapPages_of_blocked (hblocked : (s.mapBlocked s.mapCmd).isSome = true) : execMapPages s = .next s := by
  simp only [execMapPages, command_of_accepted _ h, hfree, Bool.false_eq_true, if_false, hblocked, if_true]

variable (hready : s.mapBlocked s.mapCmd = none)
include hready

/-- The pages that found a frame, and how many found none. -/
theorem execMapPages_of_ready {u : State} {n : Nat} (hmap : State.mapPagesFrom s.mapCmd s.mapCmd.count 0 s = (u, n)) :
    execMapPages s = if n = 0 then .next (u.cmdDone 0 0) else .next (s.cmdDone 11 n) := by
  simp only [execMapPages, command_of_accepted _ h, hfree, Bool.false_eq_true, if_false, hready, Option.isSome_none, hmap]

end Map

theorem execMapWaitTimeout_of_late {bit : Nat} (hruns : s.cmdRuns 0x10 = true) (hblocked : s.mapBlocked s.mapCmd = some bit)
    (hlate : Nat.max s.hub.cmdSince (s.hub.cmdAt.getD 0) + 10000000000 ≤ s.now) : execMapWaitTimeout s = .next (s.cmdDone 5 bit) := by
  simp only [execMapWaitTimeout, State.mapOverdue, hruns, hblocked, if_pos hlate]

section Unmap

/-- The pages that UNMAP's range meets. -/
def unmapHit (s : State) : List Page := s.pages.filter (meetsPage (s.cmdField 1 0 12) (s.cmdWord 2).toNat (65536 * (s.cmdWord 3).toNat))

/-- A page lies wholly in UNMAP's range. -/
def UnmapWhole (s : State) (p : Page) : Prop :=
  (s.cmdWord 2).toNat ≤ p.vbase ∧ p.vbase + p.size ≤ (s.cmdWord 2).toNat + 65536 * (s.cmdWord 3).toNat

theorem not_any_part (hwhole : ∀ p ∈ unmapHit s, UnmapWhole s p) :
    ¬ (unmapHit s).any (fun p => !(decide ((s.cmdWord 2).toNat ≤ p.vbase) &&
      decide (p.vbase + p.size ≤ (s.cmdWord 2).toNat + 65536 * (s.cmdWord 3).toNat))) = true := by
  simpa [UnmapWhole] using hwhole

variable (h : Accepted s 0x11 s.unmapWords)
include h

/-- UNMAP's own part, by the pages that its range meets; a host page has no bytes of the package to clear. -/
theorem execUnmap_of_accepted :
    execUnmap s =
      if (unmapHit s).any (fun p => !(decide ((s.cmdWord 2).toNat ≤ p.vbase) &&
          decide (p.vbase + p.size ≤ (s.cmdWord 2).toNat + 65536 * (s.cmdWord 3).toNat))) then .next (s.cmdDone 3 0)
      else if (unmapHit s).any s.pageBusy then .next s
      else
        let u := (unmapHit s).foldl (fun s (p : Page) => s.failPage p 196) s
        .next (({ u with
          pages := u.pages.filter (fun p => !meetsPage (s.cmdField 1 0 12) (s.cmdWord 2).toNat (65536 * (s.cmdWord 3).toNat) p)
          mem := (unmapHit s).foldl (fun (m : Memory) p => match p.place with | .host _ => m | _ => m.clearRange p.place.flat p.size) u.mem } :
            State).cmdDone 0 (unmapHit s).length) := by
  have hclear : ∀ p : Page, ∀ m : Memory,
      (if (match p.place with | .host _ => true | _ => false) = true then m else m.clearRange p.place.flat p.size) =
        (match p.place with | .host _ => m | _ => m.clearRange p.place.flat p.size) := by
    intro p m
    cases p.place <;> rfl
  refine (command_of_accepted _ h).trans ?_
  simp only [← hclear]
  rfl

theorem execUnmap_of_part (hpart : ∃ p ∈ unmapHit s, ¬ UnmapWhole s p) : execUnmap s = .next (s.cmdDone 3 0) := by
  obtain ⟨p, hp, hnot⟩ := hpart
  rw [execUnmap_of_accepted h, if_pos (List.any_eq_true.mpr ⟨p, hp, ?_⟩)]
  rw [← Bool.decide_and, ← decide_not]
  exact decide_eq_true hnot

theorem execUnmap_of_busy (hwhole : ∀ p ∈ unmapHit s, UnmapWhole s p) (hbusy : ∃ p ∈ unmapHit s, s.pageBusy p = true) : execUnmap s = .next s := by
  rw [execUnmap_of_accepted h, if_neg (not_any_part hwhole), if_pos (List.any_eq_true.mpr hbusy)]

theorem execUnmap_of_quiet (hwhole : ∀ p ∈ unmapHit s, UnmapWhole s p) (hquiet : ∀ p ∈ unmapHit s, s.pageBusy p = false) :
    let u := (unmapHit s).foldl (fun s (p : Page) => s.failPage p 196) s
    execUnmap s = .next (({ u with
      pages := u.pages.filter (fun p => !meetsPage (s.cmdField 1 0 12) (s.cmdWord 2).toNat (65536 * (s.cmdWord 3).toNat) p)
      mem := (unmapHit s).foldl (fun (m : Memory) p => match p.place with | .host _ => m | _ => m.clearRange p.place.flat p.size) u.mem } :
        State).cmdDone 0 (unmapHit s).length) := by
  have hidle : ¬ (unmapHit s).any s.pageBusy = true := by simpa using hquiet
  rw [execUnmap_of_accepted h, if_neg (not_any_part hwhole), if_neg hidle]

end Unmap

/-! ## Code objects (R388, R510, R511) -/

section Objects

variable (h : Accepted s 0x20 s.coloadWords)
include h

theorem execCoload_of_bad {i : Nat} (hbad : objectBad (s.vaBytes (s.cmdField 1 0 12) (s.cmdWord 2).toNat (s.cmdWord 3).toNat) = some i) :
    execCoload s = .next (s.cmdDone 9 i) := by
  simp only [execCoload, command_of_accepted _ h, hbad]

variable (hgood : objectBad (s.vaBytes (s.cmdField 1 0 12) (s.cmdWord 2).toNat (s.cmdWord 3).toNat) = none)
include hgood

/-- The region that COLOAD loads into is mapped as far as the object's sections reach. -/
def coloadMapped (s : State) : Bool :=
  let region := (s.cmdWord 4).toNat
  let ss := sectionsOf (s.vaBytes (s.cmdField 1 0 12) (s.cmdWord 2).toNat (s.cmdWord 3).toNat)
  s.mapped (s.cmdField 1 0 12) region (layoutEnd ss region - region) true

theorem execCoload_of_unmapped (hpart : coloadMapped s = false) : execCoload s = .next (s.cmdDone 2 4) := by
  simp only [execCoload, command_of_accepted _ h, hgood]
  exact if_pos (by rw [Bool.not_eq_true']; exact hpart)

end Objects

section Unload

variable (h : Accepted s 0x21 ((1, s.cmdField 1 0 32 == 0) :: s.zeroFrom 2))
include h

theorem execCounload_of_refused
    (hno : (∀ o ∈ s.hub.objects, o.handle ≠ s.cmdField 1 32 32) ∨ (∃ k ∈ s.hub.tasks, k.kern.handle / 2 ^ 32 = s.cmdField 1 32 32)) :
    execCounload s = .next (s.cmdDone 3 0) := by
  refine (command_of_accepted _ h).trans (if_pos ?_)
  rw [Bool.or_eq_true]
  exact hno.imp (fun hmissing => by simpa using hmissing) (fun htask => by simpa using htask)

theorem execCounload_of_free (hfound : ∃ o ∈ s.hub.objects, o.handle = s.cmdField 1 32 32)
    (hno : ∀ k ∈ s.hub.tasks, k.kern.handle / 2 ^ 32 ≠ s.cmdField 1 32 32) :
    execCounload s =
      .next (({ s with hub := { s.hub with objects := s.hub.objects.filter (fun (o : Object) => o.handle != s.cmdField 1 32 32) } } : State).cmdDone 0 0) := by
  refine (command_of_accepted _ h).trans (if_neg ?_)
  rw [Bool.or_eq_true, not_or]
  exact ⟨by simpa using hfound, by simpa using hno⟩

end Unload

/-! ## Teams (R388) -/

section Teams

variable {t : Team}

section Resume

variable (h : Accepted s 0x30 (s.zeroAbove 1 32 :: s.zeroFrom 3))
include h

theorem execTresume_of_missing (ht : s.taskTeam = none) : execTresume s = .next (s.cmdDone 3 0) := by
  simp only [execTresume, command_of_accepted _ h, ht]

theorem execTresume_of_team (ht : s.taskTeam = some t) :
    execTresume s = if t.status = .stopped then .next ((s.updTeam t.rid (fun (u : Team) => { u with status := .suspended u.atEquivalence })).cmdDone 0 0)
      else .next (s.cmdDone 3 0) := by
  simp only [execTresume, command_of_accepted _ h, ht]

end Resume

variable (h : Accepted s 0x31 (s.zeroAbove 1 32 :: s.zeroFrom 3))
include h

theorem execTstop_of_missing (ht : s.taskTeam = none) : execTstop s = .next (s.cmdDone 3 0) := by
  simp only [execTstop, command_of_accepted _ h, ht]

variable (ht : s.taskTeam = some t)
include ht

theorem execTstop_of_running (hstatus : t.status = .resident ∨ t.status = .suspending) :
    execTstop s = .next (((s.dropMove t).updTeam t.rid (fun (u : Team) => { u with status := .stopping [] true })).cmdDone 0 0) := by
  rcases hstatus with hstatus | hstatus <;> simp only [execTstop, command_of_accepted _ h, ht, hstatus]

theorem execTstop_of_breaking {l : List (Nat × Nat × Nat)} (hstatus : t.status = .stopping l false) :
    execTstop s = .next ((s.updTeam t.rid (fun (u : Team) => { u with status := .stopping l true })).cmdDone 0 0) := by
  simp only [execTstop, command_of_accepted _ h, ht, hstatus]

theorem execTstop_of_suspended {b : Bool} (hstatus : t.status = .suspended b) :
    execTstop s = .next (((s.updTeam t.rid (fun (u : Team) => { u with status := .stopped })).event 4 0 0 t.task t.index 0 0).cmdDone 0 0) := by
  simp only [execTstop, command_of_accepted _ h, ht, hstatus]

/-- A team that has stopped, stops already for the host or ends is not stopped. -/
theorem execTstop_of_other (hresident : t.status ≠ .resident) (hsuspending : t.status ≠ .suspending) (hsuspended : ∀ b, t.status ≠ .suspended b)
    (hstopping : ∀ l, t.status ≠ .stopping l false) : execTstop s = .next (s.cmdDone 3 0) := by
  refine (command_of_accepted _ h).trans ?_
  rw [ht]
  dsimp only
  split
  next hstatus => exact absurd hstatus hresident
  next hstatus => exact absurd hstatus hsuspending
  next hstatus => exact absurd hstatus (hstopping _)
  next hstatus => exact absurd hstatus (hsuspended _)
  next => rfl

end Teams

/-! ## Firmware updates (R403, R510) -/

section Fwupdate

variable (h : Accepted s 0x50 s.fwupdateWords)
include h

theorem execFwupdate_of_updating (hupdating : s.hub.updating = true) : execFwupdate s = .next (s.cmdDone 7 0) :=
  (command_of_accepted _ h).trans (if_pos hupdating)

variable (hidle : s.hub.updating = false)
include hidle

theorem execFwupdate_of_no_standby (hnone : s.hub.ready.getLsbD 3 = false) : execFwupdate s = .next (s.cmdDone 5 3) := by
  refine (command_of_accepted _ h).trans ?_
  rw [hidle, hnone]
  rfl

variable (hready : s.hub.ready.getLsbD 3 = true)
include hready

/-- With a standby and no update under way it turns on the image. -/
theorem execFwupdate_of_ready :
    let img := s.vaBytes (s.cmdField 1 0 12) (s.cmdWord 2).toNat (s.cmdWord 3).toNat
    let u := (s.setComplex false { s.complex false with stver := le img 12 4, svn := le img 8 4 }).setComplex true
      { s.complex true with up := false, stver := le img 12 4, svn := le img 8 4 }
    execFwupdate s =
      if !imageOk img 1 then .next ((s.log { cause := 897 }).cmdDone 6 0)
      else if !Config.acceptsStateTable (le img 12 4) (s.complex true).stver then .next (((s.log { cause := 898 }).setReady 3 false).cmdDone 8 (s.complex true).stver)
      else .next ((({ u with hub := { u.hub with role := !u.hub.role, updating := true } } : State).setReady 3 false).cmdDone 0 0) := by
  refine (command_of_accepted _ h).trans ?_
  rw [hidle, hready]
  rfl

end Fwupdate

/-! ## Ethernet areas (R396) -/

section Ingset

variable (h : Accepted s 0x70 s.ingsetWords)
include h

theorem execIngset_of_off (hoff : s.cmdField 1 20 1 = 0) : execIngset s = .next ((s.dropArea s.newArea.area).cmdDone 0 0) :=
  (command_of_accepted _ h).trans (if_pos (by rw [hoff]; rfl))

variable (hon : s.cmdField 1 20 1 = 1)
include hon

theorem execIngset_of_no_room (hbring : (s.dropArea s.newArea.area).bringRange s.newArea.asid s.newArea.base s.newArea.bytes = none) :
    execIngset s = .next (s.cmdDone 11 1) := by
  simp only [execIngset, command_of_accepted _ h, hon, bne_self_eq_false, Bool.false_eq_true, if_false, hbring]

theorem execIngset_of_room {u : State} (hbring : (s.dropArea s.newArea.area).bringRange s.newArea.asid s.newArea.base s.newArea.bytes = some u) :
    let p := u.pinRange s.newArea.asid s.newArea.base s.newArea.bytes true
    execIngset s = .next (({ p with hub := { p.hub with ingress := p.hub.ingress ++ [s.newArea] } } : State).cmdDone 0 0) := by
  simp only [execIngset, command_of_accepted _ h, hon, bne_self_eq_false, Bool.false_eq_true, if_false, hbring]

end Ingset

/-- Settles O29: what all commands share (`exec_of_commandTable`), then the equations of each command's own part. -/
theorem managementCommandResults : Obligations.ManagementCommandResults := by
  unfold Obligations.ManagementCommandResults
  intro s
  refine ⟨?every, execUnassignedCommand_of_unnamed, fun h => ⟨execQcreate_of_free h, execQcreate_of_taken h⟩, ?qdestroy, ?map, ?late, ?unmap, ?coload,
    fun h => ⟨execCounload_of_refused h, execCounload_of_free h⟩, ?tresume, ?tstop, ?resync, ?fwupdate, ?ingset⟩
  case every =>
    intro x hx
    obtain ⟨go, hgo⟩ := exec_of_commandTable x hx
    exact ⟨fun hruns => hgo.trans (command_of_not_running go hruns), fun i hruns hbad => hgo.trans (command_of_offending go hruns hbad)⟩
  case qdestroy =>
    exact fun h => ⟨execQdestroy_of_missing h, fun _ => execQdestroy_of_pending h, fun _ => execQdestroy_of_task h, fun _ => execQdestroy_of_done h⟩
  case map =>
    intro h
    refine ⟨execMapPages_of_taken h, execMapPages_of_blocked h, fun u hfree hready hmap => ?_, fun u n hfree hready hmap hn => ?_⟩
    · exact (execMapPages_of_ready h hfree hready hmap).trans (if_pos rfl)
    · exact (execMapPages_of_ready h hfree hready hmap).trans (if_neg hn)
  case late => exact fun _ => execMapWaitTimeout_of_late
  case unmap =>
    intro h
    refine ⟨execUnmap_of_part h, execUnmap_of_busy h, fun hboth => ?_⟩
    exact execUnmap_of_quiet h (fun p hp => ⟨(hboth p hp).1, (hboth p hp).2.1⟩) (fun p hp => (hboth p hp).2.2)
  case coload =>
    intro h
    refine ⟨fun i => execCoload_of_bad h, execCoload_of_unmapped h, fun hgood hwhole => ?_⟩
    have hneg : ¬ (!coloadMapped s) = true := by rw [show coloadMapped s = true from hwhole]; decide
    simp only [exec, execCoload, command_of_accepted _ h, hgood]
    exact if_neg hneg
  case tresume =>
    intro h
    refine ⟨execTresume_of_missing h, fun t ht hstatus => ?_, fun t ht hstatus => ?_⟩
    · exact (execTresume_of_team h ht).trans (if_neg hstatus)
    · exact (execTresume_of_team h ht).trans (if_pos hstatus)
  case tstop =>
    exact fun h => ⟨execTstop_of_missing h, fun _ => execTstop_of_running h, fun _ _ ht => execTstop_of_breaking h ht, fun _ _ ht => execTstop_of_suspended h ht,
      fun _ => execTstop_of_other h⟩
  case resync =>
    intro h b len head u
    refine ⟨fun hsmall => ?_, fun hroom => ?_⟩
    · exact (command_of_accepted _ h).trans (if_pos hsmall)
    · exact (command_of_accepted _ h).trans (if_neg (not_lt.mpr hroom))
  case fwupdate =>
    intro h img u
    refine ⟨execFwupdate_of_updating h, execFwupdate_of_no_standby h, fun hidle hready hbad => ?_, fun hidle hready hok hold => ?_,
      fun hidle hready hok haccepts => ?_⟩
    · exact (execFwupdate_of_ready h hidle hready).trans (if_pos (by rw [hbad]; rfl))
    · exact (execFwupdate_of_ready h hidle hready).trans ((if_neg (by rw [hok]; decide)).trans (if_pos (by rw [hold]; rfl)))
    · exact (execFwupdate_of_ready h hidle hready).trans ((if_neg (by rw [hok]; decide)).trans (if_neg (by rw [haccepts]; decide)))
  case ingset => exact fun h => ⟨execIngset_of_off h, execIngset_of_no_room h, fun _ hon => execIngset_of_room h hon⟩

end Sys2Proof.Proofs

/-! PROOFS. Boot, readiness and failover (R399, R400, R403, R501 to R508): a unit's start by its bit, and the events of the two complexes where their
conditions enable them. -/

namespace Sys2Proof.Proofs

open Sys2Proof.Machine

variable {s : State}

/-! ## Units that start (R387, R399, R400, R403) -/

section Starting

/-- The active complex's firmware ends the boot status, and sets dom where its links are ready. -/
theorem execUnitReady_fw (hstart : s.startable 0 = true) :
    execUnitReady 0 s =
      let u := (s.setReady 0 true).setComplex true { (s.setReady 0 true).complex true with up := true }
      let r : State := { u with hub := { u.hub with fwAt := some s.now, cmdRes := 0 } }
      .next (if r.hub.domReady then r.setReady 41 true else r) := by
  rw [execUnitReady, hstart]
  rfl

theorem execUnitReady_cmd (hstart : s.startable 1 = true) :
    execUnitReady 1 s = .next (({ s.setReady 1 true with hub := { (s.setReady 1 true).hub with cmdAt := some s.now } } : State).releaseBells) := by
  rw [execUnitReady, hstart]
  rfl

/-- The standby's readiness ends a firmware update. -/
theorem execUnitReady_stby (hstart : s.startable 3 = true) :
    execUnitReady 3 s =
      let k : Machine.Complex := { (s.setReady 3 true).complex false with up := true }
      let u := (s.setReady 3 true).setComplex false k
      .next (if s.hub.updating then ({ u with hub := { u.hub with updating := false } } : State).event 3 0 0 0 0 0 (mkWord k.stver) else u) := by
  rw [execUnitReady, hstart]
  rfl

theorem execUnitReady_other {bit : Nat} (hstart : s.startable bit = true) (hother : bit ∉ [0, 1, 3]) :
    execUnitReady bit s = .next (s.setReady bit true) := by
  simp only [List.mem_cons, List.not_mem_nil, or_false, not_or] at hother
  obtain ⟨hfw, hcmd, hstby⟩ := hother
  rw [execUnitReady, if_neg (by rw [hstart]; decide)]
  dsimp only
  split
  · exact absurd rfl hfw
  · exact absurd rfl hcmd
  · exact absurd rfl hstby
  · rfl

end Starting

/-! ## The complexes (R501 to R506) -/

theorem takeover_of_no_standby (hnone : s.hub.ready.getLsbD 3 = false) : s.takeover = s.packageReset := by
  rw [State.takeover, hnone]
  rfl

theorem execStandbyReboot_of_failed (hfailed : (s.complex false).failed = true) (halive : (s.complex false).dead = false)
    (hfw : s.hub.ready.getLsbD 0 = true) :
    execStandbyReboot s = .next ((s.setComplex false { s.complex false with
      up := true, failed := false, rebootAt := some s.now, stver := (s.complex true).stver, svn := (s.complex true).svn }).setReady 3 true) :=
  when_of_enabled (by rw [hfailed, halive, hfw]; rfl)

/-- Settles O31: the reset as it is defined, a unit's start by its bit, and the other events where their conditions enable them. -/
theorem bootReadinessAndFailover : Obligations.BootReadinessAndFailover := by
  unfold Obligations.BootReadinessAndFailover
  intro s
  refine ⟨rfl, execUnitReady_fw, execUnitReady_cmd, ?stby, ?update, ?other, ?late, ?loss, takeover_of_no_standby, ?report, ?reboot, ?failure⟩
  case stby => exact fun hstart hidle => (execUnitReady_stby hstart).trans (by rw [hidle]; rfl)
  case update => exact fun hstart hupdating => (execUnitReady_stby hstart).trans (by rw [hupdating]; rfl)
  case other => exact fun _ hstart hother => execUnitReady_other hstart hother
  case late => exact fun _ hlate => when_of_enabled hlate
  case loss => exact fun hfw => when_of_enabled hfw
  case report => exact fun hfw => when_of_enabled hfw
  case reboot => exact execStandbyReboot_of_failed
  case failure => exact fun hup => when_of_enabled hup

end Sys2Proof.Proofs
